-- ==== Sys2Proof/Word.lean ====
section
/-! DEFINITION. The word types of Ezril (R4, R104, R146) and the type of sparse tables. -/

namespace Sys2Proof

/-- A 64-bit scalar register or memory word (R104). -/
abbrev Word := BitVec 64

/-- One byte of memory. -/
abbrev Byte := BitVec 8

/-- The largest vector register, 65,536 bits (R106); a hart's registers use the low VLMAX bits. -/
abbrev VReg := BitVec 65536

/-- A sparse table: keys strictly rising, and no entry that equals what an unlisted key reads as. -/
abbrev Tab (α : Type) := List (Nat × α)

end Sys2Proof
end

