-- ==== Sys2Proof/Syntax.lean ====
section
/-! DEFINITION. The instruction set of Ezril 1.0 as data: one constructor for each row of spec/opcode_table.json.
The first 309 are instruction words (R146 to R149); a field's letter is the table's. The rest are the device's own steps,
which have no word: each carries what the event itself brings with it (who it concerns, what was written or received). -/

namespace Sys2Proof

/-- A request that a home slice applies (R48): a read, a write of another agent, the eviction of a line (R42), or the
marking of a line found uncorrectable (R37). -/
inductive SliceReq where
  | read (pa : Nat)
  | write (pa : Nat) (bytes : List Byte)
  | evict (line : Nat)
  | poison (line : Nat)
  deriving DecidableEq, Repr

/-- A Kraha flit (R324); payload and crc as received. -/
structure Flit where
  seq : BitVec 32
  ack : BitVec 32
  type : Byte
  cid : BitVec 16
  src : BitVec 12
  dst : BitVec 12
  tile : BitVec 16
  round : Byte
  nblk : Byte
  wg : Byte
  ncon : Byte
  payload : List Byte
  crc : BitVec 64
  deriving DecidableEq, Repr

/-- The header of a management message (R439): SEQ, ACK and TAG. -/
structure MsgHead where
  seq : BitVec 32
  ack : BitVec 32
  tag : BitVec 16
  deriving DecidableEq, Repr

/-- What brings about a fatal stop (R445). -/
inductive FatalCause where
  | doubleBit | bridge | thermal | watchdog
  deriving DecidableEq, Repr

/-- The instructions and steps of the opcode table. -/
inductive Instr where
  /-- NOP (R181). Empty slot that does nothing. -/
  | nop
  /-- TRAP (R182). Control transfer that takes a SYSCALL trap with tval n and epc at the next convoy. -/
  | trap (b : BitVec 5)
  /-- ERET (R183). Returns from a trap, restoring SUP and IE and re-issuing the shadow VQ before resuming at epc. -/
  | eret
  /-- WAIT (R184). Stops the address processor until an interrupt is pending, gphase advances or a debug halt is requested. -/
  | wait
  /-- BRK (R182). Traps with cause BREAK like a faulting scalar slot, or enters debug halt when halt on break is selected. -/
  | brk
  /-- FENCE_I (R185). Waits for the hart's stores, invalidates the core's instruction cache and refetches from the next convoy. -/
  | fenceI
  /-- TLB_INV (R186). Removes cached translations selected by address, asid and scope, stalling until complete. -/
  | tlbInv (a : BitVec 5) (b : BitVec 5) (c : BitVec 4)
  /-- L1_INV (R187). Invalidates one line, or the whole scalar data cache, of the core. -/
  | l1Inv (a : BitVec 5)
  /-- ADD (R167). sd := sa + sb modulo 2^64. -/
  | add (d : BitVec 5) (a : BitVec 5) (b : BitVec 5)
  /-- SUB (R167). sd := sa - sb modulo 2^64. -/
  | sub (d : BitVec 5) (a : BitVec 5) (b : BitVec 5)
  /-- AND (R167). Bitwise and of two registers. -/
  | and (d : BitVec 5) (a : BitVec 5) (b : BitVec 5)
  /-- OR (R167). Bitwise or of two registers. -/
  | or (d : BitVec 5) (a : BitVec 5) (b : BitVec 5)
  /-- XOR (R167). Bitwise exclusive or of two registers. -/
  | xor (d : BitVec 5) (a : BitVec 5) (b : BitVec 5)
  /-- SLL (R167). Logical left shift by sb[5:0]. -/
  | sll (d : BitVec 5) (a : BitVec 5) (b : BitVec 5)
  /-- SRL (R167). Logical right shift by sb[5:0]. -/
  | srl (d : BitVec 5) (a : BitVec 5) (b : BitVec 5)
  /-- SRA (R167). Arithmetic right shift by sb[5:0]. -/
  | sra (d : BitVec 5) (a : BitVec 5) (b : BitVec 5)
  /-- MIN (R167). Signed minimum of two registers. -/
  | min (d : BitVec 5) (a : BitVec 5) (b : BitVec 5)
  /-- MAX (R167). Signed maximum of two registers. -/
  | max (d : BitVec 5) (a : BitVec 5) (b : BitVec 5)
  /-- MINN (R167). Unsigned minimum of two registers. -/
  | minn (d : BitVec 5) (a : BitVec 5) (b : BitVec 5)
  /-- MAXN (R167). Unsigned maximum of two registers. -/
  | maxn (d : BitVec 5) (a : BitVec 5) (b : BitVec 5)
  /-- SLT (R167). Sets sd to 1 when sa is signed-less than sb. -/
  | slt (d : BitVec 5) (a : BitVec 5) (b : BitVec 5)
  /-- SLTN (R167). Sets sd to 1 when sa is unsigned-less than sb. -/
  | sltn (d : BitVec 5) (a : BitVec 5) (b : BitVec 5)
  /-- SEL (R167). Selects sa when the old sd is nonzero, else sb. -/
  | sel (d : BitVec 5) (a : BitVec 5) (b : BitVec 5)
  /-- MUL (R168). Low 64 bits of the product. -/
  | mul (d : BitVec 5) (a : BitVec 5) (b : BitVec 5)
  /-- MULH (R168). High 64 bits of the signed product. -/
  | mulh (d : BitVec 5) (a : BitVec 5) (b : BitVec 5)
  /-- MULHN (R168). High 64 bits of the unsigned product. -/
  | mulhn (d : BitVec 5) (a : BitVec 5) (b : BitVec 5)
  /-- DIV (R168). Signed quotient toward zero, never trapping. -/
  | div (d : BitVec 5) (a : BitVec 5) (b : BitVec 5)
  /-- DIVN (R168). Unsigned quotient toward zero, never trapping. -/
  | divn (d : BitVec 5) (a : BitVec 5) (b : BitVec 5)
  /-- REM (R168). Signed remainder with the sign of a. -/
  | rem (d : BitVec 5) (a : BitVec 5) (b : BitVec 5)
  /-- REMN (R168). Unsigned remainder. -/
  | remn (d : BitVec 5) (a : BitVec 5) (b : BitVec 5)
  /-- CLZ (R167). Counts leading zero bits. -/
  | clz (d : BitVec 5) (a : BitVec 5)
  /-- CTZ (R167). Counts trailing zero bits. -/
  | ctz (d : BitVec 5) (a : BitVec 5)
  /-- POPC (R167). Counts one bits. -/
  | popc (d : BitVec 5) (a : BitVec 5)
  /-- BSWAP (R167). Reverses the eight bytes. -/
  | bswap (d : BitVec 5) (a : BitVec 5)
  /-- ADDI (R167). Adds a sign-extended immediate. -/
  | addi (d : BitVec 5) (a : BitVec 5) (i : BitVec 16)
  /-- ANDI (R167). Ands a zero-extended immediate. -/
  | andi (d : BitVec 5) (a : BitVec 5) (i : BitVec 16)
  /-- ORI (R167). Ors a zero-extended immediate. -/
  | ori (d : BitVec 5) (a : BitVec 5) (i : BitVec 16)
  /-- XORI (R167). Exclusive-ors a zero-extended immediate. -/
  | xori (d : BitVec 5) (a : BitVec 5) (i : BitVec 16)
  /-- SLTI (R167). Signed compare against an immediate. -/
  | slti (d : BitVec 5) (a : BitVec 5) (i : BitVec 16)
  /-- SLTNI (R167). Unsigned compare against a sign-extended immediate. -/
  | sltni (d : BitVec 5) (a : BitVec 5) (i : BitVec 16)
  /-- SLLI (R167). Logical left shift by an immediate. -/
  | slli (d : BitVec 5) (a : BitVec 5) (h : BitVec 6)
  /-- SRLI (R167). Logical right shift by an immediate. -/
  | srli (d : BitVec 5) (a : BitVec 5) (h : BitVec 6)
  /-- SRAI (R167). Arithmetic right shift by an immediate. -/
  | srai (d : BitVec 5) (a : BitVec 5) (h : BitVec 6)
  /-- LDHI (R169). Loads a sign-extended 20-bit immediate shifted left by 16. -/
  | ldhi (d : BitVec 5) (i : BitVec 20)
  /-- ADRC (R169). Forms the current convoy address plus 16 times a signed offset. -/
  | adrc (d : BitVec 5) (o : BitVec 20)
  /-- LD_B (R170). Loads a sign-extended byte at sa plus offset. -/
  | ldB (d : BitVec 5) (a : BitVec 5) (o : BitVec 13)
  /-- LD_H (R170). Loads a sign-extended halfword at sa plus offset. -/
  | ldH (d : BitVec 5) (a : BitVec 5) (o : BitVec 13)
  /-- LD_W (R170). Loads a sign-extended word at sa plus offset. -/
  | ldW (d : BitVec 5) (a : BitVec 5) (o : BitVec 13)
  /-- LD_D (R170). Loads a doubleword at sa plus offset. -/
  | ldD (d : BitVec 5) (a : BitVec 5) (o : BitVec 13)
  /-- LD_BN (R170). Loads a zero-extended byte at sa plus offset. -/
  | ldBn (d : BitVec 5) (a : BitVec 5) (o : BitVec 13)
  /-- LD_HN (R170). Loads a zero-extended halfword at sa plus offset. -/
  | ldHn (d : BitVec 5) (a : BitVec 5) (o : BitVec 13)
  /-- LD_WN (R170). Loads a zero-extended word at sa plus offset. -/
  | ldWn (d : BitVec 5) (a : BitVec 5) (o : BitVec 13)
  /-- LD_B_AQ (R172). Acquire form of ld.b, stalling until its data returns. -/
  | ldBAq (d : BitVec 5) (a : BitVec 5) (o : BitVec 13)
  /-- LD_H_AQ (R172). Acquire form of ld.h. -/
  | ldHAq (d : BitVec 5) (a : BitVec 5) (o : BitVec 13)
  /-- LD_W_AQ (R172). Acquire form of ld.w. -/
  | ldWAq (d : BitVec 5) (a : BitVec 5) (o : BitVec 13)
  /-- LD_D_AQ (R172). Acquire form of ld.d. -/
  | ldDAq (d : BitVec 5) (a : BitVec 5) (o : BitVec 13)
  /-- LD_BN_AQ (R172). Acquire form of ld.bn. -/
  | ldBnAq (d : BitVec 5) (a : BitVec 5) (o : BitVec 13)
  /-- LD_HN_AQ (R172). Acquire form of ld.hn. -/
  | ldHnAq (d : BitVec 5) (a : BitVec 5) (o : BitVec 13)
  /-- LD_WN_AQ (R172). Acquire form of ld.wn. -/
  | ldWnAq (d : BitVec 5) (a : BitVec 5) (o : BitVec 13)
  /-- LD_B_X (R170). Indexed byte load at sa plus sb, acquire when fn[3] is set. -/
  | ldBX (d : BitVec 5) (a : BitVec 5) (b : BitVec 5) (q : BitVec 1)
  /-- LD_H_X (R170). Indexed halfword load at sa plus sb. -/
  | ldHX (d : BitVec 5) (a : BitVec 5) (b : BitVec 5) (q : BitVec 1)
  /-- LD_W_X (R170). Indexed word load at sa plus sb. -/
  | ldWX (d : BitVec 5) (a : BitVec 5) (b : BitVec 5) (q : BitVec 1)
  /-- LD_D_X (R170). Indexed doubleword load at sa plus sb. -/
  | ldDX (d : BitVec 5) (a : BitVec 5) (b : BitVec 5) (q : BitVec 1)
  /-- LD_BN_X (R170). Indexed zero-extended byte load. -/
  | ldBnX (d : BitVec 5) (a : BitVec 5) (b : BitVec 5) (q : BitVec 1)
  /-- LD_HN_X (R170). Indexed zero-extended halfword load. -/
  | ldHnX (d : BitVec 5) (a : BitVec 5) (b : BitVec 5) (q : BitVec 1)
  /-- LD_WN_X (R170). Indexed zero-extended word load. -/
  | ldWnX (d : BitVec 5) (a : BitVec 5) (b : BitVec 5) (q : BitVec 1)
  /-- ST_B (R170). Stores the low byte of sd into the store buffer. -/
  | stB (d : BitVec 5) (a : BitVec 5) (o : BitVec 13)
  /-- ST_H (R170). Stores the low halfword of sd. -/
  | stH (d : BitVec 5) (a : BitVec 5) (o : BitVec 13)
  /-- ST_W (R170). Stores the low word of sd. -/
  | stW (d : BitVec 5) (a : BitVec 5) (o : BitVec 13)
  /-- ST_D (R170). Stores the doubleword sd. -/
  | stD (d : BitVec 5) (a : BitVec 5) (o : BitVec 13)
  /-- ST_B_RL (R172). Release store of a byte, performing after every earlier access of the hart. -/
  | stBRl (d : BitVec 5) (a : BitVec 5) (o : BitVec 13)
  /-- ST_H_RL (R172). Release store of a halfword. -/
  | stHRl (d : BitVec 5) (a : BitVec 5) (o : BitVec 13)
  /-- ST_W_RL (R172). Release store of a word. -/
  | stWRl (d : BitVec 5) (a : BitVec 5) (o : BitVec 13)
  /-- ST_D_RL (R172). Release store of a doubleword. -/
  | stDRl (d : BitVec 5) (a : BitVec 5) (o : BitVec 13)
  /-- ST_B_X (R170). Indexed byte store at sa plus sb, release when fn[3] is set. -/
  | stBX (d : BitVec 5) (a : BitVec 5) (b : BitVec 5) (q : BitVec 1)
  /-- ST_H_X (R170). Indexed halfword store. -/
  | stHX (d : BitVec 5) (a : BitVec 5) (b : BitVec 5) (q : BitVec 1)
  /-- ST_W_X (R170). Indexed word store. -/
  | stWX (d : BitVec 5) (a : BitVec 5) (b : BitVec 5) (q : BitVec 1)
  /-- ST_D_X (R170). Indexed doubleword store. -/
  | stDX (d : BitVec 5) (a : BitVec 5) (b : BitVec 5) (q : BitVec 1)
  /-- AMO_ADD (R173). Atomic add at the home slice, returning the old value. -/
  | amoAdd (d : BitVec 5) (a : BitVec 5) (b : BitVec 5) (c : BitVec 4) (o : BitVec 2) (w : BitVec 1)
  /-- AMO_AND (R173). Atomic and at the home slice. -/
  | amoAnd (d : BitVec 5) (a : BitVec 5) (b : BitVec 5) (c : BitVec 4) (o : BitVec 2) (w : BitVec 1)
  /-- AMO_OR (R173). Atomic or at the home slice. -/
  | amoOr (d : BitVec 5) (a : BitVec 5) (b : BitVec 5) (c : BitVec 4) (o : BitVec 2) (w : BitVec 1)
  /-- AMO_XOR (R173). Atomic exclusive or at the home slice. -/
  | amoXor (d : BitVec 5) (a : BitVec 5) (b : BitVec 5) (c : BitVec 4) (o : BitVec 2) (w : BitVec 1)
  /-- AMO_SWAP (R173). Atomic swap at the home slice. -/
  | amoSwap (d : BitVec 5) (a : BitVec 5) (b : BitVec 5) (c : BitVec 4) (o : BitVec 2) (w : BitVec 1)
  /-- AMO_MIN (R173). Atomic signed minimum at the home slice. -/
  | amoMin (d : BitVec 5) (a : BitVec 5) (b : BitVec 5) (c : BitVec 4) (o : BitVec 2) (w : BitVec 1)
  /-- AMO_MAX (R173). Atomic signed maximum at the home slice. -/
  | amoMax (d : BitVec 5) (a : BitVec 5) (b : BitVec 5) (c : BitVec 4) (o : BitVec 2) (w : BitVec 1)
  /-- AMO_CAS (R173). Atomic compare-and-swap against the old sd. -/
  | amoCas (d : BitVec 5) (a : BitVec 5) (b : BitVec 5) (c : BitVec 4) (o : BitVec 2) (w : BitVec 1)
  /-- BEQ (R175). Branches when the registers are equal. -/
  | beq (a : BitVec 5) (b : BitVec 5) (o : BitVec 16)
  /-- BNE (R175). Branches when the registers differ. -/
  | bne (a : BitVec 5) (b : BitVec 5) (o : BitVec 16)
  /-- BLT (R175). Branches on signed less. -/
  | blt (a : BitVec 5) (b : BitVec 5) (o : BitVec 16)
  /-- BGE (R175). Branches on signed greater or equal. -/
  | bge (a : BitVec 5) (b : BitVec 5) (o : BitVec 16)
  /-- BLTN (R175). Branches on unsigned less. -/
  | bltn (a : BitVec 5) (b : BitVec 5) (o : BitVec 16)
  /-- BGEN (R175). Branches on unsigned greater or equal. -/
  | bgen (a : BitVec 5) (b : BitVec 5) (o : BitVec 16)
  /-- JAL (R175). Jumps to a convoy offset and writes the link. -/
  | jal (d : BitVec 5) (o : BitVec 21)
  /-- JALR (R175). Jumps to sa plus 16 times the immediate and writes the link. -/
  | jalr (d : BitVec 5) (a : BitVec 5) (i : BitVec 16)
  /-- BQ (R177). Takes the oldest BQ condition and branches when it is true. -/
  | bq (o : BitVec 16)
  /-- BQ_NOT (R177). Takes the oldest BQ condition and branches when it is false. -/
  | bqNot (o : BitVec 16)
  /-- CTL_RD (R179). Reads a control register, through the RQ for vector-side registers. -/
  | ctlRd (d : BitVec 5) (r : BitVec 12)
  /-- CTL_WR (R179). Writes a control register's writable fields. -/
  | ctlWr (a : BitVec 5) (r : BitVec 12)
  /-- CTL_SET (R179). Sets bits of a control register. -/
  | ctlSet (a : BitVec 5) (r : BitVec 12)
  /-- CTL_CLR (R179). Clears bits of a control register. -/
  | ctlClr (a : BitVec 5) (r : BitVec 12)
  /-- VSETVL (R210). Renegotiates the lane grant and sets vtype and vl from registers. -/
  | vsetvl (d : BitVec 5) (a : BitVec 5) (b : BitVec 5)
  /-- VSETVLI (R210). Renegotiates the lane grant and sets vtype from an immediate type and vl. -/
  | vsetvli (d : BitVec 5) (a : BitVec 5) (t : BitVec 5)
  /-- GSETVL (R211). Gang-wide set-length with a shared lane count M_g. -/
  | gsetvl (d : BitVec 5) (a : BitVec 5) (b : BitVec 5)
  /-- VDECL (R212). Declares the vector register count and releases any ring. -/
  | vdecl (n : BitVec 2)
  /-- VDECL_BUF (R213). Declares a register-group ring of n slots of g registers. -/
  | vdeclBuf (n : BitVec 5) (v : BitVec 6) (g : BitVec 2)
  /-- TASK_POST (R194). Posts a task record to a queue after releasing earlier accesses and returns a status. -/
  | taskPost (d : BitVec 5) (a : BitVec 5) (b : BitVec 5)
  /-- TASK_TAKE (R196). Offers the hart to its cluster controller and waits until a task is bound. -/
  | taskTake (d : BitVec 5) (a : BitVec 5)
  /-- TASK_DONE (R199). Ends the hart's part in the bound task and unbinds it. -/
  | taskDone (d : BitVec 5) (a : BitVec 5)
  /-- TASK_YIELD (R200). Unbinds the hart without completing, returning the task to its queue head when last. -/
  | taskYield
  /-- STRIP_GRANT (R198). Hands the bound task's next strip to the hart, setting vl and tb0-tb5. -/
  | stripGrant (d : BitVec 5) (a : BitVec 5)
  /-- FUT_LD (R201). Requests a future word, stalling while deferred or returning a refusal. -/
  | futLd (d : BitVec 5) (a : BitVec 5) (b : BitVec 5)
  /-- FUT_ST (R201). Releases and stores to a future word, returning stored or occupied. -/
  | futSt (d : BitVec 5) (a : BitVec 5) (b : BitVec 5)
  /-- FUT_CLR (R201). Clears a future word's full bit and returns its old state. -/
  | futClr (d : BitVec 5) (a : BitVec 5)
  /-- FENCE (R203). Orders the hart's accesses of named kinds at a scope. -/
  | fence (k : BitVec 5) (c : BitVec 4)
  /-- DRAIN (R204). Waits until the named queue has drained. -/
  | drain (q : BitVec 5)
  /-- GARRIVE (R205). Marks the hart's arrival at its gang barrier. -/
  | garrive
  /-- GWAIT (R206). Waits until the phase of the latest arrival completes and acquires at gang scope. -/
  | gwait (d : BitVec 5)
  /-- ING_TAKE (R207). Takes the oldest token of an ingress channel, waiting while empty. -/
  | ingTake (d : BitVec 5) (a : BitVec 5)
  /-- EGR_POST (R207). Releases at package scope and posts a token on an egress channel. -/
  | egrPost (d : BitVec 5) (a : BitVec 5) (b : BitVec 5)
  /-- PCWAIT (R208). Waits on a sheaf header's precision counter and acquires the covered planes. -/
  | pcwait (d : BitVec 5) (a : BitVec 5) (b : BitVec 5) (c : BitVec 4)
  /-- STR_LD (R224). Stream from memory into a memory tile of the local window. -/
  | strLd (d : BitVec 5) (a : BitVec 5) (b : BitVec 5) (z : BitVec 1) (t : BitVec 1) (r : BitVec 1)
  /-- STR_ST (R224). Stream from a memory tile to memory outside the window. -/
  | strSt (d : BitVec 5) (a : BitVec 5) (b : BitVec 5) (t : BitVec 1) (r : BitVec 1)
  /-- STR_CP (R224). Stream copy between any two non-overlapping ranges. -/
  | strCp (d : BitVec 5) (a : BitVec 5) (b : BitVec 5) (z : BitVec 1) (t : BitVec 1) (r : BitVec 1)
  /-- STR_XCH (R226). Requests the gang transposition exchange. -/
  | strXch (d : BitVec 5) (a : BitVec 5) (b : BitVec 5) (t : BitVec 1) (r : BitVec 1)
  /-- STR_WAIT (R227). Waits for the hart's stream on a CQ entry and returns its status word. -/
  | strWait (d : BitVec 5) (a : BitVec 5)
  /-- COLL_SEND (R318). Converts and sends tiles to a peer as a bit-plane sheaf. -/
  | collSend (d : BitVec 5) (a : BitVec 5) (w : BitVec 4)
  /-- COLL_RECV (R319). Accepts sheaves from a peer into destination slots. -/
  | collRecv (d : BitVec 5) (a : BitVec 5) (w : BitVec 4)
  /-- COLL_RED (R320). Starts a reducer combining children and own contribution. -/
  | collRed (d : BitVec 5) (a : BitVec 5) (w : BitVec 4)
  /-- COLL_CANCEL (R321). Cancels a live receive or root context. -/
  | collCancel (d : BitVec 5) (a : BitVec 5)
  /-- COLL_STAT (R322). Returns the status word of a live collective context. -/
  | collStat (d : BitVec 5) (a : BitVec 5)
  /-- VADD_VV (R236). Element-wise integer add of two vectors. -/
  | vaddVv (d : BitVec 6) (a : BitVec 6) (b : BitVec 6) (m : BitVec 3)
  /-- VSUB_VV (R236). Element-wise integer subtract. -/
  | vsubVv (d : BitVec 6) (a : BitVec 6) (b : BitVec 6) (m : BitVec 3)
  /-- VRSUB_VV (R236). Element-wise reverse subtract. -/
  | vrsubVv (d : BitVec 6) (a : BitVec 6) (b : BitVec 6) (m : BitVec 3)
  /-- VMUL_VV (R236). Element-wise low product. -/
  | vmulVv (d : BitVec 6) (a : BitVec 6) (b : BitVec 6) (m : BitVec 3)
  /-- VMULH_I_VV (R236). Element-wise signed high product. -/
  | vmulhIVv (d : BitVec 6) (a : BitVec 6) (b : BitVec 6) (m : BitVec 3)
  /-- VMULH_N_VV (R236). Element-wise unsigned high product. -/
  | vmulhNVv (d : BitVec 6) (a : BitVec 6) (b : BitVec 6) (m : BitVec 3)
  /-- VDIV_I_VV (R236). Element-wise signed divide. -/
  | vdivIVv (d : BitVec 6) (a : BitVec 6) (b : BitVec 6) (m : BitVec 3)
  /-- VDIV_N_VV (R236). Element-wise unsigned divide. -/
  | vdivNVv (d : BitVec 6) (a : BitVec 6) (b : BitVec 6) (m : BitVec 3)
  /-- VREM_I_VV (R236). Element-wise signed remainder. -/
  | vremIVv (d : BitVec 6) (a : BitVec 6) (b : BitVec 6) (m : BitVec 3)
  /-- VREM_N_VV (R236). Element-wise unsigned remainder. -/
  | vremNVv (d : BitVec 6) (a : BitVec 6) (b : BitVec 6) (m : BitVec 3)
  /-- VMIN_I_VV (R236). Element-wise signed minimum. -/
  | vminIVv (d : BitVec 6) (a : BitVec 6) (b : BitVec 6) (m : BitVec 3)
  /-- VMIN_N_VV (R236). Element-wise unsigned minimum. -/
  | vminNVv (d : BitVec 6) (a : BitVec 6) (b : BitVec 6) (m : BitVec 3)
  /-- VMAX_I_VV (R236). Element-wise signed maximum. -/
  | vmaxIVv (d : BitVec 6) (a : BitVec 6) (b : BitVec 6) (m : BitVec 3)
  /-- VMAX_N_VV (R236). Element-wise unsigned maximum. -/
  | vmaxNVv (d : BitVec 6) (a : BitVec 6) (b : BitVec 6) (m : BitVec 3)
  /-- VAND_VV (R236). Element-wise bitwise and. -/
  | vandVv (d : BitVec 6) (a : BitVec 6) (b : BitVec 6) (m : BitVec 3)
  /-- VOR_VV (R236). Element-wise bitwise or. -/
  | vorVv (d : BitVec 6) (a : BitVec 6) (b : BitVec 6) (m : BitVec 3)
  /-- VXOR_VV (R236). Element-wise bitwise exclusive or. -/
  | vxorVv (d : BitVec 6) (a : BitVec 6) (b : BitVec 6) (m : BitVec 3)
  /-- VSLL_VV (R236). Element-wise left shift. -/
  | vsllVv (d : BitVec 6) (a : BitVec 6) (b : BitVec 6) (m : BitVec 3)
  /-- VSRL_VV (R236). Element-wise logical right shift. -/
  | vsrlVv (d : BitVec 6) (a : BitVec 6) (b : BitVec 6) (m : BitVec 3)
  /-- VSRA_VV (R236). Element-wise arithmetic right shift. -/
  | vsraVv (d : BitVec 6) (a : BitVec 6) (b : BitVec 6) (m : BitVec 3)
  /-- VSADD_I_VV (R236). Element-wise signed saturating add. -/
  | vsaddIVv (d : BitVec 6) (a : BitVec 6) (b : BitVec 6) (m : BitVec 3)
  /-- VSADD_N_VV (R236). Element-wise unsigned saturating add. -/
  | vsaddNVv (d : BitVec 6) (a : BitVec 6) (b : BitVec 6) (m : BitVec 3)
  /-- VSSUB_I_VV (R236). Element-wise signed saturating subtract. -/
  | vssubIVv (d : BitVec 6) (a : BitVec 6) (b : BitVec 6) (m : BitVec 3)
  /-- VSSUB_N_VV (R236). Element-wise unsigned saturating subtract. -/
  | vssubNVv (d : BitVec 6) (a : BitVec 6) (b : BitVec 6) (m : BitVec 3)
  /-- VAVG_I_VV (R236). Element-wise signed rounding average. -/
  | vavgIVv (d : BitVec 6) (a : BitVec 6) (b : BitVec 6) (m : BitVec 3)
  /-- VAVG_N_VV (R236). Element-wise unsigned rounding average. -/
  | vavgNVv (d : BitVec 6) (a : BitVec 6) (b : BitVec 6) (m : BitVec 3)
  /-- VWADD_I_VV (R237). Signed widening add. -/
  | vwaddIVv (d : BitVec 6) (a : BitVec 6) (b : BitVec 6) (m : BitVec 3)
  /-- VWADD_N_VV (R237). Unsigned widening add. -/
  | vwaddNVv (d : BitVec 6) (a : BitVec 6) (b : BitVec 6) (m : BitVec 3)
  /-- VNARROW_I_VV (R237). Signed narrowing shift with clamping. -/
  | vnarrowIVv (d : BitVec 6) (a : BitVec 6) (b : BitVec 6) (m : BitVec 3)
  /-- VNARROW_N_VV (R237). Unsigned narrowing shift with clamping. -/
  | vnarrowNVv (d : BitVec 6) (a : BitVec 6) (b : BitVec 6) (m : BitVec 3)
  /-- VADD_VX (R236). Integer add of a vector and a scalar. -/
  | vaddVx (d : BitVec 6) (a : BitVec 6) (b : BitVec 5) (m : BitVec 3)
  /-- VSUB_VX (R236). Integer subtract of a scalar. -/
  | vsubVx (d : BitVec 6) (a : BitVec 6) (b : BitVec 5) (m : BitVec 3)
  /-- VRSUB_VX (R236). Reverse subtract from a scalar. -/
  | vrsubVx (d : BitVec 6) (a : BitVec 6) (b : BitVec 5) (m : BitVec 3)
  /-- VMUL_VX (R236). Low product with a scalar. -/
  | vmulVx (d : BitVec 6) (a : BitVec 6) (b : BitVec 5) (m : BitVec 3)
  /-- VMULH_I_VX (R236). Signed high product with a scalar. -/
  | vmulhIVx (d : BitVec 6) (a : BitVec 6) (b : BitVec 5) (m : BitVec 3)
  /-- VMULH_N_VX (R236). Unsigned high product with a scalar. -/
  | vmulhNVx (d : BitVec 6) (a : BitVec 6) (b : BitVec 5) (m : BitVec 3)
  /-- VDIV_I_VX (R236). Signed divide by a scalar. -/
  | vdivIVx (d : BitVec 6) (a : BitVec 6) (b : BitVec 5) (m : BitVec 3)
  /-- VDIV_N_VX (R236). Unsigned divide by a scalar. -/
  | vdivNVx (d : BitVec 6) (a : BitVec 6) (b : BitVec 5) (m : BitVec 3)
  /-- VREM_I_VX (R236). Signed remainder by a scalar. -/
  | vremIVx (d : BitVec 6) (a : BitVec 6) (b : BitVec 5) (m : BitVec 3)
  /-- VREM_N_VX (R236). Unsigned remainder by a scalar. -/
  | vremNVx (d : BitVec 6) (a : BitVec 6) (b : BitVec 5) (m : BitVec 3)
  /-- VMIN_I_VX (R236). Signed minimum with a scalar. -/
  | vminIVx (d : BitVec 6) (a : BitVec 6) (b : BitVec 5) (m : BitVec 3)
  /-- VMIN_N_VX (R236). Unsigned minimum with a scalar. -/
  | vminNVx (d : BitVec 6) (a : BitVec 6) (b : BitVec 5) (m : BitVec 3)
  /-- VMAX_I_VX (R236). Signed maximum with a scalar. -/
  | vmaxIVx (d : BitVec 6) (a : BitVec 6) (b : BitVec 5) (m : BitVec 3)
  /-- VMAX_N_VX (R236). Unsigned maximum with a scalar. -/
  | vmaxNVx (d : BitVec 6) (a : BitVec 6) (b : BitVec 5) (m : BitVec 3)
  /-- VAND_VX (R236). Bitwise and with a scalar. -/
  | vandVx (d : BitVec 6) (a : BitVec 6) (b : BitVec 5) (m : BitVec 3)
  /-- VOR_VX (R236). Bitwise or with a scalar. -/
  | vorVx (d : BitVec 6) (a : BitVec 6) (b : BitVec 5) (m : BitVec 3)
  /-- VXOR_VX (R236). Bitwise exclusive or with a scalar. -/
  | vxorVx (d : BitVec 6) (a : BitVec 6) (b : BitVec 5) (m : BitVec 3)
  /-- VSLL_VX (R236). Left shift by a scalar. -/
  | vsllVx (d : BitVec 6) (a : BitVec 6) (b : BitVec 5) (m : BitVec 3)
  /-- VSRL_VX (R236). Logical right shift by a scalar. -/
  | vsrlVx (d : BitVec 6) (a : BitVec 6) (b : BitVec 5) (m : BitVec 3)
  /-- VSRA_VX (R236). Arithmetic right shift by a scalar. -/
  | vsraVx (d : BitVec 6) (a : BitVec 6) (b : BitVec 5) (m : BitVec 3)
  /-- VSADD_I_VX (R236). Signed saturating add of a scalar. -/
  | vsaddIVx (d : BitVec 6) (a : BitVec 6) (b : BitVec 5) (m : BitVec 3)
  /-- VSADD_N_VX (R236). Unsigned saturating add of a scalar. -/
  | vsaddNVx (d : BitVec 6) (a : BitVec 6) (b : BitVec 5) (m : BitVec 3)
  /-- VSSUB_I_VX (R236). Signed saturating subtract of a scalar. -/
  | vssubIVx (d : BitVec 6) (a : BitVec 6) (b : BitVec 5) (m : BitVec 3)
  /-- VSSUB_N_VX (R236). Unsigned saturating subtract of a scalar. -/
  | vssubNVx (d : BitVec 6) (a : BitVec 6) (b : BitVec 5) (m : BitVec 3)
  /-- VAVG_I_VX (R236). Signed rounding average with a scalar. -/
  | vavgIVx (d : BitVec 6) (a : BitVec 6) (b : BitVec 5) (m : BitVec 3)
  /-- VAVG_N_VX (R236). Unsigned rounding average with a scalar. -/
  | vavgNVx (d : BitVec 6) (a : BitVec 6) (b : BitVec 5) (m : BitVec 3)
  /-- VWADD_I_VX (R237). Signed widening add of a scalar. -/
  | vwaddIVx (d : BitVec 6) (a : BitVec 6) (b : BitVec 5) (m : BitVec 3)
  /-- VWADD_N_VX (R237). Unsigned widening add of a scalar. -/
  | vwaddNVx (d : BitVec 6) (a : BitVec 6) (b : BitVec 5) (m : BitVec 3)
  /-- VNARROW_I_VX (R237). Signed narrowing shift by a scalar. -/
  | vnarrowIVx (d : BitVec 6) (a : BitVec 6) (b : BitVec 5) (m : BitVec 3)
  /-- VNARROW_N_VX (R237). Unsigned narrowing shift by a scalar. -/
  | vnarrowNVx (d : BitVec 6) (a : BitVec 6) (b : BitVec 5) (m : BitVec 3)
  /-- VADD_VI (R236). Integer add of an immediate. -/
  | vaddVi (d : BitVec 6) (a : BitVec 6) (i : BitVec 8) (m : BitVec 3)
  /-- VRSUB_VI (R236). Reverse subtract from an immediate. -/
  | vrsubVi (d : BitVec 6) (a : BitVec 6) (i : BitVec 8) (m : BitVec 3)
  /-- VAND_VI (R236). Bitwise and with an immediate. -/
  | vandVi (d : BitVec 6) (a : BitVec 6) (i : BitVec 8) (m : BitVec 3)
  /-- VOR_VI (R236). Bitwise or with an immediate. -/
  | vorVi (d : BitVec 6) (a : BitVec 6) (i : BitVec 8) (m : BitVec 3)
  /-- VXOR_VI (R236). Bitwise exclusive or with an immediate. -/
  | vxorVi (d : BitVec 6) (a : BitVec 6) (i : BitVec 8) (m : BitVec 3)
  /-- VSLL_VI (R236). Left shift by an immediate. -/
  | vsllVi (d : BitVec 6) (a : BitVec 6) (i : BitVec 6) (m : BitVec 3)
  /-- VSRL_VI (R236). Logical right shift by an immediate. -/
  | vsrlVi (d : BitVec 6) (a : BitVec 6) (i : BitVec 6) (m : BitVec 3)
  /-- VSRA_VI (R236). Arithmetic right shift by an immediate. -/
  | vsraVi (d : BitVec 6) (a : BitVec 6) (i : BitVec 6) (m : BitVec 3)
  /-- VSADD_I_VI (R236). Signed saturating add of an immediate. -/
  | vsaddIVi (d : BitVec 6) (a : BitVec 6) (i : BitVec 8) (m : BitVec 3)
  /-- VSADD_N_VI (R236). Unsigned saturating add of an immediate. -/
  | vsaddNVi (d : BitVec 6) (a : BitVec 6) (i : BitVec 8) (m : BitVec 3)
  /-- VMIN_I_VI (R236). Signed minimum with an immediate. -/
  | vminIVi (d : BitVec 6) (a : BitVec 6) (i : BitVec 8) (m : BitVec 3)
  /-- VMIN_N_VI (R236). Unsigned minimum with an immediate. -/
  | vminNVi (d : BitVec 6) (a : BitVec 6) (i : BitVec 8) (m : BitVec 3)
  /-- VMAX_I_VI (R236). Signed maximum with an immediate. -/
  | vmaxIVi (d : BitVec 6) (a : BitVec 6) (i : BitVec 8) (m : BitVec 3)
  /-- VMAX_N_VI (R236). Unsigned maximum with an immediate. -/
  | vmaxNVi (d : BitVec 6) (a : BitVec 6) (i : BitVec 8) (m : BitVec 3)
  /-- VNARROW_I_VI (R237). Signed narrowing shift by an immediate. -/
  | vnarrowIVi (d : BitVec 6) (a : BitVec 6) (i : BitVec 6) (m : BitVec 3)
  /-- VNARROW_N_VI (R237). Unsigned narrowing shift by an immediate. -/
  | vnarrowNVi (d : BitVec 6) (a : BitVec 6) (i : BitVec 6) (m : BitVec 3)
  /-- VFADD (R239). Floating-point add with one rounding under the format word. -/
  | vfadd (d : BitVec 6) (a : BitVec 6) (b : BitVec 6) (m : BitVec 3) (s : BitVec 3)
  /-- VFSUB (R239). Floating-point subtract. -/
  | vfsub (d : BitVec 6) (a : BitVec 6) (b : BitVec 6) (m : BitVec 3) (s : BitVec 3)
  /-- VFMUL (R239). Floating-point multiply. -/
  | vfmul (d : BitVec 6) (a : BitVec 6) (b : BitVec 6) (m : BitVec 3) (s : BitVec 3)
  /-- VFDIV (R239). Floating-point divide. -/
  | vfdiv (d : BitVec 6) (a : BitVec 6) (b : BitVec 6) (m : BitVec 3) (s : BitVec 3)
  /-- VFMACC (R239). Fused a times b plus d. -/
  | vfmacc (d : BitVec 6) (a : BitVec 6) (b : BitVec 6) (m : BitVec 3) (s : BitVec 3)
  /-- VFNMACC (R239). Fused minus a times b minus d. -/
  | vfnmacc (d : BitVec 6) (a : BitVec 6) (b : BitVec 6) (m : BitVec 3) (s : BitVec 3)
  /-- VFMSAC (R239). Fused a times b minus d. -/
  | vfmsac (d : BitVec 6) (a : BitVec 6) (b : BitVec 6) (m : BitVec 3) (s : BitVec 3)
  /-- VFNMSAC (R239). Fused minus a times b plus d. -/
  | vfnmsac (d : BitVec 6) (a : BitVec 6) (b : BitVec 6) (m : BitVec 3) (s : BitVec 3)
  /-- VFMIN (R240). Floating-point minimum with -0 below +0. -/
  | vfmin (d : BitVec 6) (a : BitVec 6) (b : BitVec 6) (m : BitVec 3) (s : BitVec 3)
  /-- VFMAX (R240). Floating-point maximum. -/
  | vfmax (d : BitVec 6) (a : BitVec 6) (b : BitVec 6) (m : BitVec 3) (s : BitVec 3)
  /-- VFCOPYSIGN (R240). Copies the sign bit of b onto a. -/
  | vfcopysign (d : BitVec 6) (a : BitVec 6) (b : BitVec 6) (m : BitVec 3) (s : BitVec 3)
  /-- VFSCALE (R240). Scales a by 2 to an integer element of b with one rounding. -/
  | vfscale (d : BitVec 6) (a : BitVec 6) (b : BitVec 6) (m : BitVec 3) (s : BitVec 3)
  /-- VFSQRT (R241). Correctly rounded square root. -/
  | vfsqrt (d : BitVec 6) (a : BitVec 6) (m : BitVec 3) (s : BitVec 3)
  /-- VFABS (R241). Clears the sign bit. -/
  | vfabs (d : BitVec 6) (a : BitVec 6) (m : BitVec 3) (s : BitVec 3)
  /-- VFNEG (R241). Inverts the sign bit. -/
  | vfneg (d : BitVec 6) (a : BitVec 6) (m : BitVec 3) (s : BitVec 3)
  /-- VFCVT (R242). Converts between formats with optional block scales. -/
  | vfcvt (d : BitVec 6) (a : BitVec 6) (m : BitVec 3) (s : BitVec 3)
  /-- VFROUND (R241). Rounds to an integral value under RND. -/
  | vfround (d : BitVec 6) (a : BitVec 6) (m : BitVec 3) (s : BitVec 3)
  /-- VFEXP2F (R241). Correctly rounded 2^a for a in [-0.5, 0.5]. -/
  | vfexp2f (d : BitVec 6) (a : BitVec 6) (m : BitVec 3) (s : BitVec 3)
  /-- VFRECIP (R241). Correctly rounded reciprocal. -/
  | vfrecip (d : BitVec 6) (a : BitVec 6) (m : BitVec 3) (s : BitVec 3)
  /-- VFRSQRT (R241). Correctly rounded reciprocal square root. -/
  | vfrsqrt (d : BitVec 6) (a : BitVec 6) (m : BitVec 3) (s : BitVec 3)
  /-- VFCLASS (R243). Writes a one-hot class of each element. -/
  | vfclass (d : BitVec 6) (a : BitVec 6) (m : BitVec 3) (s : BitVec 3)
  /-- VCMP_F (R244). Floating-point compare into a mask register. -/
  | vcmpF (c : BitVec 3) (d : BitVec 3) (a : BitVec 6) (b : BitVec 6) (m : BitVec 3) (s : BitVec 3)
  /-- VCMP_I (R244). Signed integer compare into a mask register. -/
  | vcmpI (c : BitVec 3) (d : BitVec 3) (a : BitVec 6) (b : BitVec 6) (m : BitVec 3)
  /-- VCMP_N (R244). Unsigned integer compare into a mask register. -/
  | vcmpN (c : BitVec 3) (d : BitVec 3) (a : BitVec 6) (b : BitVec 6) (m : BitVec 3)
  /-- MAND (R245). Mask and. -/
  | mand (d : BitVec 3) (a : BitVec 3) (b : BitVec 3) (m : BitVec 3)
  /-- MOR (R245). Mask or. -/
  | mor (d : BitVec 3) (a : BitVec 3) (b : BitVec 3) (m : BitVec 3)
  /-- MXOR (R245). Mask exclusive or. -/
  | mxor (d : BitVec 3) (a : BitVec 3) (b : BitVec 3) (m : BitVec 3)
  /-- MANDN (R245). Mask and-not. -/
  | mandn (d : BitVec 3) (a : BitVec 3) (b : BitVec 3) (m : BitVec 3)
  /-- MPOPC (R246). Counts active set mask bits to the RQ, or a BQ condition for s0. -/
  | mpopc (d : BitVec 5) (a : BitVec 3) (m : BitVec 3)
  /-- MFIRST (R246). Returns the lowest active set mask bit, or a BQ condition for s0. -/
  | mfirst (d : BitVec 5) (a : BitVec 3) (m : BitVec 3)
  /-- MSET (R245). Sets active mask bits. -/
  | mset (d : BitVec 3) (m : BitVec 3)
  /-- VCOMPRESS (R247). Packs selected elements densely. -/
  | vcompress (d : BitVec 6) (a : BitVec 6) (b : BitVec 3)
  /-- VEXPAND (R247). Spreads consecutive elements to selected positions. -/
  | vexpand (d : BitVec 6) (a : BitVec 6) (b : BitVec 3)
  /-- VIOTA (R247). Writes the prefix count of set mask bits. -/
  | viota (d : BitVec 6) (a : BitVec 3) (m : BitVec 3)
  /-- VID (R247). Writes each element's index. -/
  | vid (d : BitVec 6) (m : BitVec 3)
  /-- VGATHER (R248). Gathers register elements by index. -/
  | vgather (d : BitVec 6) (a : BitVec 6) (b : BitVec 6) (m : BitVec 3)
  /-- VSLIDEUP (R248). Slides elements up by a scalar amount. -/
  | vslideup (d : BitVec 6) (a : BitVec 6) (b : BitVec 5) (m : BitVec 3)
  /-- VSLIDEDOWN (R248). Slides elements down by a scalar amount. -/
  | vslidedown (d : BitVec 6) (a : BitVec 6) (b : BitVec 5) (m : BitVec 3)
  /-- VBCAST (R248). Broadcasts a scalar to active elements. -/
  | vbcast (d : BitVec 6) (b : BitVec 5) (m : BitVec 3)
  /-- VMVX (R248). Moves one element to a scalar register through the RQ. -/
  | vmvx (d : BitVec 5) (a : BitVec 6) (b : BitVec 5)
  /-- VMVS (R248). Writes a scalar into element 0. -/
  | vmvs (d : BitVec 6) (b : BitVec 5) (m : BitVec 3)
  /-- VMV (R248). Copies active elements. -/
  | vmv (d : BitVec 6) (a : BitVec 6) (m : BitVec 3)
  /-- VMERGE (R248). Selects elements of va or vb by mask. -/
  | vmerge (d : BitVec 6) (a : BitVec 6) (b : BitVec 6) (m : BitVec 3)
  /-- VREDSUM_O_F (R141). Ordered floating-point sum into element 0. -/
  | vredsumOF (d : BitVec 6) (a : BitVec 6) (m : BitVec 3) (s : BitVec 3)
  /-- VREDSUM_O_I (R251). Signed integer sum into element 0. -/
  | vredsumOI (d : BitVec 6) (a : BitVec 6) (m : BitVec 3)
  /-- VREDSUM_O_N (R251). Unsigned integer sum into element 0. -/
  | vredsumON (d : BitVec 6) (a : BitVec 6) (m : BitVec 3)
  /-- VREDSUM_T_F (R142). Tree floating-point sum into element 0. -/
  | vredsumTF (d : BitVec 6) (a : BitVec 6) (m : BitVec 3) (s : BitVec 3)
  /-- VREDSUM_T_I (R251). Tree form of the signed integer sum. -/
  | vredsumTI (d : BitVec 6) (a : BitVec 6) (m : BitVec 3)
  /-- VREDSUM_T_N (R251). Tree form of the unsigned integer sum. -/
  | vredsumTN (d : BitVec 6) (a : BitVec 6) (m : BitVec 3)
  /-- VREDMAX_F (R251). Floating-point maximum reduction. -/
  | vredmaxF (d : BitVec 6) (a : BitVec 6) (m : BitVec 3) (s : BitVec 3)
  /-- VREDMAX_I (R251). Signed maximum reduction. -/
  | vredmaxI (d : BitVec 6) (a : BitVec 6) (m : BitVec 3)
  /-- VREDMAX_N (R251). Unsigned maximum reduction. -/
  | vredmaxN (d : BitVec 6) (a : BitVec 6) (m : BitVec 3)
  /-- VREDMIN_F (R251). Floating-point minimum reduction. -/
  | vredminF (d : BitVec 6) (a : BitVec 6) (m : BitVec 3) (s : BitVec 3)
  /-- VREDMIN_I (R251). Signed minimum reduction. -/
  | vredminI (d : BitVec 6) (a : BitVec 6) (m : BitVec 3)
  /-- VREDMIN_N (R251). Unsigned minimum reduction. -/
  | vredminN (d : BitVec 6) (a : BitVec 6) (m : BitVec 3)
  /-- VREDAND_I (R251). Bitwise and reduction, signed form. -/
  | vredandI (d : BitVec 6) (a : BitVec 6) (m : BitVec 3)
  /-- VREDAND_N (R251). Bitwise and reduction, unsigned form. -/
  | vredandN (d : BitVec 6) (a : BitVec 6) (m : BitVec 3)
  /-- VREDOR_I (R251). Bitwise or reduction, signed form. -/
  | vredorI (d : BitVec 6) (a : BitVec 6) (m : BitVec 3)
  /-- VREDOR_N (R251). Bitwise or reduction, unsigned form. -/
  | vredorN (d : BitVec 6) (a : BitVec 6) (m : BitVec 3)
  /-- VREDXOR_I (R251). Bitwise exclusive-or reduction, signed form. -/
  | vredxorI (d : BitVec 6) (a : BitVec 6) (m : BitVec 3)
  /-- VREDXOR_N (R251). Bitwise exclusive-or reduction, unsigned form. -/
  | vredxorN (d : BitVec 6) (a : BitVec 6) (m : BitVec 3)
  /-- VBTR (R262). Transposes an element group into bit planes. -/
  | vbtr (d : BitVec 6) (a : BitVec 6) (b : BitVec 5) (m : BitVec 3)
  /-- VBTRI (R262). Transposes bit planes back into an element group. -/
  | vbtri (d : BitVec 6) (a : BitVec 6) (b : BitVec 5) (m : BitVec 3)
  /-- VBADD (R262). Adds two bit-plane integers. -/
  | vbadd (d : BitVec 6) (a : BitVec 6) (b : BitVec 5) (m : BitVec 3)
  /-- VBMAC (R262). Multiply-accumulates bit-plane integers into D. -/
  | vbmac (d : BitVec 6) (a : BitVec 6) (b : BitVec 5) (m : BitVec 3)
  /-- VBCMP (R262). Compares bit-plane integers into one plane. -/
  | vbcmp (d : BitVec 6) (a : BitVec 6) (b : BitVec 5) (m : BitVec 3)
  /-- VBPOPC (R262). Counts one bits across planes of each element. -/
  | vbpopc (d : BitVec 6) (a : BitVec 6) (b : BitVec 5) (m : BitVec 3)
  /-- VBSHL (R262). Shifts a bit-plane integer left or right. -/
  | vbshl (d : BitVec 6) (a : BitVec 6) (b : BitVec 5) (m : BitVec 3)
  /-- VBMM (R267). Batched small matrix-matrix multiply-accumulate. -/
  | vbmm (d : BitVec 6) (a : BitVec 6) (b : BitVec 6) (m : BitVec 3) (k : BitVec 2) (s : BitVec 2)
  /-- VBMV (R267). Batched small matrix-vector multiply-accumulate. -/
  | vbmv (d : BitVec 6) (a : BitVec 6) (b : BitVec 6) (m : BitVec 3) (k : BitVec 2) (s : BitVec 2)
  /-- VLD (R216). Unit-stride vector load. -/
  | vld (d : BitVec 6) (a : BitVec 5) (m : BitVec 3) (e : BitVec 3)
  /-- VLDS (R216). Strided vector load. -/
  | vlds (d : BitVec 6) (a : BitVec 5) (t : BitVec 5) (m : BitVec 3) (e : BitVec 3)
  /-- VLDX (R216). Indexed vector load (gather). -/
  | vldx (d : BitVec 6) (a : BitVec 5) (x : BitVec 6) (m : BitVec 3) (e : BitVec 3)
  /-- VLDFF (R219). Fault-first load that trims vl at the first failing element above the start. -/
  | vldff (d : BitVec 6) (a : BitVec 5) (m : BitVec 3) (e : BitVec 3)
  /-- VLDP (R220). Loads one bit plane at a bit offset and pitch. -/
  | vldp (d : BitVec 6) (a : BitVec 5) (t : BitVec 5) (m : BitVec 3)
  /-- VST (R217). Ordered unit-stride vector store. -/
  | vst (d : BitVec 6) (a : BitVec 5) (m : BitVec 3) (e : BitVec 3)
  /-- VSTS (R217). Ordered strided vector store. -/
  | vsts (d : BitVec 6) (a : BitVec 5) (t : BitVec 5) (m : BitVec 3) (e : BitVec 3)
  /-- VSTX (R217). Ordered indexed vector store. -/
  | vstx (d : BitVec 6) (a : BitVec 5) (x : BitVec 6) (m : BitVec 3) (e : BitVec 3)
  /-- VSTXU (R218). Unordered indexed vector store. -/
  | vstxu (d : BitVec 6) (a : BitVec 5) (x : BitVec 6) (m : BitVec 3) (e : BitVec 3)
  /-- VSTU (R218). Unordered unit-stride vector store. -/
  | vstu (d : BitVec 6) (a : BitVec 5) (m : BitVec 3) (e : BitVec 3)
  /-- VSTP (R220). Stores one bit plane with merge inside the LSQ. -/
  | vstp (d : BitVec 6) (a : BitVec 5) (t : BitVec 5) (m : BitVec 3)
  /-- VSPILL (R221). Writes a whole register as a length-dependent image. -/
  | vspill (d : BitVec 6) (a : BitVec 5)
  /-- VFILL (R221). Loads a whole register from an image, trapping on length mismatch. -/
  | vfill (d : BitVec 6) (a : BitVec 5)
  /-- VAMO_ADD (R229). Vector atomic add, combining when .c. -/
  | vamoAdd (d : BitVec 6) (a : BitVec 5) (x : BitVec 6) (m : BitVec 3) (c : BitVec 1) (w : BitVec 1)
  /-- VAMO_FADD (R229). Vector atomic floating-point add. -/
  | vamoFadd (d : BitVec 6) (a : BitVec 5) (x : BitVec 6) (m : BitVec 3) (c : BitVec 1) (w : BitVec 1)
  /-- VAMO_MIN (R229). Vector atomic signed minimum. -/
  | vamoMin (d : BitVec 6) (a : BitVec 5) (x : BitVec 6) (m : BitVec 3) (c : BitVec 1) (w : BitVec 1)
  /-- VAMO_MAX (R229). Vector atomic signed maximum. -/
  | vamoMax (d : BitVec 6) (a : BitVec 5) (x : BitVec 6) (m : BitVec 3) (c : BitVec 1) (w : BitVec 1)
  /-- VAMO_AND (R229). Vector atomic and. -/
  | vamoAnd (d : BitVec 6) (a : BitVec 5) (x : BitVec 6) (m : BitVec 3) (c : BitVec 1) (w : BitVec 1)
  /-- VAMO_OR (R229). Vector atomic or. -/
  | vamoOr (d : BitVec 6) (a : BitVec 5) (x : BitVec 6) (m : BitVec 3) (c : BitVec 1) (w : BitVec 1)
  /-- VAMO_XOR (R229). Vector atomic exclusive or. -/
  | vamoXor (d : BitVec 6) (a : BitVec 5) (x : BitVec 6) (m : BitVec 3) (c : BitVec 1) (w : BitVec 1)
  /-- VAMO_SWAP (R229). Vector atomic swap. -/
  | vamoSwap (d : BitVec 6) (a : BitVec 5) (x : BitVec 6) (m : BitVec 3) (c : BitVec 1) (w : BitVec 1)
  /-- MMAC (R272). Matrix multiply-accumulate of a K slice into an accumulator tile. -/
  | mmac (c : BitVec 2) (a : BitVec 6) (b : BitVec 6) (m : BitVec 3) (s : BitVec 3)
  /-- MMACS (R273). Matrix multiply-accumulate with compressed A. -/
  | mmacs (c : BitVec 2) (a : BitVec 6) (b : BitVec 6) (m : BitVec 3) (s : BitVec 3)
  /-- MZERO (R274). Zeroes selected accumulator elements. -/
  | mzero (c : BitVec 2) (m : BitVec 3)
  /-- MST (R274). Stores accumulator elements to memory in order. -/
  | mst (c : BitVec 2) (a : BitVec 5) (m : BitVec 3)
  /-- MLD (R274). Loads accumulator elements from memory. -/
  | mld (c : BitVec 2) (a : BitVec 5) (m : BitVec 3)
  /-- MATTACH (R269). Requests matrix rows from the quad, waiting for free rows. -/
  | mattach
  /-- MDETACH (R269). Frees the core's matrix rows after earlier matrix work completes. -/
  | mdetach
  /-- FOP (R295). Starts a fabric opcode invocation on a bound slot. -/
  | fop (p : BitVec 4) (d : BitVec 6) (a : BitVec 6) (b : BitVec 6) (m : BitVec 3)
  /-- FOP_C (R295). Continues a stopped fabric opcode invocation. -/
  | fopC (p : BitVec 4) (d : BitVec 6) (a : BitVec 6) (b : BitVec 6) (m : BitVec 3)
  /-- FBIND (R290). Reads, checks and binds a configuration image to a slot. -/
  | fbind (d : BitVec 5) (a : BitVec 5) (p : BitVec 4)
  /-- FUNBIND (R292). Drains and unbinds a slot, returning its tiles to Unbound. -/
  | funbind (p : BitVec 4)
  /-- FDRAIN (R292). Waits for fops on a slot to retire and drains it. -/
  | fdrain (p : BitVec 4)
  /-- CONVOY_DECODE (R153). Decodes a fetched convoy, raising illegal-instruction or ill-formed-convoy traps. -/
  | convoyDecode
  /-- CONVOY_COMMIT (R152). Commits a convoy once its scalar slots have executed and queue entries are free. -/
  | convoyCommit
  /-- CONVOY_ISSUE (R364). Issues a convoy at the head of the VQ with its issue-time checks. -/
  | convoyIssue
  /-- CONVOY_RETIRE (R364). Retires a convoy in VQ order, delivering RQ and BQ values. -/
  | convoyRetire
  /-- INTERRUPT_TAKE (R403). Takes a pending interrupt at a convoy boundary while IE is set. -/
  | interruptTake (hart : Nat)
  /-- STORE_BUFFER_DRAIN (R45). Sends the oldest store buffer entry once the previous one has performed. -/
  | storeBufferDrain (hart : Nat)
  /-- SLICE_REQUEST (R48). Home slice applies one request for a line in arrival order. -/
  | sliceRequest (req : SliceReq)
  /-- WRITE_PERFORM (R43). A write performs once every flagged cluster has acknowledged invalidation. -/
  | writePerform (pa : Nat) (bytes : List Byte)
  /-- FUT_LD_APPLY (R49). Slice answers, defers or refuses a fut.ld request. -/
  | futLdApply (hart pa : Nat) (d b : BitVec 5)
  /-- FUT_ST_APPLY (R52). Slice fills an empty future word or answers occupied. -/
  | futStApply (pa : Nat) (data : Word)
  /-- FUT_CLR_APPLY (R49). Slice clears a future word's full bit. -/
  | futClrApply (pa : Nat)
  /-- FUT_CANCEL (R53). Slice frees the deferral entry of a pre-empted hart. -/
  | futCancel (hart : Nat)
  /-- TABLE_WALK (R29). A walker translates a missed page through the span and radix tables. -/
  | tableWalk (hart : Nat) (va : Word)
  /-- COMBINING_ENTRY_RETIRE (R230). A combining buffer entry retires as one uncombined atomic request. -/
  | combiningEntryRetire (core : Nat)
  /-- STREAM_RETIRE (R64). A stream retires once every page has translated and it holds its entries. -/
  | streamRetire (core entry : Nat)
  /-- STREAM_HEADLAND (R66). Sends a headland with status after all preceding data writes performed. -/
  | streamHeadland (core entry : Nat)
  /-- EXCHANGE_START (R59). Starts the transposition exchange once all members issued str.xch. -/
  | exchangeStart (hart : Nat)
  /-- BARRIER_ARRIVAL (R205). Counts a hart's arrival once its earlier accesses performed at gang scope. -/
  | barrierArrival (hart : Nat)
  /-- LANE_GROUP_TAKE (R365). A waiting negotiation takes a released lane group. -/
  | laneGroupTake (hart : Nat)
  /-- RECLAIM_TIMEOUT (R365). A hart that has not released marked groups within 1,200 clocks is displaced. -/
  | reclaimTimeout (hart : Nat)
  /-- CONTEXT_RESUME (R367). A free hart restores a listed context and re-issues its VQ. -/
  | contextResume (hart : Nat)
  /-- TASK_DISPATCH (R370). Cluster controller binds the chosen queue head to a waiting hart or gang. -/
  | taskDispatch (cluster : Nat)
  /-- TASK_COMPLETION (R199). Completes a task after its accesses performed, inserting reuse and filling SIGNAL. -/
  | taskCompletion (queue tid : Nat)
  /-- REUSE_LOOKUP (R381). Forms the reuse key of a pure head record and probes the table. -/
  | reuseLookup (queue : Nat)
  /-- BOUND_LAUNCH (R195). Controller reads and posts the record of the head token of a bound ingress channel. -/
  | boundLaunch (chan : Nat)
  /-- RING_REFILL (R373). Returns spilled records from the ring on chip in order. -/
  | ringRefill (queue : Nat)
  /-- MATTACH_GRANT (R368). Quad grants rows to a waiting mattach in priority order. -/
  | mattachGrant (quad : Nat)
  /-- FOP_COMPLETE (R295). Completes a fop when every outbound edge has its headland, setting vl and fsidx. -/
  | fopComplete (core slot : Nat)
  /-- FOP_MORE_STOP (R296). Stops a fop at L outputs with MORE and suspended state. -/
  | fopMoreStop (core slot : Nat)
  /-- FOP_FAULT (R297). A fault inside an invocation records state and traps the convoy. -/
  | fopFault (core slot : Nat)
  /-- FABRIC_DRAIN_TIMEOUT (R291). Ends a slot drain after 512 clocks, discarding held tokens. -/
  | fabricDrainTimeout (core slot : Nat)
  /-- COLLECTIVE_ROUND_SEND (R310). A sender transmits exponent entries and rounds window by window. -/
  | collectiveRoundSend (die ctx : Nat)
  /-- REDUCER_FORWARD (R310). A reducer forwards round q of a tile once held from every input. -/
  | reducerForward (die ctx : Nat)
  /-- ROUND_FLIT (R311). A received round lands in the slots and the header counter advances. -/
  | roundFlit (port : Nat) (flit : Flit)
  /-- EXPONENTS_FLIT (R319). Receives tile exponents and checks width, G, X and contribution count. -/
  | exponentsFlit (port : Nat) (flit : Flit)
  /-- END_FLIT (R319). Closes a collective, marking headers DONE and freeing the context. -/
  | endFlit (port : Nat) (flit : Flit)
  /-- CANCEL_FLIT (R321). A sender or reducer stops after the tile in hand and sends its end flit. -/
  | cancelFlit (port : Nat) (flit : Flit)
  /-- REPLAY_REQUEST (R325). Resends flits from the expected sequence number. -/
  | replayRequest (port : Nat) (flit : Flit)
  /-- REPLAY_LIMIT (R326). Retrains a port after 16 replays without progress. -/
  | replayLimit (port : Nat)
  /-- RETRAIN_TIMEOUT (R326). Declares a port down after 1 ms and ends its collectives with LINK. -/
  | retrainTimeout (port : Nat)
  /-- INGRESS_RAISE (R437). Host write to ingress DATA raises a token or is refused. -/
  | ingressRaise (chan : Nat) (value : Word)
  /-- EGRESS_POP (R437). Host read of egress DATA pops the oldest token. -/
  | egressPop (chan : Nat)
  /-- LFAULT_CLEAR (R436). Writing 1 to LFAULT clears it and retries the head token. -/
  | lfaultClear (chan : Nat)
  /-- SKIP (R436). Consumes the head token of a bound channel without posting it. -/
  | skip (chan : Nat)
  /-- GANG_WORD_WRITE (R361). Writes a hart's GID, refused when a gang rule is broken, resetting gphase. -/
  | gangWordWrite (cluster h : Nat) (value : Word)
  /-- QCTL_RESUME (R374). Retries the reserve slot of a queue with a spill fault. -/
  | qctlResume (queue : Nat)
  /-- DISPLACE (R415). Displaces a hart into a free frame and holds it. -/
  | displace (cluster : Nat) (cmd : Word)
  /-- HOLD (R415). Moves a listed frame to held. -/
  | hold (cluster : Nat) (cmd : Word)
  /-- RESUME (R415). Lists a held frame for resumption on a target core. -/
  | resume (cluster : Nat) (cmd : Word)
  /-- FREE (R415). Frees a held frame, discarding its context and bound task. -/
  | free (cluster : Nat) (cmd : Word)
  /-- ADOPT (R415). Marks a software-written frame as held and takes over its task binding. -/
  | adopt (cluster : Nat) (cmd : Word)
  /-- RSALT_COMMIT (R386). Writing RSALT3 commits the tenant salt and invalidates its entries. -/
  | rsaltCommit (value : Word)
  /-- RFLUSH (R386). Invalidates the selected tenant's reuse entries. -/
  | rflush (value : Word)
  /-- RCTL_WRITE (R386). Writes RCTL; clearing EN invalidates every reuse entry. -/
  | rctlWrite (value : Word)
  /-- REGISTER_WRITE (R7). Write to a device register without behaviour of its own. -/
  | registerWrite (pa : Nat) (value : Word)
  /-- RING_SETUP (R439). Host's first message gives the ring bases and HEXT. -/
  | ringSetup (msg : MsgHead) (toCore toHost : Nat) (hext : Nat)
  /-- START (R439). Releases the named harts at an entry convoy. -/
  | start (msg : MsgHead) (harts : List Nat) (entry : Word)
  /-- PLACE (R430). Places an NGI into a configuration image and replies with a status. -/
  | place (msg : MsgHead) (ngi len mask dst dstLen : Nat)
  /-- NODEMAP (R439). Sets the device node number and node and pool membership. -/
  | nodemap (msg : MsgHead) (node : BitVec 12) (nodeSet poolSet reach : List (BitVec 12))
  /-- DEBUG_HALT (R439). Puts a hart into debug halt. -/
  | debugHalt (msg : MsgHead) (hart : Nat)
  /-- DEBUG_RELEASE (R439). Releases a hart from debug halt. -/
  | debugRelease (msg : MsgHead) (hart : Nat)
  /-- HALT_ON_BREAK (R182). Selects halt on break for a hart. -/
  | haltOnBreak (msg : MsgHead) (hart : Nat) (on : Bool)
  /-- ATTEST (R442). Returns a signed attestation over firmware, fuses and the nonce. -/
  | attest (msg : MsgHead) (nonce : List Byte)
  /-- RESET (R443). Warm reset repeating bring-up steps 5 and 6. -/
  | reset (msg : MsgHead)
  /-- DUMPREL (R445). Releases the dump region and reports its validity. -/
  | dumprel (msg : MsgHead)
  /-- RESYNC (R440). Resends management messages from the SEQ in ACK. -/
  | resync (msg : MsgHead)
  /-- COLD_START (R443). Runs boot ROM, training, discovery and hart reset in order. -/
  | coldStart
  /-- FATAL_STOP (R445). Stops every hart, writes the signed dump and holds the dies in reset. -/
  | fatalStop (cause : FatalCause)
  /-- WATCHDOG_EXPIRY (R445). Firmware watchdog expiry causes a fatal stop. -/
  | watchdogExpiry
  /-- THROTTLE_STEP (R444). Lowers the arithmetic clock one step each 1 ms above 95 C or the power budget. -/
  | throttleStep
  /-- THERMAL_STOP (R444). Stops every core at 110 C. -/
  | thermalStop
  /-- EVENT_REPORT (R444). Sends counted errors and throttle steps as EVENT at most once per second. -/
  | eventReport (source : Nat)
  /-- PATROL_SCRUB (R36). Patrols HBM once every 24 hours, writing corrected data back. -/
  | patrolScrub
  /-- LANE_RETIRE (R111). Firmware retires a faulty lane after displacing its owner. -/
  | laneRetire (core lane : Nat)
  /-- CORE_RETIRE (R14). Firmware retires a core, displacing its harts and reporting EVENT. -/
  | coreRetire (core : Nat)
  /-- DROPPED_FLIT (R325). A Kraha receiver gets a flit whose CRC fails or whose SEQ is not the next expected, drops it and sends a replay request. -/
  | droppedFlit (port : Nat) (flit : Flit)
  /-- PORT_RETRAINED (R326). A Kraha port whose retraining completes within 1 ms returns to carrying flits. -/
  | portRetrained (port : Nat)
  /-- WAIT_SPURIOUS_END (R184). A hart in wait resumes at the next convoy although no interrupt, phase advance or halt request has occurred. -/
  | waitSpuriousEnd (hart : Nat)
  /-- OTHER_TYPE_MESSAGE (R439). A management message with a TYPE the core does not accept is answered with REPLY status 0xFF. -/
  | otherTypeMessage (msg : MsgHead) (type : Byte)
  deriving DecidableEq, Repr

end Sys2Proof
end

