-- ==== Sys2Proof/WellFormed.lean ====
section
/-! DEFINITION. Which instructions exist: the field values that R149 to R156 leave, and the ranges of the numbers that
name a hart, a core and so on (R12, R61, R83, R317, R372, R436). -/

namespace Sys2Proof

/-- The control register numbers that R117 lists. -/
def ctlListed (n : Nat) : Bool :=
  decide (n ≤ 0x00C ∨ n = 0x010 ∨ n = 0x011 ∨ n = 0x018 ∨ (0x020 ≤ n ∧ n ≤ 0x027) ∨ (0x040 ≤ n ∧ n ≤ 0x046)
    ∨ n = 0x048 ∨ n = 0x049 ∨ n = 0x080 ∨ n = 0x081 ∨ (0x0F0 ≤ n ∧ n ≤ 0x0F2))

/-- A slice request names bytes of the 50-bit physical space (R21) and stays within one 128-byte line (R40). -/
def SliceReq.wf : SliceReq → Bool
  | .read pa => decide (pa < 2 ^ 50)
  | .write pa bytes => decide (pa < 2 ^ 50 ∧ pa % 128 + bytes.length ≤ 128)
  | .evict line => decide (line < 2 ^ 43)
  | .poison line => decide (line < 2 ^ 43)

/-- The values that no rule reserves. -/
def Instr.wf : Instr → Bool
  | .nop => true
  | .trap _ => true
  | .eret => true
  | .wait => true
  | .brk => true
  | .fenceI => true
  | .tlbInv _ _ c => decide (c.toNat ≤ 10)
  | .l1Inv _ => true
  | .add _ _ _ => true
  | .sub _ _ _ => true
  | .and _ _ _ => true
  | .or _ _ _ => true
  | .xor _ _ _ => true
  | .sll _ _ _ => true
  | .srl _ _ _ => true
  | .sra _ _ _ => true
  | .min _ _ _ => true
  | .max _ _ _ => true
  | .minn _ _ _ => true
  | .maxn _ _ _ => true
  | .slt _ _ _ => true
  | .sltn _ _ _ => true
  | .sel _ _ _ => true
  | .mul _ _ _ => true
  | .mulh _ _ _ => true
  | .mulhn _ _ _ => true
  | .div _ _ _ => true
  | .divn _ _ _ => true
  | .rem _ _ _ => true
  | .remn _ _ _ => true
  | .clz _ _ => true
  | .ctz _ _ => true
  | .popc _ _ => true
  | .bswap _ _ => true
  | .addi _ _ _ => true
  | .andi _ _ _ => true
  | .ori _ _ _ => true
  | .xori _ _ _ => true
  | .slti _ _ _ => true
  | .sltni _ _ _ => true
  | .slli _ _ _ => true
  | .srli _ _ _ => true
  | .srai _ _ _ => true
  | .ldhi _ _ => true
  | .adrc _ _ => true
  | .ldB _ _ _ => true
  | .ldH _ _ _ => true
  | .ldW _ _ _ => true
  | .ldD _ _ _ => true
  | .ldBn _ _ _ => true
  | .ldHn _ _ _ => true
  | .ldWn _ _ _ => true
  | .ldBAq _ _ _ => true
  | .ldHAq _ _ _ => true
  | .ldWAq _ _ _ => true
  | .ldDAq _ _ _ => true
  | .ldBnAq _ _ _ => true
  | .ldHnAq _ _ _ => true
  | .ldWnAq _ _ _ => true
  | .ldBX _ _ _ _ => true
  | .ldHX _ _ _ _ => true
  | .ldWX _ _ _ _ => true
  | .ldDX _ _ _ _ => true
  | .ldBnX _ _ _ _ => true
  | .ldHnX _ _ _ _ => true
  | .ldWnX _ _ _ _ => true
  | .stB _ _ _ => true
  | .stH _ _ _ => true
  | .stW _ _ _ => true
  | .stD _ _ _ => true
  | .stBRl _ _ _ => true
  | .stHRl _ _ _ => true
  | .stWRl _ _ _ => true
  | .stDRl _ _ _ => true
  | .stBX _ _ _ _ => true
  | .stHX _ _ _ _ => true
  | .stWX _ _ _ _ => true
  | .stDX _ _ _ _ => true
  | .amoAdd _ _ _ c _ _ => decide (c.toNat ≤ 10)
  | .amoAnd _ _ _ c _ _ => decide (c.toNat ≤ 10)
  | .amoOr _ _ _ c _ _ => decide (c.toNat ≤ 10)
  | .amoXor _ _ _ c _ _ => decide (c.toNat ≤ 10)
  | .amoSwap _ _ _ c _ _ => decide (c.toNat ≤ 10)
  | .amoMin _ _ _ c _ _ => decide (c.toNat ≤ 10)
  | .amoMax _ _ _ c _ _ => decide (c.toNat ≤ 10)
  | .amoCas _ _ _ c _ _ => decide (c.toNat ≤ 10)
  | .beq _ _ _ => true
  | .bne _ _ _ => true
  | .blt _ _ _ => true
  | .bge _ _ _ => true
  | .bltn _ _ _ => true
  | .bgen _ _ _ => true
  | .jal _ _ => true
  | .jalr _ _ _ => true
  | .bq _ => true
  | .bqNot _ => true
  | .ctlRd _ r => decide (ctlListed r.toNat = true)
  | .ctlWr _ r => decide (ctlListed r.toNat = true)
  | .ctlSet _ r => decide (ctlListed r.toNat = true)
  | .ctlClr _ r => decide (ctlListed r.toNat = true)
  | .vsetvl _ _ _ => true
  | .vsetvli _ _ _ => true
  | .gsetvl _ _ _ => true
  | .vdecl _ => true
  | .vdeclBuf n _ _ => decide (1 ≤ n.toNat ∧ n.toNat ≤ 7)
  | .taskPost _ _ _ => true
  | .taskTake _ _ => true
  | .taskDone _ _ => true
  | .taskYield => true
  | .stripGrant _ _ => true
  | .futLd _ _ _ => true
  | .futSt _ _ _ => true
  | .futClr _ _ => true
  | .fence k c => decide (k.toNat ≠ 0 ∧ c.toNat ≤ 10)
  | .drain q => decide (q.toNat ≤ 4)
  | .garrive => true
  | .gwait _ => true
  | .ingTake _ _ => true
  | .egrPost _ _ _ => true
  | .pcwait _ _ _ c => decide (c.toNat ≤ 10)
  | .strLd _ _ _ _ _ _ => true
  | .strSt _ _ _ _ _ => true
  | .strCp _ _ _ _ _ _ => true
  | .strXch _ _ _ _ _ => true
  | .strWait _ _ => true
  | .collSend _ _ w => decide (w.toNat ≤ 12)
  | .collRecv _ _ w => decide (w.toNat ≤ 12)
  | .collRed _ _ w => decide (w.toNat ≤ 12)
  | .collCancel _ _ => true
  | .collStat _ _ => true
  | .vaddVv _ _ _ _ => true
  | .vsubVv _ _ _ _ => true
  | .vrsubVv _ _ _ _ => true
  | .vmulVv _ _ _ _ => true
  | .vmulhIVv _ _ _ _ => true
  | .vmulhNVv _ _ _ _ => true
  | .vdivIVv _ _ _ _ => true
  | .vdivNVv _ _ _ _ => true
  | .vremIVv _ _ _ _ => true
  | .vremNVv _ _ _ _ => true
  | .vminIVv _ _ _ _ => true
  | .vminNVv _ _ _ _ => true
  | .vmaxIVv _ _ _ _ => true
  | .vmaxNVv _ _ _ _ => true
  | .vandVv _ _ _ _ => true
  | .vorVv _ _ _ _ => true
  | .vxorVv _ _ _ _ => true
  | .vsllVv _ _ _ _ => true
  | .vsrlVv _ _ _ _ => true
  | .vsraVv _ _ _ _ => true
  | .vsaddIVv _ _ _ _ => true
  | .vsaddNVv _ _ _ _ => true
  | .vssubIVv _ _ _ _ => true
  | .vssubNVv _ _ _ _ => true
  | .vavgIVv _ _ _ _ => true
  | .vavgNVv _ _ _ _ => true
  | .vwaddIVv _ _ _ _ => true
  | .vwaddNVv _ _ _ _ => true
  | .vnarrowIVv _ _ _ _ => true
  | .vnarrowNVv _ _ _ _ => true
  | .vaddVx _ _ _ _ => true
  | .vsubVx _ _ _ _ => true
  | .vrsubVx _ _ _ _ => true
  | .vmulVx _ _ _ _ => true
  | .vmulhIVx _ _ _ _ => true
  | .vmulhNVx _ _ _ _ => true
  | .vdivIVx _ _ _ _ => true
  | .vdivNVx _ _ _ _ => true
  | .vremIVx _ _ _ _ => true
  | .vremNVx _ _ _ _ => true
  | .vminIVx _ _ _ _ => true
  | .vminNVx _ _ _ _ => true
  | .vmaxIVx _ _ _ _ => true
  | .vmaxNVx _ _ _ _ => true
  | .vandVx _ _ _ _ => true
  | .vorVx _ _ _ _ => true
  | .vxorVx _ _ _ _ => true
  | .vsllVx _ _ _ _ => true
  | .vsrlVx _ _ _ _ => true
  | .vsraVx _ _ _ _ => true
  | .vsaddIVx _ _ _ _ => true
  | .vsaddNVx _ _ _ _ => true
  | .vssubIVx _ _ _ _ => true
  | .vssubNVx _ _ _ _ => true
  | .vavgIVx _ _ _ _ => true
  | .vavgNVx _ _ _ _ => true
  | .vwaddIVx _ _ _ _ => true
  | .vwaddNVx _ _ _ _ => true
  | .vnarrowIVx _ _ _ _ => true
  | .vnarrowNVx _ _ _ _ => true
  | .vaddVi _ _ _ _ => true
  | .vrsubVi _ _ _ _ => true
  | .vandVi _ _ _ _ => true
  | .vorVi _ _ _ _ => true
  | .vxorVi _ _ _ _ => true
  | .vsllVi _ _ _ _ => true
  | .vsrlVi _ _ _ _ => true
  | .vsraVi _ _ _ _ => true
  | .vsaddIVi _ _ _ _ => true
  | .vsaddNVi _ _ _ _ => true
  | .vminIVi _ _ _ _ => true
  | .vminNVi _ _ _ _ => true
  | .vmaxIVi _ _ _ _ => true
  | .vmaxNVi _ _ _ _ => true
  | .vnarrowIVi _ _ _ _ => true
  | .vnarrowNVi _ _ _ _ => true
  | .vfadd _ _ _ _ _ => true
  | .vfsub _ _ _ _ _ => true
  | .vfmul _ _ _ _ _ => true
  | .vfdiv _ _ _ _ _ => true
  | .vfmacc _ _ _ _ _ => true
  | .vfnmacc _ _ _ _ _ => true
  | .vfmsac _ _ _ _ _ => true
  | .vfnmsac _ _ _ _ _ => true
  | .vfmin _ _ _ _ _ => true
  | .vfmax _ _ _ _ _ => true
  | .vfcopysign _ _ _ _ _ => true
  | .vfscale _ _ _ _ _ => true
  | .vfsqrt _ _ _ _ => true
  | .vfabs _ _ _ _ => true
  | .vfneg _ _ _ _ => true
  | .vfcvt _ _ _ _ => true
  | .vfround _ _ _ _ => true
  | .vfexp2f _ _ _ _ => true
  | .vfrecip _ _ _ _ => true
  | .vfrsqrt _ _ _ _ => true
  | .vfclass _ _ _ _ => true
  | .vcmpF c _ _ _ _ _ => decide (c.toNat ≤ 5)
  | .vcmpI c _ _ _ _ => decide (c.toNat ≤ 5)
  | .vcmpN c _ _ _ _ => decide (c.toNat ≤ 5)
  | .mand _ _ _ _ => true
  | .mor _ _ _ _ => true
  | .mxor _ _ _ _ => true
  | .mandn _ _ _ _ => true
  | .mpopc _ _ _ => true
  | .mfirst _ _ _ => true
  | .mset _ _ => true
  | .vcompress _ _ _ => true
  | .vexpand _ _ _ => true
  | .viota _ _ _ => true
  | .vid _ _ => true
  | .vgather _ _ _ _ => true
  | .vslideup _ _ _ _ => true
  | .vslidedown _ _ _ _ => true
  | .vbcast _ _ _ => true
  | .vmvx _ _ _ => true
  | .vmvs _ _ _ => true
  | .vmv _ _ _ => true
  | .vmerge _ _ _ _ => true
  | .vredsumOF _ _ _ _ => true
  | .vredsumOI _ _ _ => true
  | .vredsumON _ _ _ => true
  | .vredsumTF _ _ _ _ => true
  | .vredsumTI _ _ _ => true
  | .vredsumTN _ _ _ => true
  | .vredmaxF _ _ _ _ => true
  | .vredmaxI _ _ _ => true
  | .vredmaxN _ _ _ => true
  | .vredminF _ _ _ _ => true
  | .vredminI _ _ _ => true
  | .vredminN _ _ _ => true
  | .vredandI _ _ _ => true
  | .vredandN _ _ _ => true
  | .vredorI _ _ _ => true
  | .vredorN _ _ _ => true
  | .vredxorI _ _ _ => true
  | .vredxorN _ _ _ => true
  | .vbtr _ _ _ _ => true
  | .vbtri _ _ _ _ => true
  | .vbadd _ _ _ _ => true
  | .vbmac _ _ _ _ => true
  | .vbcmp _ _ _ _ => true
  | .vbpopc _ _ _ _ => true
  | .vbshl _ _ _ _ => true
  | .vbmm _ _ _ _ k _ => decide (k.toNat ≠ 3)
  | .vbmv _ _ _ _ k _ => decide (k.toNat ≠ 3)
  | .vld _ _ _ e => decide (e.toNat ≤ 3 ∨ e.toNat = 7)
  | .vlds _ _ _ _ e => decide (e.toNat ≤ 3 ∨ e.toNat = 7)
  | .vldx _ _ _ _ e => decide (e.toNat ≤ 3 ∨ e.toNat = 7)
  | .vldff _ _ _ e => decide (e.toNat ≤ 3 ∨ e.toNat = 7)
  | .vldp _ _ _ _ => true
  | .vst _ _ _ e => decide (e.toNat ≤ 3 ∨ e.toNat = 7)
  | .vsts _ _ _ _ e => decide (e.toNat ≤ 3 ∨ e.toNat = 7)
  | .vstx _ _ _ _ e => decide (e.toNat ≤ 3 ∨ e.toNat = 7)
  | .vstxu _ _ _ _ e => decide (e.toNat ≤ 3 ∨ e.toNat = 7)
  | .vstu _ _ _ e => decide (e.toNat ≤ 3 ∨ e.toNat = 7)
  | .vstp _ _ _ _ => true
  | .vspill _ _ => true
  | .vfill _ _ => true
  | .vamoAdd _ _ _ _ _ _ => true
  | .vamoFadd _ _ _ _ _ _ => true
  | .vamoMin _ _ _ _ _ _ => true
  | .vamoMax _ _ _ _ _ _ => true
  | .vamoAnd _ _ _ _ _ _ => true
  | .vamoOr _ _ _ _ _ _ => true
  | .vamoXor _ _ _ _ _ _ => true
  | .vamoSwap _ _ _ _ _ _ => true
  | .mmac _ _ b _ _ => decide (b.toNat % 8 = 0)
  | .mmacs _ _ b m _ => decide (b.toNat % 8 = 0 ∧ m.toNat ≠ 0)
  | .mzero _ _ => true
  | .mst _ _ _ => true
  | .mld _ _ _ => true
  | .mattach => true
  | .mdetach => true
  | .fop _ _ _ _ _ => true
  | .fopC _ _ _ _ _ => true
  | .fbind _ _ _ => true
  | .funbind _ => true
  | .fdrain _ => true
  | .convoyDecode => true
  | .convoyCommit => true
  | .convoyIssue => true
  | .convoyRetire => true
  | .interruptTake hart => decide (hart < 1280)
  | .storeBufferDrain hart => decide (hart < 1280)
  | .sliceRequest req => decide (req.wf = true)
  | .writePerform pa _ => decide (pa < 2 ^ 50)
  | .futLdApply hart pa _ _ => decide (hart < 1280 ∧ pa < 2 ^ 50)
  | .futStApply pa _ => decide (pa < 2 ^ 50)
  | .futClrApply pa => decide (pa < 2 ^ 50)
  | .futCancel hart => decide (hart < 1280)
  | .tableWalk hart _ => decide (hart < 1280)
  | .combiningEntryRetire core => decide (core < 160)
  | .streamRetire core entry => decide (core < 160 ∧ entry < 16)
  | .streamHeadland core entry => decide (core < 160 ∧ entry < 16)
  | .exchangeStart hart => decide (hart < 1280)
  | .barrierArrival hart => decide (hart < 1280)
  | .laneGroupTake hart => decide (hart < 1280)
  | .reclaimTimeout hart => decide (hart < 1280)
  | .contextResume hart => decide (hart < 1280)
  | .taskDispatch cluster => decide (cluster < 10)
  | .taskCompletion queue _ => decide (queue < 640)
  | .reuseLookup queue => decide (queue < 640)
  | .boundLaunch chan => decide (chan < 256)
  | .ringRefill queue => decide (queue < 640)
  | .mattachGrant quad => decide (quad < 40)
  | .fopComplete core slot => decide (core < 160 ∧ slot < 16)
  | .fopMoreStop core slot => decide (core < 160 ∧ slot < 16)
  | .fopFault core slot => decide (core < 160 ∧ slot < 16)
  | .fabricDrainTimeout core slot => decide (core < 160 ∧ slot < 16)
  | .collectiveRoundSend die ctx => decide (die < 2 ∧ ctx < 32)
  | .reducerForward die ctx => decide (die < 2 ∧ ctx < 32)
  | .roundFlit port flit => decide (port < 16 ∧ flit.payload.length = 224)
  | .exponentsFlit port flit => decide (port < 16 ∧ flit.payload.length = 224)
  | .endFlit port flit => decide (port < 16 ∧ flit.payload.length = 224)
  | .cancelFlit port flit => decide (port < 16 ∧ flit.payload.length = 224)
  | .replayRequest port flit => decide (port < 16 ∧ flit.payload.length = 224)
  | .replayLimit port => decide (port < 16)
  | .retrainTimeout port => decide (port < 16)
  | .ingressRaise chan _ => decide (chan < 256)
  | .egressPop chan => decide (chan < 256)
  | .lfaultClear chan => decide (chan < 256)
  | .skip chan => decide (chan < 256)
  | .gangWordWrite cluster h _ => decide (cluster < 10 ∧ h < 128)
  | .qctlResume queue => decide (queue < 640)
  | .displace cluster _ => decide (cluster < 10)
  | .hold cluster _ => decide (cluster < 10)
  | .resume cluster _ => decide (cluster < 10)
  | .free cluster _ => decide (cluster < 10)
  | .adopt cluster _ => decide (cluster < 10)
  | .rsaltCommit _ => true
  | .rflush _ => true
  | .rctlWrite _ => true
  | .registerWrite pa _ => decide (pa < 2 ^ 50)
  | .ringSetup _ _ _ hext => decide (hext % 131072 = 0)
  | .start _ harts _ => decide (harts.all (fun n => decide (n < 1280)) = true)
  | .place _ _ _ mask _ _ => decide (mask < 65536)
  | .nodemap _ _ _ _ _ => true
  | .debugHalt _ hart => decide (hart < 1280)
  | .debugRelease _ hart => decide (hart < 1280)
  | .haltOnBreak _ hart _ => decide (hart < 1280)
  | .attest _ nonce => decide (nonce.length = 32)
  | .reset _ => true
  | .dumprel _ => true
  | .resync _ => true
  | .coldStart => true
  | .fatalStop _ => true
  | .watchdogExpiry => true
  | .throttleStep => true
  | .thermalStop => true
  | .eventReport source => decide (source < 256)
  | .patrolScrub => true
  | .laneRetire core lane => decide (core < 160 ∧ lane < 64)
  | .coreRetire core => decide (core < 160)
  | .droppedFlit port flit => decide (port < 16 ∧ flit.payload.length = 224)
  | .portRetrained port => decide (port < 16)
  | .waitSpuriousEnd hart => decide (hart < 1280)
  | .otherTypeMessage _ type => decide (type.toNat = 0 ∨ 8 < type.toNat)

end Sys2Proof
end

