-- ==== Sys2Proof/Decode.lean ====
section
/-! DEFINITION. Instruction words to instructions and back (R146 to R150). The decoder is total on words and rejects by
name; reserved field values are refused by Instr.wf, in one place.
Lean's code generator has no tags for more than 245 constructors that hold data, so what builds an instruction of the
table's second half is marked noncomputable: the kernel evaluates it as any other definition. -/

namespace Sys2Proof

/-- Why a word is not an instruction (R148, R156). -/
inductive Reject where
  /-- A major opcode that R149 marks reserved. -/
  | reservedMajor
  /-- A sub-opcode that R149 marks reserved. -/
  | reservedCode
  /-- A field that R148 requires to be zero is not. -/
  | nonzeroField
  /-- A field value that the map marks reserved. -/
  | reservedValue
  /-- Fewer than four bytes. -/
  | shortInput
  deriving DecidableEq, Repr

/-- Bits [lo + n - 1 : lo] of a word, as a number (R4). -/
def bits (w : BitVec 32) (lo n : Nat) : Nat := w.toNat / 2 ^ lo % 2 ^ n

/-- The same bits as an operand field. -/
def opnd (w : BitVec 32) (lo n : Nat) : BitVec n := BitVec.ofNat n (w.toNat / 2 ^ lo)

/-- Major 0x00 of the opcode map (R149). -/
def decodeMajor00 (w : BitVec 32) : Except Reject Instr :=
  match bits w 0 7 with
  | 0 => if bits w 7 19 = 0 then .ok .nop else .error .nonzeroField
  | 1 => if bits w 7 4 = 0 ∧ bits w 16 10 = 0 then .ok (.trap (opnd w 11 5)) else .error .nonzeroField
  | 2 => if bits w 7 19 = 0 then .ok .eret else .error .nonzeroField
  | 3 => if bits w 7 19 = 0 then .ok .wait else .error .nonzeroField
  | 4 => if bits w 7 19 = 0 then .ok .brk else .error .nonzeroField
  | 5 => if bits w 7 19 = 0 then .ok .fenceI else .error .nonzeroField
  | 6 => if bits w 21 5 = 0 then .ok (.tlbInv (opnd w 16 5) (opnd w 11 5) (opnd w 7 4)) else .error .nonzeroField
  | 7 => if bits w 7 9 = 0 ∧ bits w 21 5 = 0 then .ok (.l1Inv (opnd w 16 5)) else .error .nonzeroField
  | _ => .error .reservedCode

/-- Major 0x01 of the opcode map (R149). -/
def decodeMajor01 (w : BitVec 32) : Except Reject Instr :=
  match bits w 0 11 with
  | 0 => .ok (.add (opnd w 21 5) (opnd w 16 5) (opnd w 11 5))
  | 1 => .ok (.sub (opnd w 21 5) (opnd w 16 5) (opnd w 11 5))
  | 2 => .ok (.and (opnd w 21 5) (opnd w 16 5) (opnd w 11 5))
  | 3 => .ok (.or (opnd w 21 5) (opnd w 16 5) (opnd w 11 5))
  | 4 => .ok (.xor (opnd w 21 5) (opnd w 16 5) (opnd w 11 5))
  | 5 => .ok (.sll (opnd w 21 5) (opnd w 16 5) (opnd w 11 5))
  | 6 => .ok (.srl (opnd w 21 5) (opnd w 16 5) (opnd w 11 5))
  | 7 => .ok (.sra (opnd w 21 5) (opnd w 16 5) (opnd w 11 5))
  | 8 => .ok (.min (opnd w 21 5) (opnd w 16 5) (opnd w 11 5))
  | 9 => .ok (.max (opnd w 21 5) (opnd w 16 5) (opnd w 11 5))
  | 10 => .ok (.minn (opnd w 21 5) (opnd w 16 5) (opnd w 11 5))
  | 11 => .ok (.maxn (opnd w 21 5) (opnd w 16 5) (opnd w 11 5))
  | 12 => .ok (.slt (opnd w 21 5) (opnd w 16 5) (opnd w 11 5))
  | 13 => .ok (.sltn (opnd w 21 5) (opnd w 16 5) (opnd w 11 5))
  | 14 => .ok (.sel (opnd w 21 5) (opnd w 16 5) (opnd w 11 5))
  | _ => .error .reservedCode

/-- Major 0x02 of the opcode map (R149). -/
def decodeMajor02 (w : BitVec 32) : Except Reject Instr :=
  match bits w 0 11 with
  | 0 => .ok (.mul (opnd w 21 5) (opnd w 16 5) (opnd w 11 5))
  | 1 => .ok (.mulh (opnd w 21 5) (opnd w 16 5) (opnd w 11 5))
  | 2 => .ok (.mulhn (opnd w 21 5) (opnd w 16 5) (opnd w 11 5))
  | 3 => .ok (.div (opnd w 21 5) (opnd w 16 5) (opnd w 11 5))
  | 4 => .ok (.divn (opnd w 21 5) (opnd w 16 5) (opnd w 11 5))
  | 5 => .ok (.rem (opnd w 21 5) (opnd w 16 5) (opnd w 11 5))
  | 6 => .ok (.remn (opnd w 21 5) (opnd w 16 5) (opnd w 11 5))
  | _ => .error .reservedCode

/-- Major 0x03 of the opcode map (R149). -/
def decodeMajor03 (w : BitVec 32) : Except Reject Instr :=
  match bits w 0 11 with
  | 0 => if bits w 11 5 = 0 then .ok (.clz (opnd w 21 5) (opnd w 16 5)) else .error .nonzeroField
  | 1 => if bits w 11 5 = 0 then .ok (.ctz (opnd w 21 5) (opnd w 16 5)) else .error .nonzeroField
  | 2 => if bits w 11 5 = 0 then .ok (.popc (opnd w 21 5) (opnd w 16 5)) else .error .nonzeroField
  | 3 => if bits w 11 5 = 0 then .ok (.bswap (opnd w 21 5) (opnd w 16 5)) else .error .nonzeroField
  | _ => .error .reservedCode

/-- Major 0x04 of the opcode map (R149). -/
def decodeMajor04 (w : BitVec 32) : Except Reject Instr :=
  .ok (.addi (opnd w 21 5) (opnd w 16 5) (opnd w 0 16))

/-- Major 0x05 of the opcode map (R149). -/
def decodeMajor05 (w : BitVec 32) : Except Reject Instr :=
  .ok (.andi (opnd w 21 5) (opnd w 16 5) (opnd w 0 16))

/-- Major 0x06 of the opcode map (R149). -/
def decodeMajor06 (w : BitVec 32) : Except Reject Instr :=
  .ok (.ori (opnd w 21 5) (opnd w 16 5) (opnd w 0 16))

/-- Major 0x07 of the opcode map (R149). -/
def decodeMajor07 (w : BitVec 32) : Except Reject Instr :=
  .ok (.xori (opnd w 21 5) (opnd w 16 5) (opnd w 0 16))

/-- Major 0x08 of the opcode map (R149). -/
def decodeMajor08 (w : BitVec 32) : Except Reject Instr :=
  .ok (.slti (opnd w 21 5) (opnd w 16 5) (opnd w 0 16))

/-- Major 0x09 of the opcode map (R149). -/
def decodeMajor09 (w : BitVec 32) : Except Reject Instr :=
  .ok (.sltni (opnd w 21 5) (opnd w 16 5) (opnd w 0 16))

/-- Major 0x0A of the opcode map (R149). -/
def decodeMajor0A (w : BitVec 32) : Except Reject Instr :=
  match bits w 6 2 with
  | 0 => if bits w 8 8 = 0 then .ok (.slli (opnd w 21 5) (opnd w 16 5) (opnd w 0 6)) else .error .nonzeroField
  | 1 => if bits w 8 8 = 0 then .ok (.srli (opnd w 21 5) (opnd w 16 5) (opnd w 0 6)) else .error .nonzeroField
  | 2 => if bits w 8 8 = 0 then .ok (.srai (opnd w 21 5) (opnd w 16 5) (opnd w 0 6)) else .error .nonzeroField
  | _ => .error .reservedCode

/-- Major 0x0B of the opcode map (R149). -/
def decodeMajor0B (w : BitVec 32) : Except Reject Instr :=
  match bits w 20 1 with
  | 0 => .ok (.ldhi (opnd w 21 5) (opnd w 0 20))
  | 1 => .ok (.adrc (opnd w 21 5) (opnd w 0 20))
  | _ => .error .reservedCode

/-- Major 0x0C of the opcode map (R149). -/
def decodeMajor0C (w : BitVec 32) : Except Reject Instr :=
  match bits w 13 3 with
  | 0 => .ok (.ldB (opnd w 21 5) (opnd w 16 5) (opnd w 0 13))
  | 1 => .ok (.ldH (opnd w 21 5) (opnd w 16 5) (opnd w 0 13))
  | 2 => .ok (.ldW (opnd w 21 5) (opnd w 16 5) (opnd w 0 13))
  | 3 => .ok (.ldD (opnd w 21 5) (opnd w 16 5) (opnd w 0 13))
  | 4 => .ok (.ldBn (opnd w 21 5) (opnd w 16 5) (opnd w 0 13))
  | 5 => .ok (.ldHn (opnd w 21 5) (opnd w 16 5) (opnd w 0 13))
  | 6 => .ok (.ldWn (opnd w 21 5) (opnd w 16 5) (opnd w 0 13))
  | _ => .error .reservedCode

/-- Major 0x0D of the opcode map (R149). -/
def decodeMajor0D (w : BitVec 32) : Except Reject Instr :=
  match bits w 13 3 with
  | 0 => .ok (.ldBAq (opnd w 21 5) (opnd w 16 5) (opnd w 0 13))
  | 1 => .ok (.ldHAq (opnd w 21 5) (opnd w 16 5) (opnd w 0 13))
  | 2 => .ok (.ldWAq (opnd w 21 5) (opnd w 16 5) (opnd w 0 13))
  | 3 => .ok (.ldDAq (opnd w 21 5) (opnd w 16 5) (opnd w 0 13))
  | 4 => .ok (.ldBnAq (opnd w 21 5) (opnd w 16 5) (opnd w 0 13))
  | 5 => .ok (.ldHnAq (opnd w 21 5) (opnd w 16 5) (opnd w 0 13))
  | 6 => .ok (.ldWnAq (opnd w 21 5) (opnd w 16 5) (opnd w 0 13))
  | _ => .error .reservedCode

/-- Major 0x0E of the opcode map (R149). -/
def decodeMajor0E (w : BitVec 32) : Except Reject Instr :=
  match bits w 13 3 with
  | 0 => .ok (.stB (opnd w 21 5) (opnd w 16 5) (opnd w 0 13))
  | 1 => .ok (.stH (opnd w 21 5) (opnd w 16 5) (opnd w 0 13))
  | 2 => .ok (.stW (opnd w 21 5) (opnd w 16 5) (opnd w 0 13))
  | 3 => .ok (.stD (opnd w 21 5) (opnd w 16 5) (opnd w 0 13))
  | _ => .error .reservedCode

/-- Major 0x0F of the opcode map (R149). -/
def decodeMajor0F (w : BitVec 32) : Except Reject Instr :=
  match bits w 13 3 with
  | 0 => .ok (.stBRl (opnd w 21 5) (opnd w 16 5) (opnd w 0 13))
  | 1 => .ok (.stHRl (opnd w 21 5) (opnd w 16 5) (opnd w 0 13))
  | 2 => .ok (.stWRl (opnd w 21 5) (opnd w 16 5) (opnd w 0 13))
  | 3 => .ok (.stDRl (opnd w 21 5) (opnd w 16 5) (opnd w 0 13))
  | _ => .error .reservedCode

/-- Major 0x10 of the opcode map (R149). -/
def decodeMajor10 (w : BitVec 32) : Except Reject Instr :=
  match bits w 0 3 with
  | 0 => if bits w 4 7 = 0 then .ok (.ldBX (opnd w 21 5) (opnd w 16 5) (opnd w 11 5) (opnd w 3 1)) else .error .nonzeroField
  | 1 => if bits w 4 7 = 0 then .ok (.ldHX (opnd w 21 5) (opnd w 16 5) (opnd w 11 5) (opnd w 3 1)) else .error .nonzeroField
  | 2 => if bits w 4 7 = 0 then .ok (.ldWX (opnd w 21 5) (opnd w 16 5) (opnd w 11 5) (opnd w 3 1)) else .error .nonzeroField
  | 3 => if bits w 4 7 = 0 then .ok (.ldDX (opnd w 21 5) (opnd w 16 5) (opnd w 11 5) (opnd w 3 1)) else .error .nonzeroField
  | 4 => if bits w 4 7 = 0 then .ok (.ldBnX (opnd w 21 5) (opnd w 16 5) (opnd w 11 5) (opnd w 3 1)) else .error .nonzeroField
  | 5 => if bits w 4 7 = 0 then .ok (.ldHnX (opnd w 21 5) (opnd w 16 5) (opnd w 11 5) (opnd w 3 1)) else .error .nonzeroField
  | 6 => if bits w 4 7 = 0 then .ok (.ldWnX (opnd w 21 5) (opnd w 16 5) (opnd w 11 5) (opnd w 3 1)) else .error .nonzeroField
  | _ => .error .reservedCode

/-- Major 0x11 of the opcode map (R149). -/
def decodeMajor11 (w : BitVec 32) : Except Reject Instr :=
  match bits w 0 3 with
  | 0 => if bits w 4 7 = 0 then .ok (.stBX (opnd w 21 5) (opnd w 16 5) (opnd w 11 5) (opnd w 3 1)) else .error .nonzeroField
  | 1 => if bits w 4 7 = 0 then .ok (.stHX (opnd w 21 5) (opnd w 16 5) (opnd w 11 5) (opnd w 3 1)) else .error .nonzeroField
  | 2 => if bits w 4 7 = 0 then .ok (.stWX (opnd w 21 5) (opnd w 16 5) (opnd w 11 5) (opnd w 3 1)) else .error .nonzeroField
  | 3 => if bits w 4 7 = 0 then .ok (.stDX (opnd w 21 5) (opnd w 16 5) (opnd w 11 5) (opnd w 3 1)) else .error .nonzeroField
  | _ => .error .reservedCode

/-- Major 0x13 of the opcode map (R149). -/
def decodeMajor13 (w : BitVec 32) : Except Reject Instr :=
  match bits w 0 3 with
  | 0 => if bits w 6 1 = 0 then .ok (.amoAdd (opnd w 21 5) (opnd w 16 5) (opnd w 11 5) (opnd w 7 4) (opnd w 4 2) (opnd w 3 1)) else .error .nonzeroField
  | 1 => if bits w 6 1 = 0 then .ok (.amoAnd (opnd w 21 5) (opnd w 16 5) (opnd w 11 5) (opnd w 7 4) (opnd w 4 2) (opnd w 3 1)) else .error .nonzeroField
  | 2 => if bits w 6 1 = 0 then .ok (.amoOr (opnd w 21 5) (opnd w 16 5) (opnd w 11 5) (opnd w 7 4) (opnd w 4 2) (opnd w 3 1)) else .error .nonzeroField
  | 3 => if bits w 6 1 = 0 then .ok (.amoXor (opnd w 21 5) (opnd w 16 5) (opnd w 11 5) (opnd w 7 4) (opnd w 4 2) (opnd w 3 1)) else .error .nonzeroField
  | 4 => if bits w 6 1 = 0 then .ok (.amoSwap (opnd w 21 5) (opnd w 16 5) (opnd w 11 5) (opnd w 7 4) (opnd w 4 2) (opnd w 3 1)) else .error .nonzeroField
  | 5 => if bits w 6 1 = 0 then .ok (.amoMin (opnd w 21 5) (opnd w 16 5) (opnd w 11 5) (opnd w 7 4) (opnd w 4 2) (opnd w 3 1)) else .error .nonzeroField
  | 6 => if bits w 6 1 = 0 then .ok (.amoMax (opnd w 21 5) (opnd w 16 5) (opnd w 11 5) (opnd w 7 4) (opnd w 4 2) (opnd w 3 1)) else .error .nonzeroField
  | 7 => if bits w 6 1 = 0 then .ok (.amoCas (opnd w 21 5) (opnd w 16 5) (opnd w 11 5) (opnd w 7 4) (opnd w 4 2) (opnd w 3 1)) else .error .nonzeroField
  | _ => .error .reservedCode

/-- Major 0x14 of the opcode map (R149). -/
def decodeMajor14 (w : BitVec 32) : Except Reject Instr :=
  .ok (.beq (opnd w 21 5) (opnd w 16 5) (opnd w 0 16))

/-- Major 0x15 of the opcode map (R149). -/
def decodeMajor15 (w : BitVec 32) : Except Reject Instr :=
  .ok (.bne (opnd w 21 5) (opnd w 16 5) (opnd w 0 16))

/-- Major 0x16 of the opcode map (R149). -/
def decodeMajor16 (w : BitVec 32) : Except Reject Instr :=
  .ok (.blt (opnd w 21 5) (opnd w 16 5) (opnd w 0 16))

/-- Major 0x17 of the opcode map (R149). -/
def decodeMajor17 (w : BitVec 32) : Except Reject Instr :=
  .ok (.bge (opnd w 21 5) (opnd w 16 5) (opnd w 0 16))

/-- Major 0x18 of the opcode map (R149). -/
def decodeMajor18 (w : BitVec 32) : Except Reject Instr :=
  .ok (.bltn (opnd w 21 5) (opnd w 16 5) (opnd w 0 16))

/-- Major 0x19 of the opcode map (R149). -/
def decodeMajor19 (w : BitVec 32) : Except Reject Instr :=
  .ok (.bgen (opnd w 21 5) (opnd w 16 5) (opnd w 0 16))

/-- Major 0x1A of the opcode map (R149). -/
def decodeMajor1A (w : BitVec 32) : Except Reject Instr :=
  .ok (.jal (opnd w 21 5) (opnd w 0 21))

/-- Major 0x1B of the opcode map (R149). -/
def decodeMajor1B (w : BitVec 32) : Except Reject Instr :=
  .ok (.jalr (opnd w 21 5) (opnd w 16 5) (opnd w 0 16))

/-- Major 0x1C of the opcode map (R149). -/
def decodeMajor1C (w : BitVec 32) : Except Reject Instr :=
  match bits w 21 5 with
  | 0 => if bits w 16 5 = 0 then .ok (.bq (opnd w 0 16)) else .error .nonzeroField
  | 1 => if bits w 16 5 = 0 then .ok (.bqNot (opnd w 0 16)) else .error .nonzeroField
  | _ => .error .reservedCode

/-- Major 0x1D of the opcode map (R149). -/
def decodeMajor1D (w : BitVec 32) : Except Reject Instr :=
  match bits w 14 2 with
  | 0 => if bits w 12 2 = 0 ∧ bits w 16 5 = 0 then .ok (.ctlRd (opnd w 21 5) (opnd w 0 12)) else .error .nonzeroField
  | 1 => if bits w 12 2 = 0 ∧ bits w 21 5 = 0 then .ok (.ctlWr (opnd w 16 5) (opnd w 0 12)) else .error .nonzeroField
  | 2 => if bits w 12 2 = 0 ∧ bits w 21 5 = 0 then .ok (.ctlSet (opnd w 16 5) (opnd w 0 12)) else .error .nonzeroField
  | 3 => if bits w 12 2 = 0 ∧ bits w 21 5 = 0 then .ok (.ctlClr (opnd w 16 5) (opnd w 0 12)) else .error .nonzeroField
  | _ => .error .reservedCode

/-- Major 0x1E of the opcode map (R149). -/
def decodeMajor1E (w : BitVec 32) : Except Reject Instr :=
  match bits w 8 3 with
  | 0 => if bits w 0 8 = 0 then .ok (.vsetvl (opnd w 21 5) (opnd w 16 5) (opnd w 11 5)) else .error .nonzeroField
  | 1 => if bits w 5 3 = 0 ∧ bits w 11 5 = 0 then .ok (.vsetvli (opnd w 21 5) (opnd w 16 5) (opnd w 0 5)) else .error .nonzeroField
  | 2 => if bits w 0 8 = 0 then .ok (.gsetvl (opnd w 21 5) (opnd w 16 5) (opnd w 11 5)) else .error .nonzeroField
  | 4 => if bits w 2 6 = 0 ∧ bits w 11 15 = 0 then .ok (.vdecl (opnd w 0 2)) else .error .nonzeroField
  | 5 => if bits w 16 10 = 0 then .ok (.vdeclBuf (opnd w 11 5) (opnd w 2 6) (opnd w 0 2)) else .error .nonzeroField
  | _ => .error .reservedCode

/-- Major 0x1F of the opcode map (R149). -/
def decodeMajor1F (w : BitVec 32) : Except Reject Instr :=
  match bits w 0 7 with
  | 0 => if bits w 7 4 = 0 then .ok (.taskPost (opnd w 21 5) (opnd w 16 5) (opnd w 11 5)) else .error .nonzeroField
  | 1 => if bits w 7 9 = 0 then .ok (.taskTake (opnd w 21 5) (opnd w 16 5)) else .error .nonzeroField
  | 2 => if bits w 7 9 = 0 then .ok (.taskDone (opnd w 21 5) (opnd w 16 5)) else .error .nonzeroField
  | 3 => if bits w 7 19 = 0 then .ok .taskYield else .error .nonzeroField
  | 4 => if bits w 7 9 = 0 then .ok (.stripGrant (opnd w 21 5) (opnd w 16 5)) else .error .nonzeroField
  | 8 => if bits w 7 4 = 0 then .ok (.futLd (opnd w 21 5) (opnd w 16 5) (opnd w 11 5)) else .error .nonzeroField
  | 9 => if bits w 7 4 = 0 then .ok (.futSt (opnd w 21 5) (opnd w 16 5) (opnd w 11 5)) else .error .nonzeroField
  | 10 => if bits w 7 9 = 0 then .ok (.futClr (opnd w 21 5) (opnd w 16 5)) else .error .nonzeroField
  | 16 => if bits w 16 10 = 0 then .ok (.fence (opnd w 11 5) (opnd w 7 4)) else .error .nonzeroField
  | 17 => if bits w 7 4 = 0 ∧ bits w 16 10 = 0 then .ok (.drain (opnd w 11 5)) else .error .nonzeroField
  | 18 => if bits w 7 19 = 0 then .ok .garrive else .error .nonzeroField
  | 19 => if bits w 7 14 = 0 then .ok (.gwait (opnd w 21 5)) else .error .nonzeroField
  | 20 => if bits w 7 9 = 0 then .ok (.ingTake (opnd w 21 5) (opnd w 16 5)) else .error .nonzeroField
  | 21 => if bits w 7 4 = 0 then .ok (.egrPost (opnd w 21 5) (opnd w 16 5) (opnd w 11 5)) else .error .nonzeroField
  | 22 => .ok (.pcwait (opnd w 21 5) (opnd w 16 5) (opnd w 11 5) (opnd w 7 4))
  | _ => .error .reservedCode

/-- Major 0x20 of the opcode map (R149). -/
def decodeMajor20 (w : BitVec 32) : Except Reject Instr :=
  match bits w 0 3 with
  | 0 => if bits w 6 5 = 0 then .ok (.strLd (opnd w 21 5) (opnd w 16 5) (opnd w 11 5) (opnd w 5 1) (opnd w 4 1) (opnd w 3 1)) else .error .nonzeroField
  | 1 => if bits w 5 6 = 0 then .ok (.strSt (opnd w 21 5) (opnd w 16 5) (opnd w 11 5) (opnd w 4 1) (opnd w 3 1)) else .error .nonzeroField
  | 2 => if bits w 6 5 = 0 then .ok (.strCp (opnd w 21 5) (opnd w 16 5) (opnd w 11 5) (opnd w 5 1) (opnd w 4 1) (opnd w 3 1)) else .error .nonzeroField
  | 3 => if bits w 5 6 = 0 then .ok (.strXch (opnd w 21 5) (opnd w 16 5) (opnd w 11 5) (opnd w 4 1) (opnd w 3 1)) else .error .nonzeroField
  | 4 => if bits w 3 13 = 0 then .ok (.strWait (opnd w 21 5) (opnd w 16 5)) else .error .nonzeroField
  | _ => .error .reservedCode

/-- Major 0x21 of the opcode map (R149). -/
def decodeMajor21 (w : BitVec 32) : Except Reject Instr :=
  match bits w 0 3 with
  | 0 => if bits w 7 9 = 0 then .ok (.collSend (opnd w 21 5) (opnd w 16 5) (opnd w 3 4)) else .error .nonzeroField
  | 1 => if bits w 7 9 = 0 then .ok (.collRecv (opnd w 21 5) (opnd w 16 5) (opnd w 3 4)) else .error .nonzeroField
  | 2 => if bits w 7 9 = 0 then .ok (.collRed (opnd w 21 5) (opnd w 16 5) (opnd w 3 4)) else .error .nonzeroField
  | 3 => if bits w 3 13 = 0 then .ok (.collCancel (opnd w 21 5) (opnd w 16 5)) else .error .nonzeroField
  | 4 => if bits w 3 13 = 0 then .ok (.collStat (opnd w 21 5) (opnd w 16 5)) else .error .nonzeroField
  | _ => .error .reservedCode

/-- Major 0x22 of the opcode map (R149). -/
def decodeMajor22 (w : BitVec 32) : Except Reject Instr :=
  match bits w 0 5 with
  | 0 => .ok (.vaddVv (opnd w 20 6) (opnd w 14 6) (opnd w 8 6) (opnd w 5 3))
  | 1 => .ok (.vsubVv (opnd w 20 6) (opnd w 14 6) (opnd w 8 6) (opnd w 5 3))
  | 2 => .ok (.vrsubVv (opnd w 20 6) (opnd w 14 6) (opnd w 8 6) (opnd w 5 3))
  | 3 => .ok (.vmulVv (opnd w 20 6) (opnd w 14 6) (opnd w 8 6) (opnd w 5 3))
  | 4 => .ok (.vmulhIVv (opnd w 20 6) (opnd w 14 6) (opnd w 8 6) (opnd w 5 3))
  | 5 => .ok (.vmulhNVv (opnd w 20 6) (opnd w 14 6) (opnd w 8 6) (opnd w 5 3))
  | 6 => .ok (.vdivIVv (opnd w 20 6) (opnd w 14 6) (opnd w 8 6) (opnd w 5 3))
  | 7 => .ok (.vdivNVv (opnd w 20 6) (opnd w 14 6) (opnd w 8 6) (opnd w 5 3))
  | 8 => .ok (.vremIVv (opnd w 20 6) (opnd w 14 6) (opnd w 8 6) (opnd w 5 3))
  | 9 => .ok (.vremNVv (opnd w 20 6) (opnd w 14 6) (opnd w 8 6) (opnd w 5 3))
  | 10 => .ok (.vminIVv (opnd w 20 6) (opnd w 14 6) (opnd w 8 6) (opnd w 5 3))
  | 11 => .ok (.vminNVv (opnd w 20 6) (opnd w 14 6) (opnd w 8 6) (opnd w 5 3))
  | 12 => .ok (.vmaxIVv (opnd w 20 6) (opnd w 14 6) (opnd w 8 6) (opnd w 5 3))
  | 13 => .ok (.vmaxNVv (opnd w 20 6) (opnd w 14 6) (opnd w 8 6) (opnd w 5 3))
  | 14 => .ok (.vandVv (opnd w 20 6) (opnd w 14 6) (opnd w 8 6) (opnd w 5 3))
  | 15 => .ok (.vorVv (opnd w 20 6) (opnd w 14 6) (opnd w 8 6) (opnd w 5 3))
  | 16 => .ok (.vxorVv (opnd w 20 6) (opnd w 14 6) (opnd w 8 6) (opnd w 5 3))
  | 17 => .ok (.vsllVv (opnd w 20 6) (opnd w 14 6) (opnd w 8 6) (opnd w 5 3))
  | 18 => .ok (.vsrlVv (opnd w 20 6) (opnd w 14 6) (opnd w 8 6) (opnd w 5 3))
  | 19 => .ok (.vsraVv (opnd w 20 6) (opnd w 14 6) (opnd w 8 6) (opnd w 5 3))
  | 20 => .ok (.vsaddIVv (opnd w 20 6) (opnd w 14 6) (opnd w 8 6) (opnd w 5 3))
  | 21 => .ok (.vsaddNVv (opnd w 20 6) (opnd w 14 6) (opnd w 8 6) (opnd w 5 3))
  | 22 => .ok (.vssubIVv (opnd w 20 6) (opnd w 14 6) (opnd w 8 6) (opnd w 5 3))
  | 23 => .ok (.vssubNVv (opnd w 20 6) (opnd w 14 6) (opnd w 8 6) (opnd w 5 3))
  | 24 => .ok (.vavgIVv (opnd w 20 6) (opnd w 14 6) (opnd w 8 6) (opnd w 5 3))
  | 25 => .ok (.vavgNVv (opnd w 20 6) (opnd w 14 6) (opnd w 8 6) (opnd w 5 3))
  | 26 => .ok (.vwaddIVv (opnd w 20 6) (opnd w 14 6) (opnd w 8 6) (opnd w 5 3))
  | 27 => .ok (.vwaddNVv (opnd w 20 6) (opnd w 14 6) (opnd w 8 6) (opnd w 5 3))
  | 28 => .ok (.vnarrowIVv (opnd w 20 6) (opnd w 14 6) (opnd w 8 6) (opnd w 5 3))
  | 29 => .ok (.vnarrowNVv (opnd w 20 6) (opnd w 14 6) (opnd w 8 6) (opnd w 5 3))
  | _ => .error .reservedCode

/-- Major 0x23 of the opcode map (R149). -/
def decodeMajor23 (w : BitVec 32) : Except Reject Instr :=
  match bits w 0 6 with
  | 0 => .ok (.vaddVx (opnd w 20 6) (opnd w 14 6) (opnd w 9 5) (opnd w 6 3))
  | 1 => .ok (.vsubVx (opnd w 20 6) (opnd w 14 6) (opnd w 9 5) (opnd w 6 3))
  | 2 => .ok (.vrsubVx (opnd w 20 6) (opnd w 14 6) (opnd w 9 5) (opnd w 6 3))
  | 3 => .ok (.vmulVx (opnd w 20 6) (opnd w 14 6) (opnd w 9 5) (opnd w 6 3))
  | 4 => .ok (.vmulhIVx (opnd w 20 6) (opnd w 14 6) (opnd w 9 5) (opnd w 6 3))
  | 5 => .ok (.vmulhNVx (opnd w 20 6) (opnd w 14 6) (opnd w 9 5) (opnd w 6 3))
  | 6 => .ok (.vdivIVx (opnd w 20 6) (opnd w 14 6) (opnd w 9 5) (opnd w 6 3))
  | 7 => .ok (.vdivNVx (opnd w 20 6) (opnd w 14 6) (opnd w 9 5) (opnd w 6 3))
  | 8 => .ok (.vremIVx (opnd w 20 6) (opnd w 14 6) (opnd w 9 5) (opnd w 6 3))
  | 9 => .ok (.vremNVx (opnd w 20 6) (opnd w 14 6) (opnd w 9 5) (opnd w 6 3))
  | 10 => .ok (.vminIVx (opnd w 20 6) (opnd w 14 6) (opnd w 9 5) (opnd w 6 3))
  | 11 => .ok (.vminNVx (opnd w 20 6) (opnd w 14 6) (opnd w 9 5) (opnd w 6 3))
  | 12 => .ok (.vmaxIVx (opnd w 20 6) (opnd w 14 6) (opnd w 9 5) (opnd w 6 3))
  | 13 => .ok (.vmaxNVx (opnd w 20 6) (opnd w 14 6) (opnd w 9 5) (opnd w 6 3))
  | 14 => .ok (.vandVx (opnd w 20 6) (opnd w 14 6) (opnd w 9 5) (opnd w 6 3))
  | 15 => .ok (.vorVx (opnd w 20 6) (opnd w 14 6) (opnd w 9 5) (opnd w 6 3))
  | 16 => .ok (.vxorVx (opnd w 20 6) (opnd w 14 6) (opnd w 9 5) (opnd w 6 3))
  | 17 => .ok (.vsllVx (opnd w 20 6) (opnd w 14 6) (opnd w 9 5) (opnd w 6 3))
  | 18 => .ok (.vsrlVx (opnd w 20 6) (opnd w 14 6) (opnd w 9 5) (opnd w 6 3))
  | 19 => .ok (.vsraVx (opnd w 20 6) (opnd w 14 6) (opnd w 9 5) (opnd w 6 3))
  | 20 => .ok (.vsaddIVx (opnd w 20 6) (opnd w 14 6) (opnd w 9 5) (opnd w 6 3))
  | 21 => .ok (.vsaddNVx (opnd w 20 6) (opnd w 14 6) (opnd w 9 5) (opnd w 6 3))
  | 22 => .ok (.vssubIVx (opnd w 20 6) (opnd w 14 6) (opnd w 9 5) (opnd w 6 3))
  | 23 => .ok (.vssubNVx (opnd w 20 6) (opnd w 14 6) (opnd w 9 5) (opnd w 6 3))
  | 24 => .ok (.vavgIVx (opnd w 20 6) (opnd w 14 6) (opnd w 9 5) (opnd w 6 3))
  | 25 => .ok (.vavgNVx (opnd w 20 6) (opnd w 14 6) (opnd w 9 5) (opnd w 6 3))
  | 26 => .ok (.vwaddIVx (opnd w 20 6) (opnd w 14 6) (opnd w 9 5) (opnd w 6 3))
  | 27 => .ok (.vwaddNVx (opnd w 20 6) (opnd w 14 6) (opnd w 9 5) (opnd w 6 3))
  | 28 => .ok (.vnarrowIVx (opnd w 20 6) (opnd w 14 6) (opnd w 9 5) (opnd w 6 3))
  | 29 => .ok (.vnarrowNVx (opnd w 20 6) (opnd w 14 6) (opnd w 9 5) (opnd w 6 3))
  | _ => .error .reservedCode

/-- Major 0x24 of the opcode map (R149). -/
def decodeMajor24 (w : BitVec 32) : Except Reject Instr :=
  match bits w 0 3 with
  | 0 => .ok (.vaddVi (opnd w 20 6) (opnd w 14 6) (opnd w 6 8) (opnd w 3 3))
  | 1 => .ok (.vrsubVi (opnd w 20 6) (opnd w 14 6) (opnd w 6 8) (opnd w 3 3))
  | 2 => .ok (.vandVi (opnd w 20 6) (opnd w 14 6) (opnd w 6 8) (opnd w 3 3))
  | 3 => .ok (.vorVi (opnd w 20 6) (opnd w 14 6) (opnd w 6 8) (opnd w 3 3))
  | 4 => .ok (.vxorVi (opnd w 20 6) (opnd w 14 6) (opnd w 6 8) (opnd w 3 3))
  | 5 => if bits w 12 2 = 0 then .ok (.vsllVi (opnd w 20 6) (opnd w 14 6) (opnd w 6 6) (opnd w 3 3)) else .error .nonzeroField
  | 6 => if bits w 12 2 = 0 then .ok (.vsrlVi (opnd w 20 6) (opnd w 14 6) (opnd w 6 6) (opnd w 3 3)) else .error .nonzeroField
  | 7 => if bits w 12 2 = 0 then .ok (.vsraVi (opnd w 20 6) (opnd w 14 6) (opnd w 6 6) (opnd w 3 3)) else .error .nonzeroField
  | _ => .error .reservedCode

/-- Major 0x25 of the opcode map (R149). -/
def decodeMajor25 (w : BitVec 32) : Except Reject Instr :=
  match bits w 0 3 with
  | 0 => .ok (.vsaddIVi (opnd w 20 6) (opnd w 14 6) (opnd w 6 8) (opnd w 3 3))
  | 1 => .ok (.vsaddNVi (opnd w 20 6) (opnd w 14 6) (opnd w 6 8) (opnd w 3 3))
  | 2 => .ok (.vminIVi (opnd w 20 6) (opnd w 14 6) (opnd w 6 8) (opnd w 3 3))
  | 3 => .ok (.vminNVi (opnd w 20 6) (opnd w 14 6) (opnd w 6 8) (opnd w 3 3))
  | 4 => .ok (.vmaxIVi (opnd w 20 6) (opnd w 14 6) (opnd w 6 8) (opnd w 3 3))
  | 5 => .ok (.vmaxNVi (opnd w 20 6) (opnd w 14 6) (opnd w 6 8) (opnd w 3 3))
  | 6 => if bits w 12 2 = 0 then .ok (.vnarrowIVi (opnd w 20 6) (opnd w 14 6) (opnd w 6 6) (opnd w 3 3)) else .error .nonzeroField
  | 7 => if bits w 12 2 = 0 then .ok (.vnarrowNVi (opnd w 20 6) (opnd w 14 6) (opnd w 6 6) (opnd w 3 3)) else .error .nonzeroField
  | _ => .error .reservedCode

/-- Major 0x26 of the opcode map (R149). -/
def decodeMajor26 (w : BitVec 32) : Except Reject Instr :=
  match bits w 0 2 with
  | 0 => .ok (.vfadd (opnd w 20 6) (opnd w 14 6) (opnd w 8 6) (opnd w 5 3) (opnd w 2 3))
  | 1 => .ok (.vfsub (opnd w 20 6) (opnd w 14 6) (opnd w 8 6) (opnd w 5 3) (opnd w 2 3))
  | 2 => .ok (.vfmul (opnd w 20 6) (opnd w 14 6) (opnd w 8 6) (opnd w 5 3) (opnd w 2 3))
  | 3 => .ok (.vfdiv (opnd w 20 6) (opnd w 14 6) (opnd w 8 6) (opnd w 5 3) (opnd w 2 3))
  | _ => .error .reservedCode

/-- Major 0x27 of the opcode map (R149). -/
def decodeMajor27 (w : BitVec 32) : Except Reject Instr :=
  match bits w 0 2 with
  | 0 => .ok (.vfmacc (opnd w 20 6) (opnd w 14 6) (opnd w 8 6) (opnd w 5 3) (opnd w 2 3))
  | 1 => .ok (.vfnmacc (opnd w 20 6) (opnd w 14 6) (opnd w 8 6) (opnd w 5 3) (opnd w 2 3))
  | 2 => .ok (.vfmsac (opnd w 20 6) (opnd w 14 6) (opnd w 8 6) (opnd w 5 3) (opnd w 2 3))
  | 3 => .ok (.vfnmsac (opnd w 20 6) (opnd w 14 6) (opnd w 8 6) (opnd w 5 3) (opnd w 2 3))
  | _ => .error .reservedCode

/-- Major 0x28 of the opcode map (R149). -/
def decodeMajor28 (w : BitVec 32) : Except Reject Instr :=
  match bits w 0 2 with
  | 0 => .ok (.vfmin (opnd w 20 6) (opnd w 14 6) (opnd w 8 6) (opnd w 5 3) (opnd w 2 3))
  | 1 => .ok (.vfmax (opnd w 20 6) (opnd w 14 6) (opnd w 8 6) (opnd w 5 3) (opnd w 2 3))
  | 2 => .ok (.vfcopysign (opnd w 20 6) (opnd w 14 6) (opnd w 8 6) (opnd w 5 3) (opnd w 2 3))
  | 3 => .ok (.vfscale (opnd w 20 6) (opnd w 14 6) (opnd w 8 6) (opnd w 5 3) (opnd w 2 3))
  | _ => .error .reservedCode

/-- Major 0x29 of the opcode map (R149). -/
def decodeMajor29 (w : BitVec 32) : Except Reject Instr :=
  match bits w 0 2 with
  | 0 =>
    match bits w 8 6 with
    | 0 => .ok (.vfsqrt (opnd w 20 6) (opnd w 14 6) (opnd w 5 3) (opnd w 2 3))
    | 1 => .ok (.vfabs (opnd w 20 6) (opnd w 14 6) (opnd w 5 3) (opnd w 2 3))
    | 2 => .ok (.vfneg (opnd w 20 6) (opnd w 14 6) (opnd w 5 3) (opnd w 2 3))
    | 3 => .ok (.vfcvt (opnd w 20 6) (opnd w 14 6) (opnd w 5 3) (opnd w 2 3))
    | 4 => .ok (.vfround (opnd w 20 6) (opnd w 14 6) (opnd w 5 3) (opnd w 2 3))
    | 5 => .ok (.vfexp2f (opnd w 20 6) (opnd w 14 6) (opnd w 5 3) (opnd w 2 3))
    | 6 => .ok (.vfrecip (opnd w 20 6) (opnd w 14 6) (opnd w 5 3) (opnd w 2 3))
    | 7 => .ok (.vfrsqrt (opnd w 20 6) (opnd w 14 6) (opnd w 5 3) (opnd w 2 3))
    | 8 => .ok (.vfclass (opnd w 20 6) (opnd w 14 6) (opnd w 5 3) (opnd w 2 3))
    | _ => .error .reservedCode
  | 1 => .ok (.vcmpF (opnd w 23 3) (opnd w 20 3) (opnd w 14 6) (opnd w 8 6) (opnd w 5 3) (opnd w 2 3))
  | _ => .error .reservedCode

/-- Major 0x2A of the opcode map (R149). -/
def decodeMajor2A (w : BitVec 32) : Except Reject Instr :=
  match bits w 0 5 with
  | 0 => .ok (.vcmpI (opnd w 23 3) (opnd w 20 3) (opnd w 14 6) (opnd w 8 6) (opnd w 5 3))
  | 1 => .ok (.vcmpN (opnd w 23 3) (opnd w 20 3) (opnd w 14 6) (opnd w 8 6) (opnd w 5 3))
  | 2 => if bits w 11 3 = 0 ∧ bits w 17 3 = 0 ∧ bits w 23 3 = 0 then .ok (.mand (opnd w 20 3) (opnd w 14 3) (opnd w 8 3) (opnd w 5 3)) else .error .nonzeroField
  | 3 => if bits w 11 3 = 0 ∧ bits w 17 3 = 0 ∧ bits w 23 3 = 0 then .ok (.mor (opnd w 20 3) (opnd w 14 3) (opnd w 8 3) (opnd w 5 3)) else .error .nonzeroField
  | 4 => if bits w 11 3 = 0 ∧ bits w 17 3 = 0 ∧ bits w 23 3 = 0 then .ok (.mxor (opnd w 20 3) (opnd w 14 3) (opnd w 8 3) (opnd w 5 3)) else .error .nonzeroField
  | 5 => if bits w 11 3 = 0 ∧ bits w 17 3 = 0 ∧ bits w 23 3 = 0 then .ok (.mandn (opnd w 20 3) (opnd w 14 3) (opnd w 8 3) (opnd w 5 3)) else .error .nonzeroField
  | 6 => if bits w 8 6 = 0 ∧ bits w 17 3 = 0 ∧ bits w 25 1 = 0 then .ok (.mpopc (opnd w 20 5) (opnd w 14 3) (opnd w 5 3)) else .error .nonzeroField
  | 7 => if bits w 8 6 = 0 ∧ bits w 17 3 = 0 ∧ bits w 25 1 = 0 then .ok (.mfirst (opnd w 20 5) (opnd w 14 3) (opnd w 5 3)) else .error .nonzeroField
  | 8 => if bits w 8 12 = 0 ∧ bits w 23 3 = 0 then .ok (.mset (opnd w 20 3) (opnd w 5 3)) else .error .nonzeroField
  | 9 => if bits w 5 3 = 0 ∧ bits w 11 3 = 0 then .ok (.vcompress (opnd w 20 6) (opnd w 14 6) (opnd w 8 3)) else .error .nonzeroField
  | 10 => if bits w 5 3 = 0 ∧ bits w 11 3 = 0 then .ok (.vexpand (opnd w 20 6) (opnd w 14 6) (opnd w 8 3)) else .error .nonzeroField
  | 11 => if bits w 8 6 = 0 ∧ bits w 17 3 = 0 then .ok (.viota (opnd w 20 6) (opnd w 14 3) (opnd w 5 3)) else .error .nonzeroField
  | 12 => if bits w 8 12 = 0 then .ok (.vid (opnd w 20 6) (opnd w 5 3)) else .error .nonzeroField
  | _ => .error .reservedCode

/-- Major 0x2B of the opcode map (R149). -/
noncomputable def decodeMajor2B (w : BitVec 32) : Except Reject Instr :=
  match bits w 0 5 with
  | 0 => .ok (.vgather (opnd w 20 6) (opnd w 14 6) (opnd w 8 6) (opnd w 5 3))
  | 1 => if bits w 13 1 = 0 then .ok (.vslideup (opnd w 20 6) (opnd w 14 6) (opnd w 8 5) (opnd w 5 3)) else .error .nonzeroField
  | 2 => if bits w 13 1 = 0 then .ok (.vslidedown (opnd w 20 6) (opnd w 14 6) (opnd w 8 5) (opnd w 5 3)) else .error .nonzeroField
  | 3 => if bits w 13 7 = 0 then .ok (.vbcast (opnd w 20 6) (opnd w 8 5) (opnd w 5 3)) else .error .nonzeroField
  | 4 => if bits w 5 3 = 0 ∧ bits w 13 1 = 0 ∧ bits w 25 1 = 0 then .ok (.vmvx (opnd w 20 5) (opnd w 14 6) (opnd w 8 5)) else .error .nonzeroField
  | 5 => if bits w 13 7 = 0 then .ok (.vmvs (opnd w 20 6) (opnd w 8 5) (opnd w 5 3)) else .error .nonzeroField
  | 6 => if bits w 8 6 = 0 then .ok (.vmv (opnd w 20 6) (opnd w 14 6) (opnd w 5 3)) else .error .nonzeroField
  | 7 => .ok (.vmerge (opnd w 20 6) (opnd w 14 6) (opnd w 8 6) (opnd w 5 3))
  | _ => .error .reservedCode

/-- Major 0x2C of the opcode map (R149). -/
noncomputable def decodeMajor2C (w : BitVec 32) : Except Reject Instr :=
  match bits w 0 2 with
  | 0 =>
    match bits w 8 6 with
    | 0 => .ok (.vredsumOF (opnd w 20 6) (opnd w 14 6) (opnd w 5 3) (opnd w 2 3))
    | 1 => .ok (.vredsumTF (opnd w 20 6) (opnd w 14 6) (opnd w 5 3) (opnd w 2 3))
    | 2 => .ok (.vredmaxF (opnd w 20 6) (opnd w 14 6) (opnd w 5 3) (opnd w 2 3))
    | 3 => .ok (.vredminF (opnd w 20 6) (opnd w 14 6) (opnd w 5 3) (opnd w 2 3))
    | _ => .error .reservedCode
  | 1 =>
    match bits w 8 6 with
    | 0 => if bits w 2 3 = 0 then .ok (.vredsumOI (opnd w 20 6) (opnd w 14 6) (opnd w 5 3)) else .error .nonzeroField
    | 1 => if bits w 2 3 = 0 then .ok (.vredsumTI (opnd w 20 6) (opnd w 14 6) (opnd w 5 3)) else .error .nonzeroField
    | 2 => if bits w 2 3 = 0 then .ok (.vredmaxI (opnd w 20 6) (opnd w 14 6) (opnd w 5 3)) else .error .nonzeroField
    | 3 => if bits w 2 3 = 0 then .ok (.vredminI (opnd w 20 6) (opnd w 14 6) (opnd w 5 3)) else .error .nonzeroField
    | 4 => if bits w 2 3 = 0 then .ok (.vredandI (opnd w 20 6) (opnd w 14 6) (opnd w 5 3)) else .error .nonzeroField
    | 5 => if bits w 2 3 = 0 then .ok (.vredorI (opnd w 20 6) (opnd w 14 6) (opnd w 5 3)) else .error .nonzeroField
    | 6 => if bits w 2 3 = 0 then .ok (.vredxorI (opnd w 20 6) (opnd w 14 6) (opnd w 5 3)) else .error .nonzeroField
    | _ => .error .reservedCode
  | 2 =>
    match bits w 8 6 with
    | 0 => if bits w 2 3 = 0 then .ok (.vredsumON (opnd w 20 6) (opnd w 14 6) (opnd w 5 3)) else .error .nonzeroField
    | 1 => if bits w 2 3 = 0 then .ok (.vredsumTN (opnd w 20 6) (opnd w 14 6) (opnd w 5 3)) else .error .nonzeroField
    | 2 => if bits w 2 3 = 0 then .ok (.vredmaxN (opnd w 20 6) (opnd w 14 6) (opnd w 5 3)) else .error .nonzeroField
    | 3 => if bits w 2 3 = 0 then .ok (.vredminN (opnd w 20 6) (opnd w 14 6) (opnd w 5 3)) else .error .nonzeroField
    | 4 => if bits w 2 3 = 0 then .ok (.vredandN (opnd w 20 6) (opnd w 14 6) (opnd w 5 3)) else .error .nonzeroField
    | 5 => if bits w 2 3 = 0 then .ok (.vredorN (opnd w 20 6) (opnd w 14 6) (opnd w 5 3)) else .error .nonzeroField
    | 6 => if bits w 2 3 = 0 then .ok (.vredxorN (opnd w 20 6) (opnd w 14 6) (opnd w 5 3)) else .error .nonzeroField
    | _ => .error .reservedCode
  | _ => .error .reservedCode

/-- Major 0x2D of the opcode map (R149). -/
noncomputable def decodeMajor2D (w : BitVec 32) : Except Reject Instr :=
  match bits w 0 6 with
  | 0 => .ok (.vbtr (opnd w 20 6) (opnd w 14 6) (opnd w 9 5) (opnd w 6 3))
  | 1 => .ok (.vbtri (opnd w 20 6) (opnd w 14 6) (opnd w 9 5) (opnd w 6 3))
  | 2 => .ok (.vbadd (opnd w 20 6) (opnd w 14 6) (opnd w 9 5) (opnd w 6 3))
  | 3 => .ok (.vbmac (opnd w 20 6) (opnd w 14 6) (opnd w 9 5) (opnd w 6 3))
  | 4 => .ok (.vbcmp (opnd w 20 6) (opnd w 14 6) (opnd w 9 5) (opnd w 6 3))
  | 5 => .ok (.vbpopc (opnd w 20 6) (opnd w 14 6) (opnd w 9 5) (opnd w 6 3))
  | 6 => .ok (.vbshl (opnd w 20 6) (opnd w 14 6) (opnd w 9 5) (opnd w 6 3))
  | _ => .error .reservedCode

/-- Major 0x2E of the opcode map (R149). -/
noncomputable def decodeMajor2E (w : BitVec 32) : Except Reject Instr :=
  match bits w 2 1 with
  | 0 => .ok (.vbmm (opnd w 20 6) (opnd w 14 6) (opnd w 8 6) (opnd w 5 3) (opnd w 3 2) (opnd w 0 2))
  | 1 => .ok (.vbmv (opnd w 20 6) (opnd w 14 6) (opnd w 8 6) (opnd w 5 3) (opnd w 3 2) (opnd w 0 2))
  | _ => .error .reservedCode

/-- Major 0x2F of the opcode map (R149). -/
noncomputable def decodeMajor2F (w : BitVec 32) : Except Reject Instr :=
  match bits w 0 3 with
  | 0 => if bits w 9 6 = 0 then .ok (.vld (opnd w 20 6) (opnd w 15 5) (opnd w 6 3) (opnd w 3 3)) else .error .nonzeroField
  | 1 => if bits w 14 1 = 0 then .ok (.vlds (opnd w 20 6) (opnd w 15 5) (opnd w 9 5) (opnd w 6 3) (opnd w 3 3)) else .error .nonzeroField
  | 2 => .ok (.vldx (opnd w 20 6) (opnd w 15 5) (opnd w 9 6) (opnd w 6 3) (opnd w 3 3))
  | 3 => if bits w 9 6 = 0 then .ok (.vldff (opnd w 20 6) (opnd w 15 5) (opnd w 6 3) (opnd w 3 3)) else .error .nonzeroField
  | 4 => if bits w 3 3 = 4 ∧ bits w 14 1 = 0 then .ok (.vldp (opnd w 20 6) (opnd w 15 5) (opnd w 9 5) (opnd w 6 3)) else .error .nonzeroField
  | _ => .error .reservedCode

/-- Major 0x30 of the opcode map (R149). -/
noncomputable def decodeMajor30 (w : BitVec 32) : Except Reject Instr :=
  match bits w 0 3 with
  | 0 => if bits w 9 6 = 0 then .ok (.vst (opnd w 20 6) (opnd w 15 5) (opnd w 6 3) (opnd w 3 3)) else .error .nonzeroField
  | 1 => if bits w 14 1 = 0 then .ok (.vsts (opnd w 20 6) (opnd w 15 5) (opnd w 9 5) (opnd w 6 3) (opnd w 3 3)) else .error .nonzeroField
  | 2 => .ok (.vstx (opnd w 20 6) (opnd w 15 5) (opnd w 9 6) (opnd w 6 3) (opnd w 3 3))
  | 3 => .ok (.vstxu (opnd w 20 6) (opnd w 15 5) (opnd w 9 6) (opnd w 6 3) (opnd w 3 3))
  | 4 => if bits w 9 6 = 0 then .ok (.vstu (opnd w 20 6) (opnd w 15 5) (opnd w 6 3) (opnd w 3 3)) else .error .nonzeroField
  | 5 => if bits w 3 3 = 4 ∧ bits w 14 1 = 0 then .ok (.vstp (opnd w 20 6) (opnd w 15 5) (opnd w 9 5) (opnd w 6 3)) else .error .nonzeroField
  | _ => .error .reservedCode

/-- Major 0x31 of the opcode map (R149). -/
noncomputable def decodeMajor31 (w : BitVec 32) : Except Reject Instr :=
  match bits w 0 3 with
  | 0 => if bits w 3 12 = 0 then .ok (.vspill (opnd w 20 6) (opnd w 15 5)) else .error .nonzeroField
  | 1 => if bits w 3 12 = 0 then .ok (.vfill (opnd w 20 6) (opnd w 15 5)) else .error .nonzeroField
  | _ => .error .reservedCode

/-- Major 0x34 of the opcode map (R149). -/
noncomputable def decodeMajor34 (w : BitVec 32) : Except Reject Instr :=
  match bits w 0 3 with
  | 0 => if bits w 4 1 = 1 then .ok (.vamoAdd (opnd w 20 6) (opnd w 15 5) (opnd w 9 6) (opnd w 6 3) (opnd w 5 1) (opnd w 3 1)) else .error .nonzeroField
  | 1 => if bits w 4 1 = 1 then .ok (.vamoFadd (opnd w 20 6) (opnd w 15 5) (opnd w 9 6) (opnd w 6 3) (opnd w 5 1) (opnd w 3 1)) else .error .nonzeroField
  | 2 => if bits w 4 1 = 1 then .ok (.vamoMin (opnd w 20 6) (opnd w 15 5) (opnd w 9 6) (opnd w 6 3) (opnd w 5 1) (opnd w 3 1)) else .error .nonzeroField
  | 3 => if bits w 4 1 = 1 then .ok (.vamoMax (opnd w 20 6) (opnd w 15 5) (opnd w 9 6) (opnd w 6 3) (opnd w 5 1) (opnd w 3 1)) else .error .nonzeroField
  | 4 => if bits w 4 1 = 1 then .ok (.vamoAnd (opnd w 20 6) (opnd w 15 5) (opnd w 9 6) (opnd w 6 3) (opnd w 5 1) (opnd w 3 1)) else .error .nonzeroField
  | 5 => if bits w 4 1 = 1 then .ok (.vamoOr (opnd w 20 6) (opnd w 15 5) (opnd w 9 6) (opnd w 6 3) (opnd w 5 1) (opnd w 3 1)) else .error .nonzeroField
  | 6 => if bits w 4 1 = 1 then .ok (.vamoXor (opnd w 20 6) (opnd w 15 5) (opnd w 9 6) (opnd w 6 3) (opnd w 5 1) (opnd w 3 1)) else .error .nonzeroField
  | 7 => if bits w 4 1 = 1 then .ok (.vamoSwap (opnd w 20 6) (opnd w 15 5) (opnd w 9 6) (opnd w 6 3) (opnd w 5 1) (opnd w 3 1)) else .error .nonzeroField
  | _ => .error .reservedCode

/-- Major 0x35 of the opcode map (R149). -/
noncomputable def decodeMajor35 (w : BitVec 32) : Except Reject Instr :=
  match bits w 0 6 with
  | 0 => .ok (.mmac (opnd w 24 2) (opnd w 18 6) (opnd w 12 6) (opnd w 9 3) (opnd w 6 3))
  | 1 => .ok (.mmacs (opnd w 24 2) (opnd w 18 6) (opnd w 12 6) (opnd w 9 3) (opnd w 6 3))
  | 2 => if bits w 6 3 = 0 ∧ bits w 12 12 = 0 then .ok (.mzero (opnd w 24 2) (opnd w 9 3)) else .error .nonzeroField
  | 3 => if bits w 6 3 = 0 ∧ bits w 12 6 = 0 ∧ bits w 23 1 = 0 then .ok (.mst (opnd w 24 2) (opnd w 18 5) (opnd w 9 3)) else .error .nonzeroField
  | 4 => if bits w 6 3 = 0 ∧ bits w 12 6 = 0 ∧ bits w 23 1 = 0 then .ok (.mld (opnd w 24 2) (opnd w 18 5) (opnd w 9 3)) else .error .nonzeroField
  | 8 => if bits w 6 20 = 0 then .ok .mattach else .error .nonzeroField
  | 9 => if bits w 6 20 = 0 then .ok .mdetach else .error .nonzeroField
  | _ => .error .reservedCode

/-- Major 0x36 of the opcode map (R149). -/
noncomputable def decodeMajor36 (w : BitVec 32) : Except Reject Instr :=
  match bits w 0 1 with
  | 0 => .ok (.fop (opnd w 22 4) (opnd w 16 6) (opnd w 10 6) (opnd w 4 6) (opnd w 1 3))
  | 1 => .ok (.fopC (opnd w 22 4) (opnd w 16 6) (opnd w 10 6) (opnd w 4 6) (opnd w 1 3))
  | _ => .error .reservedCode

/-- Major 0x37 of the opcode map (R149). -/
noncomputable def decodeMajor37 (w : BitVec 32) : Except Reject Instr :=
  match bits w 0 4 with
  | 0 => if bits w 8 8 = 0 then .ok (.fbind (opnd w 21 5) (opnd w 16 5) (opnd w 4 4)) else .error .nonzeroField
  | 1 => if bits w 8 18 = 0 then .ok (.funbind (opnd w 4 4)) else .error .nonzeroField
  | 2 => if bits w 8 18 = 0 then .ok (.fdrain (opnd w 4 4)) else .error .nonzeroField
  | _ => .error .reservedCode

/-- The word's fields, before the checks on field values. -/
noncomputable def decodeFields (w : BitVec 32) : Except Reject Instr :=
  match bits w 26 6 with
  | 0 => decodeMajor00 w
  | 1 => decodeMajor01 w
  | 2 => decodeMajor02 w
  | 3 => decodeMajor03 w
  | 4 => decodeMajor04 w
  | 5 => decodeMajor05 w
  | 6 => decodeMajor06 w
  | 7 => decodeMajor07 w
  | 8 => decodeMajor08 w
  | 9 => decodeMajor09 w
  | 10 => decodeMajor0A w
  | 11 => decodeMajor0B w
  | 12 => decodeMajor0C w
  | 13 => decodeMajor0D w
  | 14 => decodeMajor0E w
  | 15 => decodeMajor0F w
  | 16 => decodeMajor10 w
  | 17 => decodeMajor11 w
  | 19 => decodeMajor13 w
  | 20 => decodeMajor14 w
  | 21 => decodeMajor15 w
  | 22 => decodeMajor16 w
  | 23 => decodeMajor17 w
  | 24 => decodeMajor18 w
  | 25 => decodeMajor19 w
  | 26 => decodeMajor1A w
  | 27 => decodeMajor1B w
  | 28 => decodeMajor1C w
  | 29 => decodeMajor1D w
  | 30 => decodeMajor1E w
  | 31 => decodeMajor1F w
  | 32 => decodeMajor20 w
  | 33 => decodeMajor21 w
  | 34 => decodeMajor22 w
  | 35 => decodeMajor23 w
  | 36 => decodeMajor24 w
  | 37 => decodeMajor25 w
  | 38 => decodeMajor26 w
  | 39 => decodeMajor27 w
  | 40 => decodeMajor28 w
  | 41 => decodeMajor29 w
  | 42 => decodeMajor2A w
  | 43 => decodeMajor2B w
  | 44 => decodeMajor2C w
  | 45 => decodeMajor2D w
  | 46 => decodeMajor2E w
  | 47 => decodeMajor2F w
  | 48 => decodeMajor30 w
  | 49 => decodeMajor31 w
  | 52 => decodeMajor34 w
  | 53 => decodeMajor35 w
  | 54 => decodeMajor36 w
  | 55 => decodeMajor37 w
  | _ => .error .reservedMajor

/-- A word to its instruction (R148, R149). -/
noncomputable def decode (w : BitVec 32) : Except Reject Instr :=
  match decodeFields w with
  | .ok i => if i.wf then .ok i else .error .reservedValue
  | .error e => .error e

/-- The words of major 0x00 that are instructions. -/
def legalMajor00 (w : BitVec 32) : Bool :=
  match bits w 0 7 with
  | 0 | 2 | 3 | 4 | 5 => decide (bits w 7 19 = 0)
  | 1 => decide (bits w 7 4 = 0 ∧ bits w 16 10 = 0)
  | 6 => decide (bits w 21 5 = 0 ∧ bits w 7 4 ≤ 10)
  | 7 => decide (bits w 7 9 = 0 ∧ bits w 21 5 = 0)
  | _ => false

/-- The words of major 0x01 that are instructions. -/
def legalMajor01 (w : BitVec 32) : Bool :=
  match bits w 0 11 with
  | 0 | 1 | 2 | 3 | 4 | 5 | 6 | 7 | 8 | 9 | 10 | 11 | 12 | 13 | 14 => true
  | _ => false

/-- The words of major 0x02 that are instructions. -/
def legalMajor02 (w : BitVec 32) : Bool :=
  match bits w 0 11 with
  | 0 | 1 | 2 | 3 | 4 | 5 | 6 => true
  | _ => false

/-- The words of major 0x03 that are instructions. -/
def legalMajor03 (w : BitVec 32) : Bool :=
  match bits w 0 11 with
  | 0 | 1 | 2 | 3 => decide (bits w 11 5 = 0)
  | _ => false

/-- The words of major 0x0A that are instructions. -/
def legalMajor0A (w : BitVec 32) : Bool :=
  match bits w 6 2 with
  | 0 | 1 | 2 => decide (bits w 8 8 = 0)
  | _ => false

/-- The words of major 0x0B that are instructions. -/
def legalMajor0B (w : BitVec 32) : Bool :=
  match bits w 20 1 with
  | 0 | 1 => true
  | _ => false

/-- The words of major 0x0C that are instructions. -/
def legalMajor0C (w : BitVec 32) : Bool :=
  match bits w 13 3 with
  | 0 | 1 | 2 | 3 | 4 | 5 | 6 => true
  | _ => false

/-- The words of major 0x0D that are instructions. -/
def legalMajor0D (w : BitVec 32) : Bool :=
  match bits w 13 3 with
  | 0 | 1 | 2 | 3 | 4 | 5 | 6 => true
  | _ => false

/-- The words of major 0x0E that are instructions. -/
def legalMajor0E (w : BitVec 32) : Bool :=
  match bits w 13 3 with
  | 0 | 1 | 2 | 3 => true
  | _ => false

/-- The words of major 0x0F that are instructions. -/
def legalMajor0F (w : BitVec 32) : Bool :=
  match bits w 13 3 with
  | 0 | 1 | 2 | 3 => true
  | _ => false

/-- The words of major 0x10 that are instructions. -/
def legalMajor10 (w : BitVec 32) : Bool :=
  match bits w 0 3 with
  | 0 | 1 | 2 | 3 | 4 | 5 | 6 => decide (bits w 4 7 = 0)
  | _ => false

/-- The words of major 0x11 that are instructions. -/
def legalMajor11 (w : BitVec 32) : Bool :=
  match bits w 0 3 with
  | 0 | 1 | 2 | 3 => decide (bits w 4 7 = 0)
  | _ => false

/-- The words of major 0x13 that are instructions. -/
def legalMajor13 (w : BitVec 32) : Bool :=
  match bits w 0 3 with
  | 0 | 1 | 2 | 3 | 4 | 5 | 6 | 7 => decide (bits w 6 1 = 0 ∧ bits w 7 4 ≤ 10)
  | _ => false

/-- The words of major 0x1C that are instructions. -/
def legalMajor1C (w : BitVec 32) : Bool :=
  match bits w 21 5 with
  | 0 | 1 => decide (bits w 16 5 = 0)
  | _ => false

/-- The words of major 0x1D that are instructions. -/
def legalMajor1D (w : BitVec 32) : Bool :=
  match bits w 14 2 with
  | 0 => decide (bits w 12 2 = 0 ∧ bits w 16 5 = 0 ∧ ctlListed (bits w 0 12) = true)
  | 1 | 2 | 3 => decide (bits w 12 2 = 0 ∧ bits w 21 5 = 0 ∧ ctlListed (bits w 0 12) = true)
  | _ => false

/-- The words of major 0x1E that are instructions. -/
def legalMajor1E (w : BitVec 32) : Bool :=
  match bits w 8 3 with
  | 0 | 2 => decide (bits w 0 8 = 0)
  | 1 => decide (bits w 5 3 = 0 ∧ bits w 11 5 = 0)
  | 4 => decide (bits w 2 6 = 0 ∧ bits w 11 15 = 0)
  | 5 => decide (bits w 16 10 = 0 ∧ 1 ≤ bits w 11 5 ∧ bits w 11 5 ≤ 7)
  | _ => false

/-- The words of major 0x1F that are instructions. -/
def legalMajor1F (w : BitVec 32) : Bool :=
  match bits w 0 7 with
  | 0 | 8 | 9 | 21 => decide (bits w 7 4 = 0)
  | 1 | 2 | 4 | 10 | 20 => decide (bits w 7 9 = 0)
  | 3 | 18 => decide (bits w 7 19 = 0)
  | 16 => decide (bits w 16 10 = 0 ∧ bits w 11 5 ≠ 0 ∧ bits w 7 4 ≤ 10)
  | 17 => decide (bits w 7 4 = 0 ∧ bits w 16 10 = 0 ∧ bits w 11 5 ≤ 4)
  | 19 => decide (bits w 7 14 = 0)
  | 22 => decide (bits w 7 4 ≤ 10)
  | _ => false

/-- The words of major 0x20 that are instructions. -/
def legalMajor20 (w : BitVec 32) : Bool :=
  match bits w 0 3 with
  | 0 | 2 => decide (bits w 6 5 = 0)
  | 1 | 3 => decide (bits w 5 6 = 0)
  | 4 => decide (bits w 3 13 = 0)
  | _ => false

/-- The words of major 0x21 that are instructions. -/
def legalMajor21 (w : BitVec 32) : Bool :=
  match bits w 0 3 with
  | 0 | 1 | 2 => decide (bits w 7 9 = 0 ∧ bits w 3 4 ≤ 12)
  | 3 | 4 => decide (bits w 3 13 = 0)
  | _ => false

/-- The words of major 0x22 that are instructions. -/
def legalMajor22 (w : BitVec 32) : Bool :=
  match bits w 0 5 with
  | 0 | 1 | 2 | 3 | 4 | 5 | 6 | 7 | 8 | 9 | 10 | 11 | 12 | 13 | 14 | 15 | 16 | 17 | 18 | 19 | 20 | 21 | 22 | 23 | 24 | 25 | 26 | 27 | 28 | 29 => true
  | _ => false

/-- The words of major 0x23 that are instructions. -/
def legalMajor23 (w : BitVec 32) : Bool :=
  match bits w 0 6 with
  | 0 | 1 | 2 | 3 | 4 | 5 | 6 | 7 | 8 | 9 | 10 | 11 | 12 | 13 | 14 | 15 | 16 | 17 | 18 | 19 | 20 | 21 | 22 | 23 | 24 | 25 | 26 | 27 | 28 | 29 => true
  | _ => false

/-- The words of major 0x24 that are instructions. -/
def legalMajor24 (w : BitVec 32) : Bool :=
  match bits w 0 3 with
  | 0 | 1 | 2 | 3 | 4 => true
  | 5 | 6 | 7 => decide (bits w 12 2 = 0)
  | _ => false

/-- The words of major 0x25 that are instructions. -/
def legalMajor25 (w : BitVec 32) : Bool :=
  match bits w 0 3 with
  | 0 | 1 | 2 | 3 | 4 | 5 => true
  | 6 | 7 => decide (bits w 12 2 = 0)
  | _ => false

/-- The words of major 0x26 that are instructions. -/
def legalMajor26 (w : BitVec 32) : Bool :=
  match bits w 0 2 with
  | 0 | 1 | 2 | 3 => true
  | _ => false

/-- The words of major 0x27 that are instructions. -/
def legalMajor27 (w : BitVec 32) : Bool :=
  match bits w 0 2 with
  | 0 | 1 | 2 | 3 => true
  | _ => false

/-- The words of major 0x28 that are instructions. -/
def legalMajor28 (w : BitVec 32) : Bool :=
  match bits w 0 2 with
  | 0 | 1 | 2 | 3 => true
  | _ => false

/-- The words of major 0x29 that are instructions. -/
def legalMajor29 (w : BitVec 32) : Bool :=
  match bits w 0 2 with
  | 0 =>
    match bits w 8 6 with
    | 0 | 1 | 2 | 3 | 4 | 5 | 6 | 7 | 8 => true
    | _ => false
  | 1 => decide (bits w 23 3 ≤ 5)
  | _ => false

/-- The words of major 0x2A that are instructions. -/
def legalMajor2A (w : BitVec 32) : Bool :=
  match bits w 0 5 with
  | 0 | 1 => decide (bits w 23 3 ≤ 5)
  | 2 | 3 | 4 | 5 => decide (bits w 11 3 = 0 ∧ bits w 17 3 = 0 ∧ bits w 23 3 = 0)
  | 6 | 7 => decide (bits w 8 6 = 0 ∧ bits w 17 3 = 0 ∧ bits w 25 1 = 0)
  | 8 => decide (bits w 8 12 = 0 ∧ bits w 23 3 = 0)
  | 9 | 10 => decide (bits w 5 3 = 0 ∧ bits w 11 3 = 0)
  | 11 => decide (bits w 8 6 = 0 ∧ bits w 17 3 = 0)
  | 12 => decide (bits w 8 12 = 0)
  | _ => false

/-- The words of major 0x2B that are instructions. -/
def legalMajor2B (w : BitVec 32) : Bool :=
  match bits w 0 5 with
  | 0 | 7 => true
  | 1 | 2 => decide (bits w 13 1 = 0)
  | 3 | 5 => decide (bits w 13 7 = 0)
  | 4 => decide (bits w 5 3 = 0 ∧ bits w 13 1 = 0 ∧ bits w 25 1 = 0)
  | 6 => decide (bits w 8 6 = 0)
  | _ => false

/-- The words of major 0x2C that are instructions. -/
def legalMajor2C (w : BitVec 32) : Bool :=
  match bits w 0 2 with
  | 0 =>
    match bits w 8 6 with
    | 0 | 1 | 2 | 3 => true
    | _ => false
  | 1 =>
    match bits w 8 6 with
    | 0 | 1 | 2 | 3 | 4 | 5 | 6 => decide (bits w 2 3 = 0)
    | _ => false
  | 2 =>
    match bits w 8 6 with
    | 0 | 1 | 2 | 3 | 4 | 5 | 6 => decide (bits w 2 3 = 0)
    | _ => false
  | _ => false

/-- The words of major 0x2D that are instructions. -/
def legalMajor2D (w : BitVec 32) : Bool :=
  match bits w 0 6 with
  | 0 | 1 | 2 | 3 | 4 | 5 | 6 => true
  | _ => false

/-- The words of major 0x2E that are instructions. -/
def legalMajor2E (w : BitVec 32) : Bool :=
  match bits w 2 1 with
  | 0 | 1 => decide (bits w 3 2 ≠ 3)
  | _ => false

/-- The words of major 0x2F that are instructions. -/
def legalMajor2F (w : BitVec 32) : Bool :=
  match bits w 0 3 with
  | 0 | 3 => decide (bits w 9 6 = 0 ∧ (bits w 3 3 ≤ 3 ∨ bits w 3 3 = 7))
  | 1 => decide (bits w 14 1 = 0 ∧ (bits w 3 3 ≤ 3 ∨ bits w 3 3 = 7))
  | 2 => decide (bits w 3 3 ≤ 3 ∨ bits w 3 3 = 7)
  | 4 => decide (bits w 3 3 = 4 ∧ bits w 14 1 = 0)
  | _ => false

/-- The words of major 0x30 that are instructions. -/
def legalMajor30 (w : BitVec 32) : Bool :=
  match bits w 0 3 with
  | 0 | 4 => decide (bits w 9 6 = 0 ∧ (bits w 3 3 ≤ 3 ∨ bits w 3 3 = 7))
  | 1 => decide (bits w 14 1 = 0 ∧ (bits w 3 3 ≤ 3 ∨ bits w 3 3 = 7))
  | 2 | 3 => decide (bits w 3 3 ≤ 3 ∨ bits w 3 3 = 7)
  | 5 => decide (bits w 3 3 = 4 ∧ bits w 14 1 = 0)
  | _ => false

/-- The words of major 0x31 that are instructions. -/
def legalMajor31 (w : BitVec 32) : Bool :=
  match bits w 0 3 with
  | 0 | 1 => decide (bits w 3 12 = 0)
  | _ => false

/-- The words of major 0x34 that are instructions. -/
def legalMajor34 (w : BitVec 32) : Bool :=
  match bits w 0 3 with
  | 0 | 1 | 2 | 3 | 4 | 5 | 6 | 7 => decide (bits w 4 1 = 1)
  | _ => false

/-- The words of major 0x35 that are instructions. -/
def legalMajor35 (w : BitVec 32) : Bool :=
  match bits w 0 6 with
  | 0 => decide (bits w 12 6 % 8 = 0)
  | 1 => decide (bits w 12 6 % 8 = 0 ∧ bits w 9 3 ≠ 0)
  | 2 => decide (bits w 6 3 = 0 ∧ bits w 12 12 = 0)
  | 3 | 4 => decide (bits w 6 3 = 0 ∧ bits w 12 6 = 0 ∧ bits w 23 1 = 0)
  | 8 | 9 => decide (bits w 6 20 = 0)
  | _ => false

/-- The words of major 0x36 that are instructions. -/
def legalMajor36 (w : BitVec 32) : Bool :=
  match bits w 0 1 with
  | 0 | 1 => true
  | _ => false

/-- The words of major 0x37 that are instructions. -/
def legalMajor37 (w : BitVec 32) : Bool :=
  match bits w 0 4 with
  | 0 => decide (bits w 8 8 = 0)
  | 1 | 2 => decide (bits w 8 18 = 0)
  | _ => false

/-- The word is an instruction: what `decode` accepts, told without building the instruction. -/
def legal (w : BitVec 32) : Bool :=
  match bits w 26 6 with
  | 0 => legalMajor00 w
  | 1 => legalMajor01 w
  | 2 => legalMajor02 w
  | 3 => legalMajor03 w
  | 4 => true
  | 5 => true
  | 6 => true
  | 7 => true
  | 8 => true
  | 9 => true
  | 10 => legalMajor0A w
  | 11 => legalMajor0B w
  | 12 => legalMajor0C w
  | 13 => legalMajor0D w
  | 14 => legalMajor0E w
  | 15 => legalMajor0F w
  | 16 => legalMajor10 w
  | 17 => legalMajor11 w
  | 19 => legalMajor13 w
  | 20 => true
  | 21 => true
  | 22 => true
  | 23 => true
  | 24 => true
  | 25 => true
  | 26 => true
  | 27 => true
  | 28 => legalMajor1C w
  | 29 => legalMajor1D w
  | 30 => legalMajor1E w
  | 31 => legalMajor1F w
  | 32 => legalMajor20 w
  | 33 => legalMajor21 w
  | 34 => legalMajor22 w
  | 35 => legalMajor23 w
  | 36 => legalMajor24 w
  | 37 => legalMajor25 w
  | 38 => legalMajor26 w
  | 39 => legalMajor27 w
  | 40 => legalMajor28 w
  | 41 => legalMajor29 w
  | 42 => legalMajor2A w
  | 43 => legalMajor2B w
  | 44 => legalMajor2C w
  | 45 => legalMajor2D w
  | 46 => legalMajor2E w
  | 47 => legalMajor2F w
  | 48 => legalMajor30 w
  | 49 => legalMajor31 w
  | 52 => legalMajor34 w
  | 53 => legalMajor35 w
  | 54 => legalMajor36 w
  | 55 => legalMajor37 w
  | _ => false

/-- Little-endian bytes of an instruction word to the word (R146). -/
def wordOfBytes : List Byte → Option (BitVec 32)
  | b0 :: b1 :: b2 :: b3 :: _ =>
      some (BitVec.ofNat 32 (b0.toNat + b1.toNat * 256 + b2.toNat * 65536 + b3.toNat * 16777216))
  | _ => none

/-- An instruction from the front of a list of bytes, with the bytes after it. -/
noncomputable def decodeBytes (bs : List Byte) : Except Reject (Instr × List Byte) :=
  match wordOfBytes bs with
  | none => .error .shortInput
  | some w =>
    match decode w with
    | .ok i => .ok (i, bs.drop 4)
    | .error e => .error e

/-- The bytes of a word as memory holds it (R146). -/
def bytesOfWord (w : BitVec 32) : List Byte :=
  [BitVec.ofNat 8 w.toNat, BitVec.ofNat 8 (w.toNat / 256), BitVec.ofNat 8 (w.toNat / 65536),
    BitVec.ofNat 8 (w.toNat / 16777216)]

/-- The instruction that the decoder reads from a table word: every row of spec/opcode_table.json is one 32-bit word. -/
noncomputable def decodeTableWord (nbits w : Nat) : Option Instr :=
  match decodeBytes (bytesOfWord (BitVec.ofNat 32 (w % 2 ^ nbits))) with
  | .ok (i, _) => some i
  | .error _ => none

/-- The word of an instruction as a number, written from the formats of R146 and the codes of R149; the steps of the
device have none. -/
def encodeNat : Instr → Option Nat
  | .nop => some 0x00000000
  | .trap b => some (0x00000001 + b.toNat * 2048)
  | .eret => some 0x00000002
  | .wait => some 0x00000003
  | .brk => some 0x00000004
  | .fenceI => some 0x00000005
  | .tlbInv a b c => some (0x00000006 + a.toNat * 65536 + b.toNat * 2048 + c.toNat * 128)
  | .l1Inv a => some (0x00000007 + a.toNat * 65536)
  | .add d a b => some (0x04000000 + d.toNat * 2097152 + a.toNat * 65536 + b.toNat * 2048)
  | .sub d a b => some (0x04000001 + d.toNat * 2097152 + a.toNat * 65536 + b.toNat * 2048)
  | .and d a b => some (0x04000002 + d.toNat * 2097152 + a.toNat * 65536 + b.toNat * 2048)
  | .or d a b => some (0x04000003 + d.toNat * 2097152 + a.toNat * 65536 + b.toNat * 2048)
  | .xor d a b => some (0x04000004 + d.toNat * 2097152 + a.toNat * 65536 + b.toNat * 2048)
  | .sll d a b => some (0x04000005 + d.toNat * 2097152 + a.toNat * 65536 + b.toNat * 2048)
  | .srl d a b => some (0x04000006 + d.toNat * 2097152 + a.toNat * 65536 + b.toNat * 2048)
  | .sra d a b => some (0x04000007 + d.toNat * 2097152 + a.toNat * 65536 + b.toNat * 2048)
  | .min d a b => some (0x04000008 + d.toNat * 2097152 + a.toNat * 65536 + b.toNat * 2048)
  | .max d a b => some (0x04000009 + d.toNat * 2097152 + a.toNat * 65536 + b.toNat * 2048)
  | .minn d a b => some (0x0400000A + d.toNat * 2097152 + a.toNat * 65536 + b.toNat * 2048)
  | .maxn d a b => some (0x0400000B + d.toNat * 2097152 + a.toNat * 65536 + b.toNat * 2048)
  | .slt d a b => some (0x0400000C + d.toNat * 2097152 + a.toNat * 65536 + b.toNat * 2048)
  | .sltn d a b => some (0x0400000D + d.toNat * 2097152 + a.toNat * 65536 + b.toNat * 2048)
  | .sel d a b => some (0x0400000E + d.toNat * 2097152 + a.toNat * 65536 + b.toNat * 2048)
  | .mul d a b => some (0x08000000 + d.toNat * 2097152 + a.toNat * 65536 + b.toNat * 2048)
  | .mulh d a b => some (0x08000001 + d.toNat * 2097152 + a.toNat * 65536 + b.toNat * 2048)
  | .mulhn d a b => some (0x08000002 + d.toNat * 2097152 + a.toNat * 65536 + b.toNat * 2048)
  | .div d a b => some (0x08000003 + d.toNat * 2097152 + a.toNat * 65536 + b.toNat * 2048)
  | .divn d a b => some (0x08000004 + d.toNat * 2097152 + a.toNat * 65536 + b.toNat * 2048)
  | .rem d a b => some (0x08000005 + d.toNat * 2097152 + a.toNat * 65536 + b.toNat * 2048)
  | .remn d a b => some (0x08000006 + d.toNat * 2097152 + a.toNat * 65536 + b.toNat * 2048)
  | .clz d a => some (0x0C000000 + d.toNat * 2097152 + a.toNat * 65536)
  | .ctz d a => some (0x0C000001 + d.toNat * 2097152 + a.toNat * 65536)
  | .popc d a => some (0x0C000002 + d.toNat * 2097152 + a.toNat * 65536)
  | .bswap d a => some (0x0C000003 + d.toNat * 2097152 + a.toNat * 65536)
  | .addi d a i => some (0x10000000 + d.toNat * 2097152 + a.toNat * 65536 + i.toNat)
  | .andi d a i => some (0x14000000 + d.toNat * 2097152 + a.toNat * 65536 + i.toNat)
  | .ori d a i => some (0x18000000 + d.toNat * 2097152 + a.toNat * 65536 + i.toNat)
  | .xori d a i => some (0x1C000000 + d.toNat * 2097152 + a.toNat * 65536 + i.toNat)
  | .slti d a i => some (0x20000000 + d.toNat * 2097152 + a.toNat * 65536 + i.toNat)
  | .sltni d a i => some (0x24000000 + d.toNat * 2097152 + a.toNat * 65536 + i.toNat)
  | .slli d a h => some (0x28000000 + d.toNat * 2097152 + a.toNat * 65536 + h.toNat)
  | .srli d a h => some (0x28000040 + d.toNat * 2097152 + a.toNat * 65536 + h.toNat)
  | .srai d a h => some (0x28000080 + d.toNat * 2097152 + a.toNat * 65536 + h.toNat)
  | .ldhi d i => some (0x2C000000 + d.toNat * 2097152 + i.toNat)
  | .adrc d o => some (0x2C100000 + d.toNat * 2097152 + o.toNat)
  | .ldB d a o => some (0x30000000 + d.toNat * 2097152 + a.toNat * 65536 + o.toNat)
  | .ldH d a o => some (0x30002000 + d.toNat * 2097152 + a.toNat * 65536 + o.toNat)
  | .ldW d a o => some (0x30004000 + d.toNat * 2097152 + a.toNat * 65536 + o.toNat)
  | .ldD d a o => some (0x30006000 + d.toNat * 2097152 + a.toNat * 65536 + o.toNat)
  | .ldBn d a o => some (0x30008000 + d.toNat * 2097152 + a.toNat * 65536 + o.toNat)
  | .ldHn d a o => some (0x3000A000 + d.toNat * 2097152 + a.toNat * 65536 + o.toNat)
  | .ldWn d a o => some (0x3000C000 + d.toNat * 2097152 + a.toNat * 65536 + o.toNat)
  | .ldBAq d a o => some (0x34000000 + d.toNat * 2097152 + a.toNat * 65536 + o.toNat)
  | .ldHAq d a o => some (0x34002000 + d.toNat * 2097152 + a.toNat * 65536 + o.toNat)
  | .ldWAq d a o => some (0x34004000 + d.toNat * 2097152 + a.toNat * 65536 + o.toNat)
  | .ldDAq d a o => some (0x34006000 + d.toNat * 2097152 + a.toNat * 65536 + o.toNat)
  | .ldBnAq d a o => some (0x34008000 + d.toNat * 2097152 + a.toNat * 65536 + o.toNat)
  | .ldHnAq d a o => some (0x3400A000 + d.toNat * 2097152 + a.toNat * 65536 + o.toNat)
  | .ldWnAq d a o => some (0x3400C000 + d.toNat * 2097152 + a.toNat * 65536 + o.toNat)
  | .ldBX d a b q => some (0x40000000 + d.toNat * 2097152 + a.toNat * 65536 + b.toNat * 2048 + q.toNat * 8)
  | .ldHX d a b q => some (0x40000001 + d.toNat * 2097152 + a.toNat * 65536 + b.toNat * 2048 + q.toNat * 8)
  | .ldWX d a b q => some (0x40000002 + d.toNat * 2097152 + a.toNat * 65536 + b.toNat * 2048 + q.toNat * 8)
  | .ldDX d a b q => some (0x40000003 + d.toNat * 2097152 + a.toNat * 65536 + b.toNat * 2048 + q.toNat * 8)
  | .ldBnX d a b q => some (0x40000004 + d.toNat * 2097152 + a.toNat * 65536 + b.toNat * 2048 + q.toNat * 8)
  | .ldHnX d a b q => some (0x40000005 + d.toNat * 2097152 + a.toNat * 65536 + b.toNat * 2048 + q.toNat * 8)
  | .ldWnX d a b q => some (0x40000006 + d.toNat * 2097152 + a.toNat * 65536 + b.toNat * 2048 + q.toNat * 8)
  | .stB d a o => some (0x38000000 + d.toNat * 2097152 + a.toNat * 65536 + o.toNat)
  | .stH d a o => some (0x38002000 + d.toNat * 2097152 + a.toNat * 65536 + o.toNat)
  | .stW d a o => some (0x38004000 + d.toNat * 2097152 + a.toNat * 65536 + o.toNat)
  | .stD d a o => some (0x38006000 + d.toNat * 2097152 + a.toNat * 65536 + o.toNat)
  | .stBRl d a o => some (0x3C000000 + d.toNat * 2097152 + a.toNat * 65536 + o.toNat)
  | .stHRl d a o => some (0x3C002000 + d.toNat * 2097152 + a.toNat * 65536 + o.toNat)
  | .stWRl d a o => some (0x3C004000 + d.toNat * 2097152 + a.toNat * 65536 + o.toNat)
  | .stDRl d a o => some (0x3C006000 + d.toNat * 2097152 + a.toNat * 65536 + o.toNat)
  | .stBX d a b q => some (0x44000000 + d.toNat * 2097152 + a.toNat * 65536 + b.toNat * 2048 + q.toNat * 8)
  | .stHX d a b q => some (0x44000001 + d.toNat * 2097152 + a.toNat * 65536 + b.toNat * 2048 + q.toNat * 8)
  | .stWX d a b q => some (0x44000002 + d.toNat * 2097152 + a.toNat * 65536 + b.toNat * 2048 + q.toNat * 8)
  | .stDX d a b q => some (0x44000003 + d.toNat * 2097152 + a.toNat * 65536 + b.toNat * 2048 + q.toNat * 8)
  | .amoAdd d a b c o w => some (0x4C000000 + d.toNat * 2097152 + a.toNat * 65536 + b.toNat * 2048 + c.toNat * 128 + o.toNat * 16 + w.toNat * 8)
  | .amoAnd d a b c o w => some (0x4C000001 + d.toNat * 2097152 + a.toNat * 65536 + b.toNat * 2048 + c.toNat * 128 + o.toNat * 16 + w.toNat * 8)
  | .amoOr d a b c o w => some (0x4C000002 + d.toNat * 2097152 + a.toNat * 65536 + b.toNat * 2048 + c.toNat * 128 + o.toNat * 16 + w.toNat * 8)
  | .amoXor d a b c o w => some (0x4C000003 + d.toNat * 2097152 + a.toNat * 65536 + b.toNat * 2048 + c.toNat * 128 + o.toNat * 16 + w.toNat * 8)
  | .amoSwap d a b c o w => some (0x4C000004 + d.toNat * 2097152 + a.toNat * 65536 + b.toNat * 2048 + c.toNat * 128 + o.toNat * 16 + w.toNat * 8)
  | .amoMin d a b c o w => some (0x4C000005 + d.toNat * 2097152 + a.toNat * 65536 + b.toNat * 2048 + c.toNat * 128 + o.toNat * 16 + w.toNat * 8)
  | .amoMax d a b c o w => some (0x4C000006 + d.toNat * 2097152 + a.toNat * 65536 + b.toNat * 2048 + c.toNat * 128 + o.toNat * 16 + w.toNat * 8)
  | .amoCas d a b c o w => some (0x4C000007 + d.toNat * 2097152 + a.toNat * 65536 + b.toNat * 2048 + c.toNat * 128 + o.toNat * 16 + w.toNat * 8)
  | .beq a b o => some (0x50000000 + a.toNat * 2097152 + b.toNat * 65536 + o.toNat)
  | .bne a b o => some (0x54000000 + a.toNat * 2097152 + b.toNat * 65536 + o.toNat)
  | .blt a b o => some (0x58000000 + a.toNat * 2097152 + b.toNat * 65536 + o.toNat)
  | .bge a b o => some (0x5C000000 + a.toNat * 2097152 + b.toNat * 65536 + o.toNat)
  | .bltn a b o => some (0x60000000 + a.toNat * 2097152 + b.toNat * 65536 + o.toNat)
  | .bgen a b o => some (0x64000000 + a.toNat * 2097152 + b.toNat * 65536 + o.toNat)
  | .jal d o => some (0x68000000 + d.toNat * 2097152 + o.toNat)
  | .jalr d a i => some (0x6C000000 + d.toNat * 2097152 + a.toNat * 65536 + i.toNat)
  | .bq o => some (0x70000000 + o.toNat)
  | .bqNot o => some (0x70200000 + o.toNat)
  | .ctlRd d r => some (0x74000000 + d.toNat * 2097152 + r.toNat)
  | .ctlWr a r => some (0x74004000 + a.toNat * 65536 + r.toNat)
  | .ctlSet a r => some (0x74008000 + a.toNat * 65536 + r.toNat)
  | .ctlClr a r => some (0x7400C000 + a.toNat * 65536 + r.toNat)
  | .vsetvl d a b => some (0x78000000 + d.toNat * 2097152 + a.toNat * 65536 + b.toNat * 2048)
  | .vsetvli d a t => some (0x78000100 + d.toNat * 2097152 + a.toNat * 65536 + t.toNat)
  | .gsetvl d a b => some (0x78000200 + d.toNat * 2097152 + a.toNat * 65536 + b.toNat * 2048)
  | .vdecl n => some (0x78000400 + n.toNat)
  | .vdeclBuf n v g => some (0x78000500 + n.toNat * 2048 + v.toNat * 4 + g.toNat)
  | .taskPost d a b => some (0x7C000000 + d.toNat * 2097152 + a.toNat * 65536 + b.toNat * 2048)
  | .taskTake d a => some (0x7C000001 + d.toNat * 2097152 + a.toNat * 65536)
  | .taskDone d a => some (0x7C000002 + d.toNat * 2097152 + a.toNat * 65536)
  | .taskYield => some 0x7C000003
  | .stripGrant d a => some (0x7C000004 + d.toNat * 2097152 + a.toNat * 65536)
  | .futLd d a b => some (0x7C000008 + d.toNat * 2097152 + a.toNat * 65536 + b.toNat * 2048)
  | .futSt d a b => some (0x7C000009 + d.toNat * 2097152 + a.toNat * 65536 + b.toNat * 2048)
  | .futClr d a => some (0x7C00000A + d.toNat * 2097152 + a.toNat * 65536)
  | .fence k c => some (0x7C000010 + k.toNat * 2048 + c.toNat * 128)
  | .drain q => some (0x7C000011 + q.toNat * 2048)
  | .garrive => some 0x7C000012
  | .gwait d => some (0x7C000013 + d.toNat * 2097152)
  | .ingTake d a => some (0x7C000014 + d.toNat * 2097152 + a.toNat * 65536)
  | .egrPost d a b => some (0x7C000015 + d.toNat * 2097152 + a.toNat * 65536 + b.toNat * 2048)
  | .pcwait d a b c => some (0x7C000016 + d.toNat * 2097152 + a.toNat * 65536 + b.toNat * 2048 + c.toNat * 128)
  | .strLd d a b z t r => some (0x80000000 + d.toNat * 2097152 + a.toNat * 65536 + b.toNat * 2048 + z.toNat * 32 + t.toNat * 16 + r.toNat * 8)
  | .strSt d a b t r => some (0x80000001 + d.toNat * 2097152 + a.toNat * 65536 + b.toNat * 2048 + t.toNat * 16 + r.toNat * 8)
  | .strCp d a b z t r => some (0x80000002 + d.toNat * 2097152 + a.toNat * 65536 + b.toNat * 2048 + z.toNat * 32 + t.toNat * 16 + r.toNat * 8)
  | .strXch d a b t r => some (0x80000003 + d.toNat * 2097152 + a.toNat * 65536 + b.toNat * 2048 + t.toNat * 16 + r.toNat * 8)
  | .strWait d a => some (0x80000004 + d.toNat * 2097152 + a.toNat * 65536)
  | .collSend d a w => some (0x84000000 + d.toNat * 2097152 + a.toNat * 65536 + w.toNat * 8)
  | .collRecv d a w => some (0x84000001 + d.toNat * 2097152 + a.toNat * 65536 + w.toNat * 8)
  | .collRed d a w => some (0x84000002 + d.toNat * 2097152 + a.toNat * 65536 + w.toNat * 8)
  | .collCancel d a => some (0x84000003 + d.toNat * 2097152 + a.toNat * 65536)
  | .collStat d a => some (0x84000004 + d.toNat * 2097152 + a.toNat * 65536)
  | .vaddVv d a b m => some (0x88000000 + d.toNat * 1048576 + a.toNat * 16384 + b.toNat * 256 + m.toNat * 32)
  | .vsubVv d a b m => some (0x88000001 + d.toNat * 1048576 + a.toNat * 16384 + b.toNat * 256 + m.toNat * 32)
  | .vrsubVv d a b m => some (0x88000002 + d.toNat * 1048576 + a.toNat * 16384 + b.toNat * 256 + m.toNat * 32)
  | .vmulVv d a b m => some (0x88000003 + d.toNat * 1048576 + a.toNat * 16384 + b.toNat * 256 + m.toNat * 32)
  | .vmulhIVv d a b m => some (0x88000004 + d.toNat * 1048576 + a.toNat * 16384 + b.toNat * 256 + m.toNat * 32)
  | .vmulhNVv d a b m => some (0x88000005 + d.toNat * 1048576 + a.toNat * 16384 + b.toNat * 256 + m.toNat * 32)
  | .vdivIVv d a b m => some (0x88000006 + d.toNat * 1048576 + a.toNat * 16384 + b.toNat * 256 + m.toNat * 32)
  | .vdivNVv d a b m => some (0x88000007 + d.toNat * 1048576 + a.toNat * 16384 + b.toNat * 256 + m.toNat * 32)
  | .vremIVv d a b m => some (0x88000008 + d.toNat * 1048576 + a.toNat * 16384 + b.toNat * 256 + m.toNat * 32)
  | .vremNVv d a b m => some (0x88000009 + d.toNat * 1048576 + a.toNat * 16384 + b.toNat * 256 + m.toNat * 32)
  | .vminIVv d a b m => some (0x8800000A + d.toNat * 1048576 + a.toNat * 16384 + b.toNat * 256 + m.toNat * 32)
  | .vminNVv d a b m => some (0x8800000B + d.toNat * 1048576 + a.toNat * 16384 + b.toNat * 256 + m.toNat * 32)
  | .vmaxIVv d a b m => some (0x8800000C + d.toNat * 1048576 + a.toNat * 16384 + b.toNat * 256 + m.toNat * 32)
  | .vmaxNVv d a b m => some (0x8800000D + d.toNat * 1048576 + a.toNat * 16384 + b.toNat * 256 + m.toNat * 32)
  | .vandVv d a b m => some (0x8800000E + d.toNat * 1048576 + a.toNat * 16384 + b.toNat * 256 + m.toNat * 32)
  | .vorVv d a b m => some (0x8800000F + d.toNat * 1048576 + a.toNat * 16384 + b.toNat * 256 + m.toNat * 32)
  | .vxorVv d a b m => some (0x88000010 + d.toNat * 1048576 + a.toNat * 16384 + b.toNat * 256 + m.toNat * 32)
  | .vsllVv d a b m => some (0x88000011 + d.toNat * 1048576 + a.toNat * 16384 + b.toNat * 256 + m.toNat * 32)
  | .vsrlVv d a b m => some (0x88000012 + d.toNat * 1048576 + a.toNat * 16384 + b.toNat * 256 + m.toNat * 32)
  | .vsraVv d a b m => some (0x88000013 + d.toNat * 1048576 + a.toNat * 16384 + b.toNat * 256 + m.toNat * 32)
  | .vsaddIVv d a b m => some (0x88000014 + d.toNat * 1048576 + a.toNat * 16384 + b.toNat * 256 + m.toNat * 32)
  | .vsaddNVv d a b m => some (0x88000015 + d.toNat * 1048576 + a.toNat * 16384 + b.toNat * 256 + m.toNat * 32)
  | .vssubIVv d a b m => some (0x88000016 + d.toNat * 1048576 + a.toNat * 16384 + b.toNat * 256 + m.toNat * 32)
  | .vssubNVv d a b m => some (0x88000017 + d.toNat * 1048576 + a.toNat * 16384 + b.toNat * 256 + m.toNat * 32)
  | .vavgIVv d a b m => some (0x88000018 + d.toNat * 1048576 + a.toNat * 16384 + b.toNat * 256 + m.toNat * 32)
  | .vavgNVv d a b m => some (0x88000019 + d.toNat * 1048576 + a.toNat * 16384 + b.toNat * 256 + m.toNat * 32)
  | .vwaddIVv d a b m => some (0x8800001A + d.toNat * 1048576 + a.toNat * 16384 + b.toNat * 256 + m.toNat * 32)
  | .vwaddNVv d a b m => some (0x8800001B + d.toNat * 1048576 + a.toNat * 16384 + b.toNat * 256 + m.toNat * 32)
  | .vnarrowIVv d a b m => some (0x8800001C + d.toNat * 1048576 + a.toNat * 16384 + b.toNat * 256 + m.toNat * 32)
  | .vnarrowNVv d a b m => some (0x8800001D + d.toNat * 1048576 + a.toNat * 16384 + b.toNat * 256 + m.toNat * 32)
  | .vaddVx d a b m => some (0x8C000000 + d.toNat * 1048576 + a.toNat * 16384 + b.toNat * 512 + m.toNat * 64)
  | .vsubVx d a b m => some (0x8C000001 + d.toNat * 1048576 + a.toNat * 16384 + b.toNat * 512 + m.toNat * 64)
  | .vrsubVx d a b m => some (0x8C000002 + d.toNat * 1048576 + a.toNat * 16384 + b.toNat * 512 + m.toNat * 64)
  | .vmulVx d a b m => some (0x8C000003 + d.toNat * 1048576 + a.toNat * 16384 + b.toNat * 512 + m.toNat * 64)
  | .vmulhIVx d a b m => some (0x8C000004 + d.toNat * 1048576 + a.toNat * 16384 + b.toNat * 512 + m.toNat * 64)
  | .vmulhNVx d a b m => some (0x8C000005 + d.toNat * 1048576 + a.toNat * 16384 + b.toNat * 512 + m.toNat * 64)
  | .vdivIVx d a b m => some (0x8C000006 + d.toNat * 1048576 + a.toNat * 16384 + b.toNat * 512 + m.toNat * 64)
  | .vdivNVx d a b m => some (0x8C000007 + d.toNat * 1048576 + a.toNat * 16384 + b.toNat * 512 + m.toNat * 64)
  | .vremIVx d a b m => some (0x8C000008 + d.toNat * 1048576 + a.toNat * 16384 + b.toNat * 512 + m.toNat * 64)
  | .vremNVx d a b m => some (0x8C000009 + d.toNat * 1048576 + a.toNat * 16384 + b.toNat * 512 + m.toNat * 64)
  | .vminIVx d a b m => some (0x8C00000A + d.toNat * 1048576 + a.toNat * 16384 + b.toNat * 512 + m.toNat * 64)
  | .vminNVx d a b m => some (0x8C00000B + d.toNat * 1048576 + a.toNat * 16384 + b.toNat * 512 + m.toNat * 64)
  | .vmaxIVx d a b m => some (0x8C00000C + d.toNat * 1048576 + a.toNat * 16384 + b.toNat * 512 + m.toNat * 64)
  | .vmaxNVx d a b m => some (0x8C00000D + d.toNat * 1048576 + a.toNat * 16384 + b.toNat * 512 + m.toNat * 64)
  | .vandVx d a b m => some (0x8C00000E + d.toNat * 1048576 + a.toNat * 16384 + b.toNat * 512 + m.toNat * 64)
  | .vorVx d a b m => some (0x8C00000F + d.toNat * 1048576 + a.toNat * 16384 + b.toNat * 512 + m.toNat * 64)
  | .vxorVx d a b m => some (0x8C000010 + d.toNat * 1048576 + a.toNat * 16384 + b.toNat * 512 + m.toNat * 64)
  | .vsllVx d a b m => some (0x8C000011 + d.toNat * 1048576 + a.toNat * 16384 + b.toNat * 512 + m.toNat * 64)
  | .vsrlVx d a b m => some (0x8C000012 + d.toNat * 1048576 + a.toNat * 16384 + b.toNat * 512 + m.toNat * 64)
  | .vsraVx d a b m => some (0x8C000013 + d.toNat * 1048576 + a.toNat * 16384 + b.toNat * 512 + m.toNat * 64)
  | .vsaddIVx d a b m => some (0x8C000014 + d.toNat * 1048576 + a.toNat * 16384 + b.toNat * 512 + m.toNat * 64)
  | .vsaddNVx d a b m => some (0x8C000015 + d.toNat * 1048576 + a.toNat * 16384 + b.toNat * 512 + m.toNat * 64)
  | .vssubIVx d a b m => some (0x8C000016 + d.toNat * 1048576 + a.toNat * 16384 + b.toNat * 512 + m.toNat * 64)
  | .vssubNVx d a b m => some (0x8C000017 + d.toNat * 1048576 + a.toNat * 16384 + b.toNat * 512 + m.toNat * 64)
  | .vavgIVx d a b m => some (0x8C000018 + d.toNat * 1048576 + a.toNat * 16384 + b.toNat * 512 + m.toNat * 64)
  | .vavgNVx d a b m => some (0x8C000019 + d.toNat * 1048576 + a.toNat * 16384 + b.toNat * 512 + m.toNat * 64)
  | .vwaddIVx d a b m => some (0x8C00001A + d.toNat * 1048576 + a.toNat * 16384 + b.toNat * 512 + m.toNat * 64)
  | .vwaddNVx d a b m => some (0x8C00001B + d.toNat * 1048576 + a.toNat * 16384 + b.toNat * 512 + m.toNat * 64)
  | .vnarrowIVx d a b m => some (0x8C00001C + d.toNat * 1048576 + a.toNat * 16384 + b.toNat * 512 + m.toNat * 64)
  | .vnarrowNVx d a b m => some (0x8C00001D + d.toNat * 1048576 + a.toNat * 16384 + b.toNat * 512 + m.toNat * 64)
  | .vaddVi d a i m => some (0x90000000 + d.toNat * 1048576 + a.toNat * 16384 + i.toNat * 64 + m.toNat * 8)
  | .vrsubVi d a i m => some (0x90000001 + d.toNat * 1048576 + a.toNat * 16384 + i.toNat * 64 + m.toNat * 8)
  | .vandVi d a i m => some (0x90000002 + d.toNat * 1048576 + a.toNat * 16384 + i.toNat * 64 + m.toNat * 8)
  | .vorVi d a i m => some (0x90000003 + d.toNat * 1048576 + a.toNat * 16384 + i.toNat * 64 + m.toNat * 8)
  | .vxorVi d a i m => some (0x90000004 + d.toNat * 1048576 + a.toNat * 16384 + i.toNat * 64 + m.toNat * 8)
  | .vsllVi d a i m => some (0x90000005 + d.toNat * 1048576 + a.toNat * 16384 + i.toNat * 64 + m.toNat * 8)
  | .vsrlVi d a i m => some (0x90000006 + d.toNat * 1048576 + a.toNat * 16384 + i.toNat * 64 + m.toNat * 8)
  | .vsraVi d a i m => some (0x90000007 + d.toNat * 1048576 + a.toNat * 16384 + i.toNat * 64 + m.toNat * 8)
  | .vsaddIVi d a i m => some (0x94000000 + d.toNat * 1048576 + a.toNat * 16384 + i.toNat * 64 + m.toNat * 8)
  | .vsaddNVi d a i m => some (0x94000001 + d.toNat * 1048576 + a.toNat * 16384 + i.toNat * 64 + m.toNat * 8)
  | .vminIVi d a i m => some (0x94000002 + d.toNat * 1048576 + a.toNat * 16384 + i.toNat * 64 + m.toNat * 8)
  | .vminNVi d a i m => some (0x94000003 + d.toNat * 1048576 + a.toNat * 16384 + i.toNat * 64 + m.toNat * 8)
  | .vmaxIVi d a i m => some (0x94000004 + d.toNat * 1048576 + a.toNat * 16384 + i.toNat * 64 + m.toNat * 8)
  | .vmaxNVi d a i m => some (0x94000005 + d.toNat * 1048576 + a.toNat * 16384 + i.toNat * 64 + m.toNat * 8)
  | .vnarrowIVi d a i m => some (0x94000006 + d.toNat * 1048576 + a.toNat * 16384 + i.toNat * 64 + m.toNat * 8)
  | .vnarrowNVi d a i m => some (0x94000007 + d.toNat * 1048576 + a.toNat * 16384 + i.toNat * 64 + m.toNat * 8)
  | .vfadd d a b m s => some (0x98000000 + d.toNat * 1048576 + a.toNat * 16384 + b.toNat * 256 + m.toNat * 32 + s.toNat * 4)
  | .vfsub d a b m s => some (0x98000001 + d.toNat * 1048576 + a.toNat * 16384 + b.toNat * 256 + m.toNat * 32 + s.toNat * 4)
  | .vfmul d a b m s => some (0x98000002 + d.toNat * 1048576 + a.toNat * 16384 + b.toNat * 256 + m.toNat * 32 + s.toNat * 4)
  | .vfdiv d a b m s => some (0x98000003 + d.toNat * 1048576 + a.toNat * 16384 + b.toNat * 256 + m.toNat * 32 + s.toNat * 4)
  | .vfmacc d a b m s => some (0x9C000000 + d.toNat * 1048576 + a.toNat * 16384 + b.toNat * 256 + m.toNat * 32 + s.toNat * 4)
  | .vfnmacc d a b m s => some (0x9C000001 + d.toNat * 1048576 + a.toNat * 16384 + b.toNat * 256 + m.toNat * 32 + s.toNat * 4)
  | .vfmsac d a b m s => some (0x9C000002 + d.toNat * 1048576 + a.toNat * 16384 + b.toNat * 256 + m.toNat * 32 + s.toNat * 4)
  | .vfnmsac d a b m s => some (0x9C000003 + d.toNat * 1048576 + a.toNat * 16384 + b.toNat * 256 + m.toNat * 32 + s.toNat * 4)
  | .vfmin d a b m s => some (0xA0000000 + d.toNat * 1048576 + a.toNat * 16384 + b.toNat * 256 + m.toNat * 32 + s.toNat * 4)
  | .vfmax d a b m s => some (0xA0000001 + d.toNat * 1048576 + a.toNat * 16384 + b.toNat * 256 + m.toNat * 32 + s.toNat * 4)
  | .vfcopysign d a b m s => some (0xA0000002 + d.toNat * 1048576 + a.toNat * 16384 + b.toNat * 256 + m.toNat * 32 + s.toNat * 4)
  | .vfscale d a b m s => some (0xA0000003 + d.toNat * 1048576 + a.toNat * 16384 + b.toNat * 256 + m.toNat * 32 + s.toNat * 4)
  | .vfsqrt d a m s => some (0xA4000000 + d.toNat * 1048576 + a.toNat * 16384 + m.toNat * 32 + s.toNat * 4)
  | .vfabs d a m s => some (0xA4000100 + d.toNat * 1048576 + a.toNat * 16384 + m.toNat * 32 + s.toNat * 4)
  | .vfneg d a m s => some (0xA4000200 + d.toNat * 1048576 + a.toNat * 16384 + m.toNat * 32 + s.toNat * 4)
  | .vfcvt d a m s => some (0xA4000300 + d.toNat * 1048576 + a.toNat * 16384 + m.toNat * 32 + s.toNat * 4)
  | .vfround d a m s => some (0xA4000400 + d.toNat * 1048576 + a.toNat * 16384 + m.toNat * 32 + s.toNat * 4)
  | .vfexp2f d a m s => some (0xA4000500 + d.toNat * 1048576 + a.toNat * 16384 + m.toNat * 32 + s.toNat * 4)
  | .vfrecip d a m s => some (0xA4000600 + d.toNat * 1048576 + a.toNat * 16384 + m.toNat * 32 + s.toNat * 4)
  | .vfrsqrt d a m s => some (0xA4000700 + d.toNat * 1048576 + a.toNat * 16384 + m.toNat * 32 + s.toNat * 4)
  | .vfclass d a m s => some (0xA4000800 + d.toNat * 1048576 + a.toNat * 16384 + m.toNat * 32 + s.toNat * 4)
  | .vcmpF c d a b m s => some (0xA4000001 + c.toNat * 8388608 + d.toNat * 1048576 + a.toNat * 16384 + b.toNat * 256 + m.toNat * 32 + s.toNat * 4)
  | .vcmpI c d a b m => some (0xA8000000 + c.toNat * 8388608 + d.toNat * 1048576 + a.toNat * 16384 + b.toNat * 256 + m.toNat * 32)
  | .vcmpN c d a b m => some (0xA8000001 + c.toNat * 8388608 + d.toNat * 1048576 + a.toNat * 16384 + b.toNat * 256 + m.toNat * 32)
  | .mand d a b m => some (0xA8000002 + d.toNat * 1048576 + a.toNat * 16384 + b.toNat * 256 + m.toNat * 32)
  | .mor d a b m => some (0xA8000003 + d.toNat * 1048576 + a.toNat * 16384 + b.toNat * 256 + m.toNat * 32)
  | .mxor d a b m => some (0xA8000004 + d.toNat * 1048576 + a.toNat * 16384 + b.toNat * 256 + m.toNat * 32)
  | .mandn d a b m => some (0xA8000005 + d.toNat * 1048576 + a.toNat * 16384 + b.toNat * 256 + m.toNat * 32)
  | .mpopc d a m => some (0xA8000006 + d.toNat * 1048576 + a.toNat * 16384 + m.toNat * 32)
  | .mfirst d a m => some (0xA8000007 + d.toNat * 1048576 + a.toNat * 16384 + m.toNat * 32)
  | .mset d m => some (0xA8000008 + d.toNat * 1048576 + m.toNat * 32)
  | .vcompress d a b => some (0xA8000009 + d.toNat * 1048576 + a.toNat * 16384 + b.toNat * 256)
  | .vexpand d a b => some (0xA800000A + d.toNat * 1048576 + a.toNat * 16384 + b.toNat * 256)
  | .viota d a m => some (0xA800000B + d.toNat * 1048576 + a.toNat * 16384 + m.toNat * 32)
  | .vid d m => some (0xA800000C + d.toNat * 1048576 + m.toNat * 32)
  | .vgather d a b m => some (0xAC000000 + d.toNat * 1048576 + a.toNat * 16384 + b.toNat * 256 + m.toNat * 32)
  | .vslideup d a b m => some (0xAC000001 + d.toNat * 1048576 + a.toNat * 16384 + b.toNat * 256 + m.toNat * 32)
  | .vslidedown d a b m => some (0xAC000002 + d.toNat * 1048576 + a.toNat * 16384 + b.toNat * 256 + m.toNat * 32)
  | .vbcast d b m => some (0xAC000003 + d.toNat * 1048576 + b.toNat * 256 + m.toNat * 32)
  | .vmvx d a b => some (0xAC000004 + d.toNat * 1048576 + a.toNat * 16384 + b.toNat * 256)
  | .vmvs d b m => some (0xAC000005 + d.toNat * 1048576 + b.toNat * 256 + m.toNat * 32)
  | .vmv d a m => some (0xAC000006 + d.toNat * 1048576 + a.toNat * 16384 + m.toNat * 32)
  | .vmerge d a b m => some (0xAC000007 + d.toNat * 1048576 + a.toNat * 16384 + b.toNat * 256 + m.toNat * 32)
  | .vredsumOF d a m s => some (0xB0000000 + d.toNat * 1048576 + a.toNat * 16384 + m.toNat * 32 + s.toNat * 4)
  | .vredsumOI d a m => some (0xB0000001 + d.toNat * 1048576 + a.toNat * 16384 + m.toNat * 32)
  | .vredsumON d a m => some (0xB0000002 + d.toNat * 1048576 + a.toNat * 16384 + m.toNat * 32)
  | .vredsumTF d a m s => some (0xB0000100 + d.toNat * 1048576 + a.toNat * 16384 + m.toNat * 32 + s.toNat * 4)
  | .vredsumTI d a m => some (0xB0000101 + d.toNat * 1048576 + a.toNat * 16384 + m.toNat * 32)
  | .vredsumTN d a m => some (0xB0000102 + d.toNat * 1048576 + a.toNat * 16384 + m.toNat * 32)
  | .vredmaxF d a m s => some (0xB0000200 + d.toNat * 1048576 + a.toNat * 16384 + m.toNat * 32 + s.toNat * 4)
  | .vredmaxI d a m => some (0xB0000201 + d.toNat * 1048576 + a.toNat * 16384 + m.toNat * 32)
  | .vredmaxN d a m => some (0xB0000202 + d.toNat * 1048576 + a.toNat * 16384 + m.toNat * 32)
  | .vredminF d a m s => some (0xB0000300 + d.toNat * 1048576 + a.toNat * 16384 + m.toNat * 32 + s.toNat * 4)
  | .vredminI d a m => some (0xB0000301 + d.toNat * 1048576 + a.toNat * 16384 + m.toNat * 32)
  | .vredminN d a m => some (0xB0000302 + d.toNat * 1048576 + a.toNat * 16384 + m.toNat * 32)
  | .vredandI d a m => some (0xB0000401 + d.toNat * 1048576 + a.toNat * 16384 + m.toNat * 32)
  | .vredandN d a m => some (0xB0000402 + d.toNat * 1048576 + a.toNat * 16384 + m.toNat * 32)
  | .vredorI d a m => some (0xB0000501 + d.toNat * 1048576 + a.toNat * 16384 + m.toNat * 32)
  | .vredorN d a m => some (0xB0000502 + d.toNat * 1048576 + a.toNat * 16384 + m.toNat * 32)
  | .vredxorI d a m => some (0xB0000601 + d.toNat * 1048576 + a.toNat * 16384 + m.toNat * 32)
  | .vredxorN d a m => some (0xB0000602 + d.toNat * 1048576 + a.toNat * 16384 + m.toNat * 32)
  | .vbtr d a b m => some (0xB4000000 + d.toNat * 1048576 + a.toNat * 16384 + b.toNat * 512 + m.toNat * 64)
  | .vbtri d a b m => some (0xB4000001 + d.toNat * 1048576 + a.toNat * 16384 + b.toNat * 512 + m.toNat * 64)
  | .vbadd d a b m => some (0xB4000002 + d.toNat * 1048576 + a.toNat * 16384 + b.toNat * 512 + m.toNat * 64)
  | .vbmac d a b m => some (0xB4000003 + d.toNat * 1048576 + a.toNat * 16384 + b.toNat * 512 + m.toNat * 64)
  | .vbcmp d a b m => some (0xB4000004 + d.toNat * 1048576 + a.toNat * 16384 + b.toNat * 512 + m.toNat * 64)
  | .vbpopc d a b m => some (0xB4000005 + d.toNat * 1048576 + a.toNat * 16384 + b.toNat * 512 + m.toNat * 64)
  | .vbshl d a b m => some (0xB4000006 + d.toNat * 1048576 + a.toNat * 16384 + b.toNat * 512 + m.toNat * 64)
  | .vbmm d a b m k s => some (0xB8000000 + d.toNat * 1048576 + a.toNat * 16384 + b.toNat * 256 + m.toNat * 32 + k.toNat * 8 + s.toNat)
  | .vbmv d a b m k s => some (0xB8000004 + d.toNat * 1048576 + a.toNat * 16384 + b.toNat * 256 + m.toNat * 32 + k.toNat * 8 + s.toNat)
  | .vld d a m e => some (0xBC000000 + d.toNat * 1048576 + a.toNat * 32768 + m.toNat * 64 + e.toNat * 8)
  | .vlds d a t m e => some (0xBC000001 + d.toNat * 1048576 + a.toNat * 32768 + t.toNat * 512 + m.toNat * 64 + e.toNat * 8)
  | .vldx d a x m e => some (0xBC000002 + d.toNat * 1048576 + a.toNat * 32768 + x.toNat * 512 + m.toNat * 64 + e.toNat * 8)
  | .vldff d a m e => some (0xBC000003 + d.toNat * 1048576 + a.toNat * 32768 + m.toNat * 64 + e.toNat * 8)
  | .vldp d a t m => some (0xBC000024 + d.toNat * 1048576 + a.toNat * 32768 + t.toNat * 512 + m.toNat * 64)
  | .vst d a m e => some (0xC0000000 + d.toNat * 1048576 + a.toNat * 32768 + m.toNat * 64 + e.toNat * 8)
  | .vsts d a t m e => some (0xC0000001 + d.toNat * 1048576 + a.toNat * 32768 + t.toNat * 512 + m.toNat * 64 + e.toNat * 8)
  | .vstx d a x m e => some (0xC0000002 + d.toNat * 1048576 + a.toNat * 32768 + x.toNat * 512 + m.toNat * 64 + e.toNat * 8)
  | .vstxu d a x m e => some (0xC0000003 + d.toNat * 1048576 + a.toNat * 32768 + x.toNat * 512 + m.toNat * 64 + e.toNat * 8)
  | .vstu d a m e => some (0xC0000004 + d.toNat * 1048576 + a.toNat * 32768 + m.toNat * 64 + e.toNat * 8)
  | .vstp d a t m => some (0xC0000025 + d.toNat * 1048576 + a.toNat * 32768 + t.toNat * 512 + m.toNat * 64)
  | .vspill d a => some (0xC4000000 + d.toNat * 1048576 + a.toNat * 32768)
  | .vfill d a => some (0xC4000001 + d.toNat * 1048576 + a.toNat * 32768)
  | .vamoAdd d a x m c w => some (0xD0000010 + d.toNat * 1048576 + a.toNat * 32768 + x.toNat * 512 + m.toNat * 64 + c.toNat * 32 + w.toNat * 8)
  | .vamoFadd d a x m c w => some (0xD0000011 + d.toNat * 1048576 + a.toNat * 32768 + x.toNat * 512 + m.toNat * 64 + c.toNat * 32 + w.toNat * 8)
  | .vamoMin d a x m c w => some (0xD0000012 + d.toNat * 1048576 + a.toNat * 32768 + x.toNat * 512 + m.toNat * 64 + c.toNat * 32 + w.toNat * 8)
  | .vamoMax d a x m c w => some (0xD0000013 + d.toNat * 1048576 + a.toNat * 32768 + x.toNat * 512 + m.toNat * 64 + c.toNat * 32 + w.toNat * 8)
  | .vamoAnd d a x m c w => some (0xD0000014 + d.toNat * 1048576 + a.toNat * 32768 + x.toNat * 512 + m.toNat * 64 + c.toNat * 32 + w.toNat * 8)
  | .vamoOr d a x m c w => some (0xD0000015 + d.toNat * 1048576 + a.toNat * 32768 + x.toNat * 512 + m.toNat * 64 + c.toNat * 32 + w.toNat * 8)
  | .vamoXor d a x m c w => some (0xD0000016 + d.toNat * 1048576 + a.toNat * 32768 + x.toNat * 512 + m.toNat * 64 + c.toNat * 32 + w.toNat * 8)
  | .vamoSwap d a x m c w => some (0xD0000017 + d.toNat * 1048576 + a.toNat * 32768 + x.toNat * 512 + m.toNat * 64 + c.toNat * 32 + w.toNat * 8)
  | .mmac c a b m s => some (0xD4000000 + c.toNat * 16777216 + a.toNat * 262144 + b.toNat * 4096 + m.toNat * 512 + s.toNat * 64)
  | .mmacs c a b m s => some (0xD4000001 + c.toNat * 16777216 + a.toNat * 262144 + b.toNat * 4096 + m.toNat * 512 + s.toNat * 64)
  | .mzero c m => some (0xD4000002 + c.toNat * 16777216 + m.toNat * 512)
  | .mst c a m => some (0xD4000003 + c.toNat * 16777216 + a.toNat * 262144 + m.toNat * 512)
  | .mld c a m => some (0xD4000004 + c.toNat * 16777216 + a.toNat * 262144 + m.toNat * 512)
  | .mattach => some 0xD4000008
  | .mdetach => some 0xD4000009
  | .fop p d a b m => some (0xD8000000 + p.toNat * 4194304 + d.toNat * 65536 + a.toNat * 1024 + b.toNat * 16 + m.toNat * 2)
  | .fopC p d a b m => some (0xD8000001 + p.toNat * 4194304 + d.toNat * 65536 + a.toNat * 1024 + b.toNat * 16 + m.toNat * 2)
  | .fbind d a p => some (0xDC000000 + d.toNat * 2097152 + a.toNat * 65536 + p.toNat * 16)
  | .funbind p => some (0xDC000001 + p.toNat * 16)
  | .fdrain p => some (0xDC000002 + p.toNat * 16)
  | .convoyDecode => none
  | .convoyCommit => none
  | .convoyIssue => none
  | .convoyRetire => none
  | .interruptTake _ => none
  | .storeBufferDrain _ => none
  | .sliceRequest _ => none
  | .writePerform _ _ => none
  | .futLdApply _ _ _ _ => none
  | .futStApply _ _ => none
  | .futClrApply _ => none
  | .futCancel _ => none
  | .tableWalk _ _ => none
  | .combiningEntryRetire _ => none
  | .streamRetire _ _ => none
  | .streamHeadland _ _ => none
  | .exchangeStart _ => none
  | .barrierArrival _ => none
  | .laneGroupTake _ => none
  | .reclaimTimeout _ => none
  | .contextResume _ => none
  | .taskDispatch _ => none
  | .taskCompletion _ _ => none
  | .reuseLookup _ => none
  | .boundLaunch _ => none
  | .ringRefill _ => none
  | .mattachGrant _ => none
  | .fopComplete _ _ => none
  | .fopMoreStop _ _ => none
  | .fopFault _ _ => none
  | .fabricDrainTimeout _ _ => none
  | .collectiveRoundSend _ _ => none
  | .reducerForward _ _ => none
  | .roundFlit _ _ => none
  | .exponentsFlit _ _ => none
  | .endFlit _ _ => none
  | .cancelFlit _ _ => none
  | .replayRequest _ _ => none
  | .replayLimit _ => none
  | .retrainTimeout _ => none
  | .ingressRaise _ _ => none
  | .egressPop _ => none
  | .lfaultClear _ => none
  | .skip _ => none
  | .gangWordWrite _ _ _ => none
  | .qctlResume _ => none
  | .displace _ _ => none
  | .hold _ _ => none
  | .resume _ _ => none
  | .free _ _ => none
  | .adopt _ _ => none
  | .rsaltCommit _ => none
  | .rflush _ => none
  | .rctlWrite _ => none
  | .registerWrite _ _ => none
  | .ringSetup _ _ _ _ => none
  | .start _ _ _ => none
  | .place _ _ _ _ _ _ => none
  | .nodemap _ _ _ _ _ => none
  | .debugHalt _ _ => none
  | .debugRelease _ _ => none
  | .haltOnBreak _ _ _ => none
  | .attest _ _ => none
  | .reset _ => none
  | .dumprel _ => none
  | .resync _ => none
  | .coldStart => none
  | .fatalStop _ => none
  | .watchdogExpiry => none
  | .throttleStep => none
  | .thermalStop => none
  | .eventReport _ => none
  | .patrolScrub => none
  | .laneRetire _ _ => none
  | .coreRetire _ => none
  | .droppedFlit _ _ => none
  | .portRetrained _ => none
  | .waitSpuriousEnd _ => none
  | .otherTypeMessage _ _ => none

/-- The instruction word. -/
def encode (i : Instr) : Option (BitVec 32) := (encodeNat i).map (BitVec.ofNat 32)

end Sys2Proof
end

