-- ==== Sys2Proof/Config.lean ====
section
/-! DEFINITION. What an implementation fixes, and the values that the manual leaves open: opaque constants, of which
nothing can be proved. Each is applied to the state's counter of free values or to what it depends on. -/

namespace Sys2Proof.Config

/-- The stepping field of `idpart`, 0xB0 or 0xB1 (R1, R117): 0xB1. DESIGN CHOICE, log 4. -/
def stepping : Nat := 0xB1

/-- What a byte of CXL or host memory reads as before anything has written it; R34 gives zero for HBM only.
DESIGN CHOICE, log 3. -/
def unwritten : BitVec 8 := 0

/-- How far `cycle` has advanced since it was last read (R117); free, log 8. -/
opaque cycleDelta : Nat → BitVec 32

/-- How far `time` has advanced since it was last read (R118); free, log 8. -/
opaque timeDelta : Nat → BitVec 32

/-- Whether a fetch that finds a stale line in the instruction cache uses it (R44); free, log 13. -/
opaque useStaleLine : Nat → Bool

/-- Whether an unordered store's element i performs after the higher elements that overlap it (R218); free, log 11. -/
opaque unorderedLater : Nat → Nat → Bool

/-- The image that the placer chooses, if the NGI fits (R430), as a function of the NGI's bytes, the mask and the placer
version; free, log 18. -/
opaque placeImage : List (BitVec 8) → Nat → BitVec 32 → Option (List (BitVec 8))

/-- The tile numbers that the placer gives to the NGI's nodes, in their order (R430); free, log 18. -/
opaque placeNodes : List (BitVec 8) → Nat → BitVec 32 → List Nat

/-- The placer version of the running firmware (R426); free, log 18. -/
opaque placerVersion : BitVec 32

/-- The firmware digest that attestation reports (R442); free, log 19. -/
opaque firmwareDigest : List (BitVec 8)

/-- The digest of the fuse settings (R442); free, log 19. -/
opaque fuseDigest : List (BitVec 8)

/-- Where the granary's first slot lies in CXL memory (R432); free, log 18. -/
opaque granaryBase : Nat

/-- NSLOT of the granary, 0 for none (R432); free, log 18. -/
opaque granarySlots : Nat

/-- The firmware image that the package flash holds at the cold start numbered so, its SM2 signature and the public key beside it
(R441); free, log 19. -/
opaque flashImage : Nat → List (BitVec 8)
opaque flashSignature : Nat → List (BitVec 8)
opaque flashKey : Nat → List (BitVec 8)

/-- The version number of a firmware image (R441); free, log 19. -/
opaque imageVersion : List (BitVec 8) → Nat

/-- The SM3 digest of the public key that is fused in the device, and its fused rollback counter at that cold start (R441); free, log 19. -/
opaque fusedKeyDigest : List (BitVec 8)
opaque rollbackCounter : Nat → Nat

/-- Whether an SM2 signature over a digest verifies under a public key (R441; GB/T 32918); free, log 19. -/
opaque sm2Verifies : List (BitVec 8) → List (BitVec 8) → List (BitVec 8) → Bool

/-- The status of a rejected image on the UCIe sideband (R441); free, log 19. -/
opaque rejectStatus : Nat → Nat

/-- A host die is fitted and the UCIe joint has trained, at the cold start numbered so (R17, R443); free, log 91. -/
opaque jointTrained : Nat → Bool

/-- Whether HBM, and the Kraha ports, train at the cold start numbered so (R443); free, log 91. -/
opaque hbmTrained : Nat → Bool
opaque portsTrained : Nat → Bool

/-- Lines of 128 bytes that the device on a CXL port has, as firmware finds it at the cold start numbered so (R20); free, log 91. -/
opaque cxlLines : Nat → Nat → Nat

/-- How far behind its header the sections of a fatal dump begin (R445); free, log 19. -/
opaque dumpSlack : Nat → Nat

/-- An SM2 signature with the identity key over a message (R442, R445); free, log 19. -/
opaque signature : List (BitVec 8) → List (BitVec 8)

/-- The certificate of the identity key (R442); free, log 19. -/
opaque certificate : List (BitVec 8)

/-- Byte i of a fatal dump, where the manual does not lay it out (R445); free, log 19. -/
opaque dumpByte : Nat → Nat → BitVec 8

/-- Whether the signature of the dump in memory verifies (R445); free, log 19. -/
opaque dumpVerifies : List (BitVec 8) → Bool

/-- Whether inbound edge e of a fabric binding holds an element back in a round of an invocation, as its timing may have it
(R287, R296); free, log 17. -/
opaque edgePauses : Nat → Nat → Nat → Bool

/-- Byte i of a collective's slot that software has written while the collective is live (R311); free, log 21. -/
opaque raceByte : Nat → Nat → BitVec 8

/-- Whether a transfer to or from second-tier or host memory returns an error other than poison (R67); free, log 76. -/
opaque xferError : Nat → Bool

/-- The Kraha port by which firmware routes the flits for a node (R325); free, log 21. -/
opaque portOf : Nat → Nat

end Sys2Proof.Config
end

