-- ==== Sys2Proof/Machine/Bits.lean ====
section
/-! DEFINITION. Numbers as bits: the arithmetic helpers that R4, R8 and R163 use. -/

namespace Sys2Proof.Machine

/-- x[lo + n - 1 : lo] of a natural number. -/
def fld (x lo n : Nat) : Nat := x / 2 ^ lo % 2 ^ n

/-- x[lo + n - 1 : lo] of a register word. -/
def wfld (w : Word) (lo n : Nat) : Nat := fld w.toNat lo n

/-- Bit i of a number. -/
def nbit (x i : Nat) : Bool := x / 2 ^ i % 2 = 1

/-- Bit i of a register word. -/
def wbit (w : Word) (i : Nat) : Bool := nbit w.toNat i

/-- A number as a register word, modulo 2^64. -/
def word (n : Nat) : Word := BitVec.ofNat 64 n

/-- An integer as a register word, modulo 2^64. -/
def wordI (i : Int) : Word := BitVec.ofInt 64 i

/-- A Boolean as a number. -/
def b2n (b : Bool) : Nat := if b then 1 else 0

/-- `sext(x, n)` of R163: the low n bits as two's complement. -/
def sext (x n : Nat) : Int :=
  let y := x % 2 ^ n
  if n = 0 then 0 else if y < 2 ^ (n - 1) then (y : Int) else (y : Int) - (2 : Int) ^ n

/-- An integer modulo 2^n, as the unsigned number of its low n bits. -/
def wrap (i : Int) (n : Nat) : Nat := (i % (2 : Int) ^ n).toNat

/-- Replaces bits [lo + n - 1 : lo] of x by v. -/
def putFld (x lo n v : Nat) : Nat := x - fld x lo n * 2 ^ lo + v % 2 ^ n * 2 ^ lo

/-- floor(log2 x), 0 for x = 0. -/
def log2 (x : Nat) : Nat := Nat.log2 x

/-- `pow2_floor(x)` of R163. -/
def pow2Floor (x : Nat) : Nat := if x = 0 then 0 else 2 ^ log2 x

/-- The number of bits of x: 0 for 0. -/
def bitLen (x : Nat) : Nat := if x = 0 then 0 else log2 x + 1

/-- x / n rounded up. -/
def ceilDiv (x n : Nat) : Nat := (x + n - 1) / n

/-- Number of 1 bits among the low n bits of x. -/
def popcount (x : Nat) : Nat → Nat
  | 0 => 0
  | n + 1 => popcount x n + x / 2 ^ n % 2

/-- Leading zeros of the low n bits. -/
def leadingZeros (x n : Nat) : Nat := n - bitLen (x % 2 ^ n)

/-- Trailing zeros of the low n bits of x, counted from bit i up. -/
def trailingZeros (x : Nat) : Nat → Nat
  | 0 => 0
  | n + 1 => if x % 2 = 1 then 0 else 1 + trailingZeros (x / 2) n

/-- The bytes of a number, least significant first (R4). -/
def toBytes (x : Nat) : Nat → List Byte
  | 0 => []
  | n + 1 => BitVec.ofNat 8 x :: toBytes (x / 256) n

/-- A number from its bytes, least significant first (R4). -/
def ofBytes : List Byte → Nat
  | [] => 0
  | b :: bs => b.toNat + 256 * ofBytes bs

/-- The n bytes of x in reverse order. -/
def byteSwap (x n : Nat) : Nat := ofBytes (toBytes x n).reverse

/-- Bits of a word as an operand index. -/
def bnum {n : Nat} (b : BitVec n) : Nat := b.toNat

/-- 0, 1, … n - 1 folded from the left: a loop with an index. -/
def loop {σ : Type} (f : Nat → σ → σ) : Nat → Nat → σ → σ
  | _, 0, s => s
  | i, n + 1, s => loop f (i + 1) n (f i s)

/-- The list lo, lo + 1, … of n numbers. -/
def range (lo : Nat) : Nat → List Nat
  | 0 => []
  | n + 1 => lo :: range (lo + 1) n

/-- The first element of a list at position k, or d. -/
def nth {α : Type} (d : α) : List α → Nat → α
  | [], _ => d
  | a :: _, 0 => a
  | _ :: t, k + 1 => nth d t k

/-- The list with position k replaced. -/
def setNth {α : Type} : List α → Nat → α → List α
  | [], _, _ => []
  | _ :: t, 0, v => v :: t
  | a :: t, k + 1, v => a :: setNth t k v

/-- The lowest number of lo, lo + 1, … (n of them) that p accepts. -/
def findFrom (p : Nat → Bool) (lo : Nat) : Nat → Option Nat
  | 0 => none
  | n + 1 => if p lo then some lo else findFrom p (lo + 1) n

/-- Least common prefix of the natural order: the smaller of an optional bound and a number. -/
def minOpt (o : Option Nat) (n : Nat) : Nat := match o with | none => n | some k => min k n

end Sys2Proof.Machine
end

