-- ==== Sys2Proof/Machine/Zrp.lean ====
section
/-! DEFINITION. The zero-run decoder (R101), unit by unit. -/

namespace Sys2Proof.Machine

/-- The decoder between two units: the words so far (newest first, at most the declared length), how many it has
produced, the commands that wait, and the literals still due. -/
structure Zrp where
  out : List Nat := []
  count : Nat := 0
  cmds : List Nat := []
  lit : Nat := 0
  ended : Bool := false
  units : Nat := 0
  deriving DecidableEq, Repr

/-- n words x are emitted; words beyond the declared length are dropped. -/
def Zrp.emit (decl n x : Nat) (z : Zrp) : Zrp :=
  { z with out := List.replicate (min n (decl - z.count)) x ++ z.out, count := z.count + n }

/-- Commands act until one asks for literals. What stands behind the end command is not read: R101 has it be 0, and does not say what
another value does (DESIGN CHOICE, log 108). -/
def Zrp.act (decl : Nat) : List Nat → Zrp → Zrp
  | [], z => { z with cmds := [] }
  | c :: cs, z =>
    if c = 0 then { z with cmds := [], ended := true }
    else if c < 0x8000 then Zrp.act decl cs (z.emit decl c 0)
    else { z with cmds := cs, lit := c - 0x8000 + 1 }

/-- The next unit of the source: a literal when one is due, else a control unit. -/
def Zrp.unit (decl u : Nat) (z : Zrp) : Zrp :=
  let y := { z with units := z.units + 1 }
  if z.lit = 0 then y.act decl [fld u 0 16, fld u 16 16, fld u 32 16, fld u 48 16]
  else
    let x : Zrp := { y.emit decl 1 u with lit := z.lit - 1 }
    if x.lit = 0 then x.act decl x.cmds else x

/-- The decoder needs no further unit: it has met the end command, or the limit of units. -/
def Zrp.over (decl : Nat) (z : Zrp) : Bool := z.ended || decide (2 * decl + 2 ≤ z.units)

/-- The decoded words in order, padded with zero words to the declared length (R68). -/
def Zrp.words (decl : Nat) (z : Zrp) : List Nat := z.out.reverse ++ List.replicate (decl - z.out.length) 0

end Sys2Proof.Machine
end

