-- ==== Sys2Proof/Machine/State.lean ====
section
/-! DEFINITION. The state of a TK-880 as plain data: one current hart in full, the other harts beside it, and the
device that they share. Sparse tables (Tab) list what differs from a default. -/

namespace Sys2Proof.Machine

/-- Why the machine stops. -/
inductive Fault where
  /-- Raised by a table walker or a task controller that reads a physical address at which R21 has nothing (a node or a
  frame outside every populated window). Safe: the hardware's answer is not given, and the model goes no further. -/
  | noSuchAddress (pa : Nat)
  deriving DecidableEq, Repr

/-- Why the model declines an instruction. -/
inductive Refusal where
  /-- Raised by exec for an instruction that has no meaning yet. Safe: nothing is claimed of it. -/
  | notModelled (mnemonic : String)
  deriving DecidableEq, Repr

/-- What a waiting hart waits for (R360). -/
inductive WaitFor where
  | task | gwait | wait | ingress | egress | pcwait | future | attach | lanes | gang | stream | fabric | register
  deriving DecidableEq, Repr

/-- R360. A displaced context is in its frame; its hart holds no context. -/
inductive Status where
  | noContext | running | waiting (r : WaitFor) | halted
  deriving DecidableEq, Repr

/-- A non-scalar slot with the values captured for it (R105, R413); for a scalar slot that changes a vector-side register, the value
that it left (R413), and for a `ctl.rd` that waits (R363) the one that a slot before it in its convoy has left for it. regs: for a
`fop`, whose image names the registers it captures, all of them (R105); for a `strip.grant` that has taken effect, the `vl` and the
`vstart` that it replaced (R120). mshape: of a matrix slot, captured with it (R270). late: the captured registers whose values
are still to come (R363). past: a left value that an earlier part of its convoy has applied; of a `ctl.rd`, that a value has been left
for it. -/
structure Act where
  slot : Nat := 0
  w : BitVec 32 := 0
  c0 : Word := 0
  c1 : Word := 0
  c2 : Word := 0
  mshape : Word := 0
  regs : Option (Tab Word) := none
  late : List Nat := []
  past : Bool := false
  deriving DecidableEq, Repr

/-- A value that leaves the vector side when its convoy retires (R363, R177), with its poison mark (R39; 0: none). -/
inductive Deliver where
  | reg (d : Nat) (v p : Word)
  | cond (b : Bool) (p : Word)
  deriving DecidableEq, Repr

/-- A committed convoy (R362, R413): its slots and their progress cells. re: it is re-issued after a trap (R407). seq: when
it committed (log 47). space: the `asid`, `ptbase` and `hstat`.SUP of its commit, once the hart has changed one of them
(R31). flags: what the streams of a stopped convoy had met (R65, R67). done: its slots that have completed, which a re-issue passes
over. -/
structure VqEntry where
  pc : Word := 0
  words : List (BitVec 32) := []
  acts : List Act := []
  cells : Tab Nat := []
  results : List Deliver := []
  re : Bool := false
  seq : Nat := 0
  flags : Tab Nat := []
  space : Option (Word × Word × Bool) := none
  done : List Nat := []
  deriving DecidableEq, Repr

/-- A matrix slot in the MQ (R362, R411) with the progress of a stopped `mst` or `mld`. seq: when its convoy committed; space: as in
its VQ entry (R31). -/
structure MqEntry where
  act : Act := {}
  prog : Nat := 0
  seq : Nat := 0
  space : Option (Word × Word × Bool) := none
  deriving DecidableEq, Repr

/-- What a control transfer of the convoy in hand does once the rest of the convoy has taken effect (R155). -/
inductive After where
  | go | syscall (n : BitVec 5) | eret
  deriving DecidableEq, Repr

/-- The convoy in hand (R152): fetched words, the slot reached, the next convoy and the slots captured so far. base: its own
address. sent: those of its non-scalar slots that stand before the slot reached have been committed (R155, R204). -/
structure Conv where
  live : Bool := false
  base : Word := 0
  sent : Bool := false
  words : List (BitVec 32) := []
  slot : Nat := 0
  npc : Word := 0
  acts : List Act := []
  after : After := .go
  deriving DecidableEq, Repr

/-- A fault of a slot on the vector side: its slot, element, cause and `tval`. -/
structure SlotFault where
  slot : Nat := 0
  elem : Nat := 0
  cause : Nat := 0
  tval : Word := 0
  deriving DecidableEq, Repr

/-- A group that a slot writes: the slot, the register or 64 + mask, the width, mul entries for div elements, and the element
at which it started. pack: the mask under which `vcompress` packed it (R247). -/
structure Written where
  slot : Nat := 0
  v : Nat := 0
  w : Nat := 0
  mul : Nat := 1
  div : Nat := 1
  first : Nat := 0
  pack : Option Nat := none
  deriving DecidableEq, Repr

/-- A source of a slot (R405): its first register (64 + m for a mask), its registers, and the width of the elements that are read
with the element of the same number; 0 when others are read too. -/
structure Source where
  v : Nat
  n : Nat := 1
  w : Nat := 0
  deriving DecidableEq, Repr

/-- A walk's end (R24 to R27): a leaf and the log2 of its page's size, a fault, or a table entry where nothing is. -/
inductive Walk where
  | leaf (w : Word) (size : Nat)
  | fault (cause : Nat)
  | hole (pa : Nat)
  deriving DecidableEq, Repr

/-- The vector side at work on a convoy: the slot in hand and its progress cell; the bound that a fault has set (later
slots complete no element at or above it); the lowest fault; a trap at issue; a wait; a fault of an `mst` or `mld`; a
trap to take once the convoy has retired; values to deliver; by slot, those of slots that give none when the convoy traps, and
the registers that whole-result slots have written (R235); the destination groups so far; the groups that slots write; where each
slot started, the prefix that it has completed, and the slots that have completed. ins, outs: what each slot reads and writes;
held: slots that a fault before them has kept back (R405). lims: when the convoy is run again up to its
fault, the elements that its slots may come to. blind: what a slot would have set is not known, so that the checks of those after it
are not made. halted: the slot at which a stop without a trap has come (R409). cover: what the
slot in hand has written of poisoned words and lines, as masks (R37, R39). win, pages: the window of elements in
hand and what the pages that it has touched translate to (R32). flags: what the streams of the convoy have met so
far, by slot: 1 poison, 2 a transfer error (R67). seq: when the convoy committed, for its streams. -/
structure Issue where
  group : Bool := false
  seq : Nat := 0
  act : Act := {}
  cell : Nat := 0
  re : Bool := false
  bound : Option Nat := none
  fault : Option SlotFault := none
  early : Option SlotFault := none
  wait : Option WaitFor := none
  mqFault : Option SlotFault := none
  after : Option SlotFault := none
  results : List Deliver := []
  whole : List (Nat × Deliver) := []
  undoV : List (Nat × Nat) := []
  undo : List Written := []
  dests : List (Nat × Nat) := []
  ins : List (Nat × Source) := []
  outs : List (Nat × Nat × Nat) := []
  held : List Nat := []
  lims : Option (Tab (Option Nat)) := none
  blind : Bool := false
  win : Nat := 0
  pages : List (Nat × Walk) := []
  halted : Option Nat := none
  starts : Tab Nat := []
  cells : Tab Nat := []
  done : List Nat := []
  ringRead : Bool := false
  cover : Tab Nat := []
  flags : Tab Nat := []
  deriving DecidableEq, Repr

/-- The register-group ring (R75). -/
structure Ring where
  vb : Nat := 0
  g : Nat := 1
  n : Nat := 2
  p : Nat := 0
  c : Nat := 0
  occ : Nat := 0
  deriving DecidableEq, Repr

/-- Where an access performs: a physical address or a byte of the core's local window. -/
inductive Loc where
  | pa (a : Nat)
  | tile (off : Nat)
  deriving DecidableEq, Repr

/-- An entry of the store buffer (R45). seq: of a release store that found earlier accesses of the hart unperformed, when it was
made (R172). made: when the store was made; dev: it is one to a page of MT = 1 or 2 (R28). -/
structure SbEntry where
  loc : Loc
  n : Nat
  val : Nat
  seq : Option Nat := none
  made : Nat := 0
  dev : Bool := false
  deriving DecidableEq, Repr

/-- A member of a bound task: a hart or a frame that holds its context. -/
inductive Member where
  | hart (n : Nat)
  | frame (cluster f : Nat)
  deriving DecidableEq, Repr

/-- A task bound to a hart (R196): its queue and the handle that the controller gave it. -/
structure BoundTask where
  queue : Nat := 0
  tid : Nat := 0
  deriving DecidableEq, Repr

/-- A pending interrupt (R402). -/
structure Pending where
  code : Nat
  tval : Word
  deriving DecidableEq, Repr

/-- A lane negotiation in progress (R365): the groups it wants, those that it has marked and waits for, and its stage: 0 to
take groups, 1 waits for marked ones, 2 for any with a lane, 3 complete. since: when it began to wait. -/
structure Neg where
  want : Nat
  since : Nat := 0
  claims : List Nat := []
  stage : Nat := 0
  deriving DecidableEq, Repr

/-- One hart. came: its context has just been put on it by a resume. haltReq: it halts once its queues are empty (R409). fopStop: the slots of
a `fop` that has stopped part-way and is to be re-issued (R297, R298). vwait, vanswer: what the convoy at the head of the VQ
waits for, and what has come for it, while the address processor runs ahead (R362); vsince: since when. ranTask: it has been
bound to a task since its reset (R360). granted: rows have come for a `mattach` that has not completed (R269); rowsDue: the frame
and the number of the rows that its resumed context waits for (R369). pendArrivals: when each arrival that waits
was made (R205). cut: the next `fop`, `mst` or `mld` stops after so many rounds or rows (R274, R298; log 1). ahead: lines of
code that the hart had fetched when another hart emptied the core's instruction cache (R185). seat: the hart whose context it holds,
as a member of that one's gang; none: its own (R367). writing: the write in hand is one that a member of a task made before, and
when (R383). frozenAt: when what stands in the shadow VQ, or in the frozen MQ, was frozen. stopFor: it commits
no more until it is displaced: to give way to the head of a queue, or for another reason (R409). -/
structure Hart where
  status : Status := .noContext
  sregs : Tab Word := []
  spois : Tab Word := []
  vregs : Tab VReg := []
  mregs : Tab (BitVec 8192) := []
  vpois : Tab Bool := []
  mpois : Tab Bool := []
  prog : Tab Nat := []
  cells : Tab Nat := []
  pc : Word := 0
  vl : BitVec 17 := 0
  vtype : Word := 0x8000000000000000
  vstart : BitVec 17 := 0
  lanemod : Nat := 0
  vnreg : Nat := 32
  req : Nat := 0
  neg : Option Neg := none
  fsidx : Tab (BitVec 32) := []
  fstat : Word := 0
  mshape : Word := 0
  rows : Nat := 0
  acc : Tab (BitVec 32768) := []
  accPois : Tab Bool := []
  phase : BitVec 32 := 0
  gerr : Bool := false
  gerrWord : Word := 0
  arrived : Bool := false
  arriveErr : Word := 0
  heldArrivals : List Word := []
  pendArrivals : List Nat := []
  joined : Option (BitVec 32) := none
  trem : BitVec 48 := 0
  tb : Tab Word := []
  tflags : Word := 0
  hstat : Word := 0x9
  cause : Word := 0
  epc : Word := 0
  tval : Word := 0
  vqpos : Word := 0
  tvec : Word := 0
  tscratch : Word := 0
  asid : Word := 0
  ptbase : Word := 0
  ring : Option Ring := none
  strStat : Tab Word := []
  bq : List (Bool × Word) := []
  storeBuf : List SbEntry := []
  cv : Conv := {}
  saved : Conv := {}
  vq : List VqEntry := []
  shadow : List VqEntry := []
  mq : List MqEntry := []
  smq : List MqEntry := []
  iss : Issue := {}
  bound : Option BoundTask := none
  takeMask : Word := 0
  since : Nat := 0
  answer : Option (Word × Word) := none
  vwait : Option WaitFor := none
  vanswer : Option (Word × Word) := none
  vsince : Nat := 0
  ranTask : Bool := false
  granted : Bool := false
  rowsDue : Option (Nat × Nat) := none
  waitPhase : BitVec 32 := 0
  pend : List Pending := []
  came : Bool := false
  fopStop : List Nat := []
  brkHalt : Bool := false
  haltReq : Bool := false
  cut : Option Nat := none
  ahead : Tab (Option (BitVec 1024)) := []
  seat : Option Nat := none
  writing : Option (Member × Nat) := none
  frozenAt : Nat := 0
  stopFor : Option (Option Nat) := none
  deriving DecidableEq, Repr

/-- An entry of a TLB (R29): virtual page, its size (log2 of bytes), the frame and the leaf's attributes. -/
structure TlbEntry where
  core : Nat
  l2 : Bool
  asid : Nat
  vpage : Nat
  size : Nat
  leaf : Word
  deriving DecidableEq, Repr

/-- The leaf by which a page was translated: the log2 of its size, whether it is global, its memory type. -/
structure LeafUse where
  size : Nat := 17
  glob : Bool := false
  mt : Nat := 0
  deriving DecidableEq, Repr

/-- An entry of a core's copy queue (R61, R67) with its two sides in the interlock table (R70): who issued it and when, in
which address space, what its headlands will say, and how far it is. phase 1: retired, its data still to move; 2: its data
moved, its last headland still to come; 3: taken at the commit of a
convoy that has not retired (R61). heads: the status words of the headlands before the last (R66). vl, ew: the elements
that it moves and their width (R63; 1 under the plane width); zrp: its source is compressed. srcAt, dstAt: the frames of the
128 KiB pages of its sides, in order, as they were translated at issue (R32); srcPg, dstPg: the leaves that they took (R28, R31). rows: the rows that its destination takes (R66). gone,
met: the bytes that it had moved before a trap, and what it had met (R65). frame: the save area of a displaced
context; seat: the hart whose context issued it. -/
structure CqEntry where
  hart : Nat := 0
  phase : Nat := 0
  seq : Nat := 0
  asid : Word := 0
  status : Word := 0
  heads : List Word := []
  bar : Bool := false
  xch : Bool := false
  zrp : Bool := false
  src : Word := 0
  dst : Word := 0
  srcAt : List Nat := []
  dstAt : List Nat := []
  srcPg : List LeafUse := []
  dstPg : List LeafUse := []
  rows : Nat := 1
  bytes : Nat := 0
  gone : Nat := 0
  met : Nat := 0
  vl : Nat := 0
  ew : Nat := 8
  frame : Option Nat := none
  seat : Nat := 0
  deriving DecidableEq, Repr

/-- An entry of a core's combining buffer (R230). -/
structure CombEntry where
  pa : Nat
  op : Nat
  n : Nat
  val : Nat
  deriving DecidableEq, Repr

/-- A token on an arc of the fabric (R279): its payload and tag; hl: a headland, whose payload is its status word (R67).
val: the value beside a fibre's coordinate, which is the payload (R93). -/
structure Token where
  pay : Word := 0
  val : Word := 0
  tag : Nat := 0
  hl : Bool := false
  deriving DecidableEq, Repr

/-- What a compute node holds between firings (R283, R284): the running sum, the ordinal, which inputs have ended (A 1, B 2,
C 4), the flags of the headlands met, the tokens sent per port, and how far its own headland is. -/
structure NodeState where
  acc : Word := 0
  begun : Bool := false
  ordinal : Nat := 0
  ended : Nat := 0
  flags : Word := 0
  mism : Bool := false
  fin : Nat := 0
  counts : Tab Nat := []
  deriving DecidableEq, Repr

/-- An entry or a buffer of a memory tile (R91, R446): its tag, its payloads with a fibre's values, and whether it is
closed. -/
structure TileEntry where
  tag : Nat := 0
  toks : List (Word × Word) := []
  closed : Bool := false
  deriving DecidableEq, Repr

/-- What a bound memory tile holds (R91, R94, R446). -/
structure TileState where
  entries : List TileEntry := []
  rows : List (List Word) := []
  part : List Word := []
  out : List Token := []
  pos : Nat := 0
  reps : Nat := 0
  last : Option Nat := none
  next : Option Nat := none
  ended : Nat := 0
  flags : Word := 0
  mism : Bool := false
  count : Nat := 0
  sent : Bool := false
  deriving DecidableEq, Repr

/-- What an edge tile holds (R97 to R102): the next element, how many it may take, the tokens it has sent or written, and a
transform's own buffers, count T and decoder. -/
structure EdgeState where
  idx : Nat := 0
  lim : Nat := 0
  count : Nat := 0
  pos : Nat := 0
  buf : List Word := []
  fifo : List Word := []
  base : Option Word := none
  zrp : Zrp := {}
  mism : Bool := false
  ended : Bool := false
  deriving DecidableEq, Repr

/-- A binding's tokens and storage (R286, R296). live: an invocation has begun and is not over. -/
structure FabRun where
  live : Bool := false
  arcs : Tab (Option Token) := []
  nodes : Tab NodeState := []
  tiles : Tab TileState := []
  edges : Tab EdgeState := []
  out : Nat := 0
  vdDone : Bool := false
  deriving DecidableEq, Repr

/-- An entry of a core's opcode slot table (R288): the image as loaded, and a stopped invocation with its owner, and the
bases and address space that its edges use (R31). -/
structure FabSlot where
  valid : Bool := false
  asid : Nat := 0
  addr : Nat := 0
  bytes : Nat := 0
  vaddr : Word := 0
  image : List Word := []
  run : FabRun := {}
  owner : Option Nat := none
  tb : Tab Word := []
  ptbase : Word := 0
  hstat : Word := 0
  deriving DecidableEq, Repr

/-- One core's shared state. icache: the 128-byte lines of its instruction cache (R44); dcache: the lines that its scalar data
cache holds, whose bytes are those of memory (R42, R43). -/
structure Core where
  lanefal : Word := 0
  owners : Tab Nat := []
  marks : Tab Bool := []
  cq : Tab CqEntry := []
  comb : List CombEntry := []
  slots : Tab FabSlot := []
  icache : Tab (Option (BitVec 1024)) := []
  dcache : List Nat := []
  retired : Bool := false
  cycle : Word := 0
  deriving DecidableEq, Repr

/-- A record in a queue (R192, R194): its address as posted, its bytes; for a yielded task (R200), the task's handle.
What its lookup found (R381): whether it has been looked up, whether it may be inserted, its tenant and key, the spans
that it was digested from and those of its output ranges. -/
structure QRec where
  addr : Word := 0
  bytes : List Byte := []
  yielded : Option Nat := none
  looked : Bool := false
  insertable : Bool := false
  tenant : Nat := 0
  key : Nat := 0
  spans : List (Nat × Nat) := []
  outs : List (Nat × List (Nat × Nat)) := []
  deriving DecidableEq, Repr

/-- A task queue (R372 to R374). addrs: the addresses as posted of the records in the ring, oldest first. -/
structure Queue where
  ctl : Word := 0
  ring : Word := 0
  ptb : Word := 0
  fva : Word := 0
  spf : Bool := false
  onchip : List QRec := []
  reserve : Option QRec := none
  head : Nat := 0
  spilled : Nat := 0
  addrs : List Word := []
  nextTid : Nat := 0
  deriving DecidableEq, Repr

/-- A task that has started (R196 to R200). owing: members that have ended their part, with when, while accesses that they had
made were not over (R199). -/
structure Task where
  rc : QRec := {}
  e : Nat := 0
  trem : Nat := 0
  demoted : Bool := false
  members : List Member := []
  owing : List (Member × Nat) := []
  deriving DecidableEq, Repr

/-- A frame of a cluster's pool (R411, R415): free, listed or held; or its context has resumed and its rows are still to be
restored (R369). -/
inductive FrameUse where
  | free | listed | held | resuming
  deriving DecidableEq, Repr

/-- A displaced context beside its image in memory: what R411's layout has no place for. conv: the convoy in hand, whose
earlier slots have taken effect or been captured; saved: the convoy that a trap has left. shapes: `mshape` of the matrix slots
in its shadow VQ, and flags: what their streams had met, at 4 × entry + slot (R270, R65). owed: the values of its slots that have
completed, which are delivered as their convoys retire (R235), by entry; dones: those slots; seqs: when its shadow convoys
committed; mqs: its MQ entries; opens: the times of their first slots that have not completed; frozenAt: when they stopped; lefts, pasts: the values that scalar slots have left in
them for vector-side registers, and Act.past of such slots, at 4 × entry + slot (R7, R363); more: its shadow convoys after the 32 that
the image has room for (R362, R413; log 100). fops: what `fop` slots its hart had stopped part-way (R298); trem: as the image has it; since: when it was displaced. barrier: the context's gang
barrier, as fields of a hart; seat: the hart whose context it is; stores: release stores of its that wait. marks, condMarks: the poison marks of its scalar registers and of
its conditions (R39). -/
structure FrameSt where
  use : FrameUse := .free
  prio : Nat := 0
  home : Nat := 0
  target : Option Nat := none
  queue : Nat := 0
  tid : Nat := 0
  bound : Bool := false
  rows : Nat := 0
  acc : Tab (BitVec 32768) := []
  accPois : Tab Bool := []
  inHandler : Bool := false
  taking : Bool := false
  conv : Conv := {}
  saved : Conv := {}
  shapes : Tab Word := []
  flags : Tab Nat := []
  owed : List (List Deliver) := []
  dones : List (List Nat) := []
  seqs : List Nat := []
  mqs : List MqEntry := []
  opens : List Nat := []
  frozenAt : Nat := 0
  lefts : Option (Tab (Option Word)) := none
  pasts : Tab Bool := []
  more : List VqEntry := []
  fops : Option (List Nat) := none
  trem : Option Word := none
  since : Nat := 0
  barrier : Option Hart := none
  seat : Option Nat := none
  stores : List SbEntry := []
  marks : Tab Word := []
  condMarks : List Word := []
  deriving DecidableEq, Repr

/-- One cluster's task controller (R370 to R372, R415). -/
structure Cluster where
  cirq : Word := 0
  ctxbase : Word := 0
  ctxn : Word := 0
  dentry : Word := 0
  cmd : Word := 0
  rr : Tab Nat := []
  frames : Tab FrameSt := []
  resumeList : List Nat := []
  refused : Tab Bool := []
  gid : Tab Nat := []
  deriving DecidableEq, Repr

/-- One entry of the reuse table (R383). digests: those of its output ranges, by base. -/
structure ReuseEntry where
  tenant : Nat
  key : Nat
  spans : List (Nat × List (Nat × Nat))
  value : Word
  age : Nat
  digests : List (Nat × Nat) := []
  deriving DecidableEq, Repr

/-- What the reuse block holds for one tenant (R377, R386). -/
structure Tenant where
  salt : List Word := [0, 0, 0, 0]
  staged : List Word := [0, 0, 0, 0]
  quota : Nat := 0
  hits : Nat := 0
  misses : Nat := 0
  deriving DecidableEq, Repr

/-- An entry of a die's digest cache (R380): a leaf's place, its length and its digest. -/
structure LeafDigest where
  die : Nat
  pa : Nat
  len : Nat
  digest : Nat
  deriving DecidableEq, Repr

/-- The reuse block (R386) and the tables of both dies (R384). -/
structure Reuse where
  ctl : Word := 0
  sel : Nat := 0
  tenants : Tab Tenant := []
  entries : List ReuseEntry := []
  leaves : List LeafDigest := []
  clock : Nat := 0
  deriving DecidableEq, Repr

/-- A host channel (R436, R437), ingress or egress. -/
structure Channel where
  ctl : Word := 0
  refused : Bool := false
  lfault : Bool := false
  prod : BitVec 32 := 0
  cons : BitVec 32 := 0
  tokens : List (BitVec 32 × BitVec 32) := []
  rbase : Word := 0
  irqs : Nat := 0
  deriving DecidableEq, Repr

/-- A message that the management core has sent (R439). -/
structure Msg where
  seq : BitVec 32
  type : Nat
  tag : BitVec 16
  payload : List Byte
  deriving DecidableEq, Repr

/-- The management core's own state (R439 to R445): the SEQ it expects and sends next, the rings, the messages that the host
has not acknowledged, the node map, steps of the clock taken off, events counted and not sent, the corrected errors of each stack (R36), the cause of a fatal
stop. steps: the steps of R443 that the cold start has come through; sideband: what has been reported over the UCIe sideband (R441).
held: the dies are in reset; stopped: every core is stopped for heat; dumpRel: the dump region is released;
hextNext: an extent for the next warm reset; mgmtHart: the hart that firmware's messages go to, hartSeq their numbers, told the
messages with the cluster and the frame that each names (R111). -/
structure Mgmt where
  expect : BitVec 32 := 0
  next : BitVec 32 := 0
  rings : Option (Nat × Nat) := none
  hextNext : Option Nat := none
  sent : List Msg := []
  node : BitVec 12 := 0
  nodeSet : List (BitVec 12) := []
  poolSet : List (BitVec 12) := []
  reach : List (BitVec 12) := []
  clockStep : Nat := 0
  events : Tab Nat := []
  corrected : Tab Nat := []
  fatal : Option FatalCause := none
  steps : Nat := 6
  sideband : List Nat := []
  held : Bool := false
  stopped : Bool := false
  dumpRel : Bool := false
  mgmtHart : Nat := 0
  hartSeq : BitVec 32 := 0
  told : List (BitVec 32 × Nat × Nat) := []
  deriving DecidableEq, Repr

/-- What a collective does in its context (R318 to R320). -/
inductive CollRole where
  | send | recv | red
  deriving DecidableEq, Repr

/-- A tile's exponent entry as it comes from one input (R319, R324): X, NAN 1, SAT 2 and POISON 4, the contributions, w, G. -/
structure ExpEntry where
  x : Nat
  flags : Nat
  ncon : Nat
  w : Nat
  g : Nat
  deriving DecidableEq, Repr

/-- What a reducer holds from one of its children: exponent entries by tile, digits by 16 × tile + round (plane b at bit
256 b), and whether its end flit has come. -/
structure CollInput where
  exps : Tab (Option ExpEntry) := []
  digits : Tab (Option (BitVec 1280)) := []
  ended : Bool := false
  deriving DecidableEq, Repr

/-- A tile of the node's own data, converted (R308): X, the flags, the mantissas modulo 2^16. -/
structure OwnTile where
  x : Nat := 0
  flags : Nat := 0
  mants : List Nat := []
  deriving DecidableEq, Repr

/-- A context of a collective engine (R315 to R322). slots: where each 128-byte unit of the slots lies, in order, per of them
to a slot. exps: the tiles whose exponent entries have been sent or have landed are those below it. win, q, tile: the
round that is to be sent or to land next. pcs: the rounds sent or landed; flags; ends: ERR, XMIS, DONE, CANCELLED and
LINK as the header has them; dirty: software has written the slot. rounds: sent, by window. outDone: the consumers that
have been sent the end flit; downCancel: those that have cancelled. -/
structure CollCtx where
  live : Bool := false
  role : CollRole := .send
  asid : Nat := 0
  cid : Nat := 0
  w : Nat := 4
  g : Nat := 0
  ntot : Nat := 1
  ntile : Nat := 1
  xf : Nat := 0
  peer : Nat := 0
  children : List Nat := []
  forwards : List Nat := []
  slots : List Nat := []
  per : Nat := 1
  own : List OwnTile := []
  inputs : Tab CollInput := []
  exps : Nat := 0
  win : Nat := 0
  q : Nat := 0
  tile : Nat := 0
  pcs : Tab Nat := []
  flags : Tab Nat := []
  ends : Tab Nat := []
  dirty : Tab Bool := []
  rounds : Tab Nat := []
  cancelled : Bool := false
  upSent : Bool := false
  downCancel : List Nat := []
  outDone : List Nat := []
  stop : Bool := false
  deriving DecidableEq, Repr

/-- A Kraha port (R324 to R326): the SEQ it sends next and expects next, the flits sent and not acknowledged, the flits that
wait for a context, those that wait for room in the replay buffer (due), the replays of its own flits and those that it has
asked for without progress, and what firmware counts. -/
structure Port where
  seq : BitVec 32 := 0
  rxNext : BitVec 32 := 0
  replay : List Flit := []
  held : List Flit := []
  due : List Flit := []
  replays : Nat := 0
  asks : Nat := 0
  retraining : Bool := false
  down : Bool := false
  nReplays : Nat := 0
  nRetrains : Nat := 0
  nFailures : Nat := 0
  deriving DecidableEq, Repr

/-- A deferred `fut.ld` (R50). -/
structure Deferred where
  hart : Nat
  pa : Nat
  d : Nat
  b : Nat
  deriving DecidableEq, Repr

/-- A soft error (R35, R36, R39): a corrected one, of stack k of HBM or on the die; a double-bit error in the data of an array:
a line, a word of a tile of a core, a 64-bit word of a vector register, mask register or accumulator of a hart; one in a tag or
a queue entry. -/
inductive Upset where
  | corrected (stack : Option Nat)
  | line (pa : Nat)
  | tileWord (core off : Nat)
  | vector (hart v word : Nat)
  | mask (hart m word : Nat)
  | acc (hart tile row word : Nat)
  | tag
  deriving DecidableEq, Repr

/-- What reaches the machine from outside its current hart (log 1): an event row of the opcode table, the turn of another
hart, a stop that lands inside a long instruction of the current hart (R298), a soft error, an idle flit that a port receives
or sends (R324), what another device writes to pool memory while this one's L2 holds the line (R336), a RESYNC that the management core
sends, or its delivery setting for messages to a supervisor (R439). -/
inductive Input where
  | event (i : Instr)
  | turn (hart : Nat)
  | cut (n : Nat)
  | upset (u : Upset)
  | idleIn (port : Nat) (flit : Flit)
  | idleOut (port : Nat)
  | pool (pa : Nat) (bytes : List Byte)
  | resync
  | delivery (hart : Nat)
  deriving DecidableEq, Repr

/-- The machine. hart is the hart numbered hn; parked holds the others. mem: memory as the agents of this device see it through
the L2. far: the bytes of pool memory that another device has written while this one's L2 held their line (R336). -/
structure State where
  hart : Hart
  hn : Nat
  parked : Tab Hart
  mem : List Host.Cell
  linePois : Tab Bool
  full : Tab Bool
  far : Tab (Option Byte)
  tiles : Tab Byte
  tilePois : Tab Bool
  tileMode : Tab Nat
  cores : Tab Core
  quads : Tab Nat
  clusters : Tab Cluster
  queues : Tab Queue
  tasks : Tab Task
  tlb : List TlbEntry
  deferred : List Deferred
  reuse : Reuse
  ingress : Tab Channel
  egress : Tab Channel
  mgmt : Mgmt
  colls : Tab CollCtx
  ports : Tab Port
  cxlLen : Tab Nat
  hext : Nat
  time : Word
  order : Nat
  free : Nat
  inputs : List Input
  stop : Option Fault
  deriving DecidableEq, Repr

/-- What an unlisted byte of memory reads as: HBM is scrubbed to zero (R34); for CXL and host memory the same value is
DESIGN CHOICE (log 3). -/
def memDefault : Byte := Config.unwritten

/-- The canonical form of memory. -/
abbrev Memory.wf (m : List Host.Cell) : Prop := Tab.wf memDefault m = true

/-- The machine after a cold start (R443): every hart reset under R108 and R117 and holding no context, memory scrubbed,
every queue empty. The current hart is hart 0 (log 1). -/
def State.reset : State where
  hart := {}
  hn := 0
  parked := []
  mem := []
  linePois := []
  full := []
  far := []
  tiles := []
  tilePois := []
  tileMode := []
  cores := []
  quads := []
  clusters := []
  queues := []
  tasks := []
  tlb := []
  deferred := []
  reuse := {}
  ingress := []
  egress := []
  mgmt := {}
  colls := []
  ports := []
  cxlLen := []
  hext := 0
  time := 0
  order := 0
  free := 0
  inputs := []
  stop := none

end Sys2Proof.Machine
end

