-- ==== Sys2Proof/Machine/Flags.lean ====
section
/-! DEFINITION. Status words and the lengths that follow from them: `hstat`, `vtype`, VLMAX, the largest `vl`, cause
codes (R106, R112, R119, R402). -/

namespace Sys2Proof.Machine

/-- Exception codes of `cause` (R402). -/
def cIllegal : Nat := 1
def cConvoy : Nat := 2
def cOperand : Nat := 3
def cVtype : Nat := 4
def cFormat : Nat := 5
def cPrivilege : Nat := 6
def cSyscall : Nat := 7
def cBreak : Nat := 8
def cBqEmpty : Nat := 9
def cMisaligned : Nat := 10
def cPitch : Nat := 11
def cNoncanon : Nat := 12
def cPageInvalid : Nat := 13
def cPageMalformed : Nat := 14
def cPagePerm : Nat := 15
def cTileBound : Nat := 16
def cPoison : Nat := 17
def cPoisonArrival : Nat := 18
def cStreamLength : Nat := 19
def cLength : Nat := 20
def cPurity : Nat := 21
def cTaskState : Nat := 22
def cChannel : Nat := 23
def cMatrix : Nat := 24
def cFabSlot : Nat := 25
def cFabState : Nat := 26
def cFibre : Nat := 27
def cFabTag : Nat := 28

/-- Sets or clears bit i of a word. -/
def setBit (w : Word) (i : Nat) (b : Bool) : Word :=
  if b then w ||| BitVec.ofNat 64 (2 ^ i) else w &&& ~~~ BitVec.ofNat 64 (2 ^ i)

/-- Supervisor mode (R119). -/
def Hart.sup (h : Hart) : Bool := wbit h.hstat 0
/-- Interrupts enabled. -/
def Hart.ie (h : Hart) : Bool := wbit h.hstat 2
/-- Pure mode: PMODE (R119). -/
def Hart.pmode (h : Hart) : Bool := wbit h.hstat 5
/-- Resume pending: VRES (R114). -/
def Hart.vres (h : Hart) : Bool := wbit h.hstat 7

/-- `hstat` on entry to a handler (R182): PIE := IE, PSUP := SUP, IE := 0, SUP := 1. -/
def hstatTrap (w : Word) : Word :=
  setBit (setBit (setBit (setBit w 4 (wbit w 2)) 3 (wbit w 0)) 2 false) 0 true

/-- `hstat` after `eret` (R183): SUP := PSUP, IE := PIE; both saved bits stay. -/
def hstatEret (w : Word) : Word := setBit (setBit w 0 (wbit w 3)) 2 (wbit w 4)

/-- VLMAX in bits (R106): 0 while no lane group is granted (R117). -/
def vlmaxOf (lanemod vnreg : Nat) : Nat :=
  if lanemod = 0 ∨ vnreg = 0 then 0 else Nat.min 65536 (pow2Floor (lanemod * 32768 / vnreg))

/-- The hart's VLMAX. -/
def Hart.vlmax (h : Hart) : Nat := vlmaxOf h.lanemod h.vnreg

/-- `vtype`.vill. -/
def Hart.vill (h : Hart) : Bool := wbit h.vtype 63
/-- The EW code of `vtype`: 0 to 3 for 8 to 64 bits, 4 for the plane width. -/
def Hart.ewCode (h : Hart) : Nat := wfld h.vtype 0 3
/-- The plane width is selected. -/
def Hart.plane (h : Hart) : Bool := h.ewCode = 4
/-- The element width in bits; 1 under the plane width (R112). -/
def ewBits (code : Nat) : Nat := if code = 4 then 1 else 8 * 2 ^ code
/-- sew of R215 and R232. -/
def Hart.sew (h : Hart) : Nat := ewBits h.ewCode
/-- The group size g = 2^GRP. -/
def Hart.grp (h : Hart) : Nat := 2 ^ wfld h.vtype 3 2

/-- A width and group size that R112 supports. -/
def vtypeOk (ty : Nat) : Bool :=
  let ew := fld ty 0 3; let g := 2 ^ fld ty 3 2
  if ew < 4 then decide (g * 8 ≤ 8 * 2 ^ ew) else decide (ew = 4 ∧ g = 1)

/-- `vtype` with the low five bits ty; vill when unsupported or when bad is set (R119, R210). -/
def mkVtype (ty : Nat) (bad : Bool) : Word :=
  setBit (word (fld ty 0 5)) 63 (bad || !vtypeOk ty)

/-- L, the largest `vl` of R112 and R210: VLMAX under the plane width, else g × VLMAX / ew. -/
def maxVl (vlmax ty : Nat) : Nat :=
  if fld ty 0 3 = 4 then vlmax else 2 ^ fld ty 3 2 * vlmax / ewBits (fld ty 0 3)

/-- The largest `vl` for the hart's own `vtype`. -/
def Hart.maxVl (h : Hart) : Nat := Sys2Proof.Machine.maxVl h.vlmax h.vtype.toNat

/-- Active lanes of a set of lane groups, given the core's fallow lanes (R109). -/
def activeLanes (groups fal : Nat) : Nat :=
  loop (fun l n => n + b2n (nbit groups (l / 4) && !nbit fal l)) 0 64 0

/-- The remap table of a hart: the active lanes of its groups, in ascending order (R109). -/
def remapTable (groups fal : Nat) : List Nat := (range 0 64).filter (fun l => nbit groups (l / 4) && !nbit fal l)

/-- Where element i of width ew lies (R109): the physical lane and the row of its lane word, and its bit offset there. Nothing
that a hart computes depends on it (R110). -/
def elementPlace (groups fal ew i : Nat) : Nat × Nat × Nat :=
  let w := i * ew / 64
  let m := activeLanes groups fal
  (nth 0 (remapTable groups fal) (w % m), w / m, i * ew % 64)

/-- The signed number of a register word. -/
def sgn (w : Word) : Int := w.toInt

end Sys2Proof.Machine
end

