-- ==== Sys2Proof/Machine/Words.lean ====
section
/-! DEFINITION. What a convoy's words name, read off their fields (R146, R147, R149, R152, R153). -/

namespace Sys2Proof.Machine

def majOf (w : Nat) : Nat := fld w 26 6

/-- R152: scalar slots are majors 0x00 to 0x1D, and 0x1F except `fence` and `drain`. -/
def isScalarWord (w : Nat) : Bool :=
  decide (majOf w ≤ 0x1D) || (majOf w = 0x1F && fld w 0 7 != 16 && fld w 0 7 != 17)

/-- `fence` and `drain` (R190). -/
def isFenceWord (w : Nat) : Bool := majOf w = 0x1F && (fld w 0 7 = 16 || fld w 0 7 = 17)

/-- R153: branch, `jal`, `jalr`, `bq`, `bq.not`, `trap`, `brk` or `eret`. -/
def isControlWord (w : Nat) : Bool :=
  decide (0x14 ≤ majOf w ∧ majOf w ≤ 0x1C) || (majOf w = 0 && (fld w 0 7 = 1 || fld w 0 7 = 2 || fld w 0 7 = 4))

/-- A `ctl.wr`, `ctl.set` or `ctl.clr` of `vl`, `vtype` or `vstart`. -/
def isLenCtl (w : Nat) : Bool := majOf w = 0x1D && fld w 14 2 != 0 && decide (fld w 0 12 ≤ 2)

/-- The control registers that belong to the vector side and can be written (R120). -/
def isVecCtlReg (r : Nat) : Bool := decide (r ≤ 2) || decide (8 ≤ r ∧ r ≤ 12) || r = 0x11

/-- The vector-side registers of R120 that a read waits for. -/
def isVecReadReg (n : Nat) : Bool := isVecCtlReg n || decide (3 ≤ n ∧ n ≤ 6)

/-- A `ctl.rd` of a vector-side register (R363). -/
def isCtlRead (w : Nat) : Bool := majOf w = 0x1D && fld w 14 2 = 0 && isVecReadReg (fld w 0 12)

/-- A `ctl.wr`, `ctl.set` or `ctl.clr` of a vector-side register. -/
def isVecCtl (w : Nat) : Bool := majOf w = 0x1D && fld w 14 2 != 0 && isVecCtlReg (fld w 0 12)

/-- `strip.grant`. -/
def isStripGrant (w : Nat) : Bool := majOf w = 0x1F && fld w 0 7 = 4

/-- R152 and R219: the slots that set `vl`, `vtype` or `vstart`. -/
def setsLen (w : Nat) : Bool :=
  (majOf w = 0x1E && decide (fld w 8 3 ≤ 2)) || isStripGrant w || majOf w = 0x36
    || (majOf w = 0x2F && fld w 0 3 = 3) || isLenCtl w

/-- `vdecl` and `vdecl.buf`. -/
def isVdecl (w : Nat) : Bool := majOf w = 0x1E && decide (4 ≤ fld w 8 3)

/-- The vector register that a word names as destination (R153 code 3). -/
def destV (w : Nat) : Option Nat :=
  let vd := fld w 20 6
  let m := majOf w
  if 0x22 ≤ m ∧ m ≤ 0x28 ∨ (m = 0x29 ∧ fld w 0 2 = 0) ∨ (m = 0x2A ∧ 9 ≤ fld w 0 5) ∨ (m = 0x2B ∧ fld w 0 5 ≠ 4)
      ∨ m = 0x2C ∨ m = 0x2D ∨ m = 0x2E ∨ m = 0x2F ∨ (m = 0x31 ∧ fld w 0 3 = 1) ∨ (m = 0x34 ∧ fld w 5 1 = 0) then
    some vd
  else if m = 0x36 then some (fld w 16 6)
  else none

/-- The mask register that a word names as destination. -/
def destM (w : Nat) : Option Nat :=
  let m := majOf w
  if (m = 0x29 ∧ fld w 0 2 = 1) ∨ (m = 0x2A ∧ (fld w 0 5 ≤ 5 ∨ fld w 0 5 = 8)) then some (fld w 20 3) else none

/-- The vector registers that a word names (R108, R156); the vb of MX stands for vb to vb + 7. -/
def namedV (w : Nat) : List Nat :=
  let m := majOf w
  let vd := fld w 20 6; let va := fld w 14 6; let vb := fld w 8 6
  let fn := fld w 0 5
  if m = 0x22 ∨ (0x26 ≤ m ∧ m ≤ 0x28) ∨ m = 0x2E then [vd, va, vb]
  else if m = 0x23 ∨ m = 0x24 ∨ m = 0x25 ∨ m = 0x2C ∨ m = 0x2D then [vd, va]
  else if m = 0x29 then (if fld w 0 2 = 1 then [va, vb] else [vd, va])
  else if m = 0x2A then
    (if fn ≤ 1 then [va, vb] else if fn ≤ 8 then [] else if fn ≤ 10 then [vd, va] else [vd])
  else if m = 0x2B then
    (if fn = 0 ∨ fn = 7 then [vd, va, vb] else if fn = 3 ∨ fn = 5 then [vd] else if fn = 4 then [va] else [vd, va])
  else if m = 0x2F then (if fld w 0 3 = 2 then [vd, fld w 9 6] else [vd])
  else if m = 0x30 then (if fld w 0 3 = 2 ∨ fld w 0 3 = 3 then [vd, fld w 9 6] else [vd])
  else if m = 0x31 then [vd]
  else if m = 0x34 then [vd, fld w 9 6]
  else if m = 0x35 then (if fld w 0 6 ≤ 1 then [fld w 18 6, fld w 12 6 + 7] else [])
  else if m = 0x36 then [fld w 16 6, fld w 10 6, fld w 4 6]
  else []

/-- A store on the vector side, a combining atomic among them: its prefix is kept in the slot's store-progress cell (R114). -/
def isStoreWord (w : Nat) : Bool :=
  majOf w = 0x30 || majOf w = 0x20 || (majOf w = 0x31 && fld w 0 3 = 0) || (majOf w = 0x34 && fld w 5 1 = 1) || majOf w = 0x35

/-- The kinds of access that a non-scalar slot makes, as `fence` names them (R203): 1 loads, 2 stores, 4 streams, 8 fabric, 16
matrix. -/
def accessKinds (w : Nat) : Nat :=
  let m := majOf w
  if m = 0x2F then 1
  else if m = 0x30 then 2
  else if m = 0x31 then (if fld w 0 3 = 0 then 2 else 1)
  else if m = 0x34 ∨ m = 0x21 then 3
  else if m = 0x20 then (if fld w 0 3 ≤ 3 then 4 else 0)
  else if m = 0x36 ∨ m = 0x37 then 8
  else if m = 0x35 ∧ (fld w 0 6 = 3 ∨ fld w 0 6 = 4) then 16
  else 0

/-- The scalar registers that a scalar slot reads or writes (R147); fields that a word lacks are 0 and name s0. -/
def scalarRegs (w : Nat) : List Nat :=
  let m := majOf w
  let d := fld w 21 5; let a := fld w 16 5; let b := fld w 11 5
  if (1 ≤ m ∧ m ≤ 3) ∨ (0x10 ≤ m ∧ m ≤ 0x13) ∨ m = 0x1F then [d, a, b]
  else if m = 0 then (if fld w 0 7 = 6 then [a, b] else if fld w 0 7 = 7 then [a] else [])
  else if m = 0x0B ∨ m = 0x1A then [d]
  else if m = 0x1C then []
  else [d, a]

/-- `vsetvl`, `vsetvli` and `gsetvl` (R210, R211). -/
def isGrantWord (w : Nat) : Bool := majOf w = 0x1E && decide (fld w 8 3 ≤ 2)

/-- `mattach` and `mdetach` (R269). -/
def isAttachWord (w : Nat) : Bool := majOf w = 0x35 && (fld w 0 6 = 8 || fld w 0 6 = 9)

/-- A matrix slot of the MQ (R362). -/
def isMatrixWord (w : Nat) : Bool := majOf w = 0x35 && !isAttachWord w

/-- The vector, mask (64 + m) and scale registers that a matrix slot reads, with its format word (R275). -/
def matrixReads (w : Nat) (fmt : Nat) : List (Nat × Nat) :=
  if fld w 0 6 ≤ 1 then
    [(fld w 18 6, 1), (fld w 12 6, 8)] ++ (if fld w 9 3 = 0 then [] else [(64 + fld w 9 3, 1)])
      ++ (if fld fmt 18 2 = 1 then [(fld fmt 24 6, 1)] else []) ++ (if fld fmt 20 2 = 1 then [(fld fmt 24 6 + 1, 1)] else [])
  else if fld w 9 3 = 0 then []
  else [(64 + fld w 9 3, 1)]

/-- A slot of the majors for which a convoy takes an entry of the VQ (R362). -/
def takesVq (w : Nat) : Bool := majOf w = 0x1E || decide (0x21 ≤ majOf w ∧ majOf w ≤ 0x36)

/-- A moving stream (R223). -/
def isStream (w : Nat) : Bool := majOf w = 0x20 && decide (fld w 0 3 ≤ 3)

/-- A slot that produces a condition for the BQ (R177). -/
def producesCond (w : Nat) : Bool := majOf w = 0x2A && (fld w 0 5 = 6 || fld w 0 5 = 7) && fld w 20 5 = 0

/-- A slot whose result reaches a scalar register through the RQ (R363), with that register. -/
def producesReg (w : Nat) : Option Nat :=
  let m := majOf w
  if m = 0x1E ∧ fld w 8 3 ≤ 2 ∨ (m = 0x20 ∧ fld w 0 3 = 4) ∨ m = 0x21 ∨ (m = 0x37 ∧ fld w 0 4 = 0) then some (fld w 21 5)
  else if (m = 0x2A ∧ (fld w 0 5 = 6 ∨ fld w 0 5 = 7)) ∨ (m = 0x2B ∧ fld w 0 5 = 4) then some (fld w 20 5)
  else if isCtlRead w then some (fld w 21 5)
  else none

/-- The fields that capture scalar registers for a non-scalar slot (R105, R413): sa, another scalar register, the format
register. A field the word lacks captures s0. -/
def captures (w : Nat) : Nat × Nat × Nat :=
  let m := majOf w
  if m = 0x1E ∨ m = 0x20 ∨ m = 0x21 ∨ m = 0x37 then (fld w 16 5, if m = 0x1E ∨ m = 0x20 then fld w 11 5 else 0, 0)
  else if m = 0x23 ∨ m = 0x2D then (0, fld w 9 5, 0)
  else if (0x26 ≤ m ∧ m ≤ 0x29) then (0, 0, 24 + fld w 2 3)
  else if m = 0x2C then (0, 0, if fld w 0 2 = 0 then 24 + fld w 2 3 else 0)
  else if m = 0x2B then (0, if 1 ≤ fld w 0 5 ∧ fld w 0 5 ≤ 5 then fld w 8 5 else 0, 0)
  else if m = 0x2E then (0, 0, 24 + fld w 0 2)
  else if m = 0x2F ∨ m = 0x30 then
    (fld w 15 5, if fld w 0 3 = 1 ∨ fld w 0 3 = (if m = 0x2F then 4 else 5) then fld w 9 5 else 0, 0)
  else if m = 0x31 ∨ m = 0x34 then (fld w 15 5, 0, 0)
  else if m = 0x35 then
    (if fld w 0 6 = 3 ∨ fld w 0 6 = 4 then fld w 18 5 else 0, 0, if fld w 0 6 ≤ 1 then 24 + fld w 6 3 else 0)
  else (0, 0, 0)

end Sys2Proof.Machine
end

