-- ==== Sys2Proof/Machine/Ops.lean ====
section
/-! DEFINITION. Named operations over harts, registers and traps (R104, R182, R183, R402 to R409). -/

namespace Sys2Proof.Machine

/-- A meaning's answer: the next state, or the fault that an access to no address has recorded (log 15). -/
def done (s : State) : Host.Outcome State Fault Refusal :=
  match s.stop with
  | none => .next s
  | some f => .fault f

/-- Records the first access to no address. -/
def halt (pa : Nat) (s : State) : State :=
  match s.stop with
  | none => { s with stop := some (.noSuchAddress pa) }
  | some _ => s

/-- Changes the current hart. -/
def updH (f : Hart → Hart) (s : State) : State := { s with hart := f s.hart }

/-- Changes the convoy in hand. -/
def updCv (f : Conv → Conv) (s : State) : State := updH (fun h => { h with cv := f h.cv }) s

/-- Changes the vector side's work. -/
def updIss (f : Issue → Issue) (s : State) : State := updH (fun h => { h with iss := f h.iss }) s

/-- The progress mark of a slot that has completed: above every element index. -/
def complete : Nat := 131071

/-- Slot k of the convoy has completed. -/
def slotDone (e : VqEntry) (k : Nat) : Bool := e.done.contains k || Tab.get 0 e.cells k = complete

/-- A scalar slot that has left a value in a vector-side register (R120). -/
def isSetCtl (a : Act) : Bool := isVecCtl a.w.toNat || isStripGrant a.w.toNat

/-- A slot of the scalar side: one of those, or a `ctl.rd` that waits (R363). -/
def isScalarAct (a : Act) : Bool := isSetCtl a || isCtlRead a.w.toNat

/-- The time of the first slot of a convoy that has not completed, as its accesses have theirs (log 47). -/
def VqEntry.openAt (e : VqEntry) : Option Nat :=
  (e.acts.find? (fun a => !isScalarAct a && !slotDone e a.slot)).map (fun a => e.seq + a.slot)

/-- What the hart freezes now, it freezes at time k, unless it has frozen something already. -/
def freezeAt (k : Nat) (h : Hart) : Hart := if h.shadow.isEmpty && h.smq.isEmpty then { h with frozenAt := k } else h

/-- The address space in which the hart stands (R31). -/
def Hart.here (h : Hart) : Word × Word × Bool := (h.asid, h.ptbase, h.sup)

/-- An MQ entry keeps its space, or that of the hart, which goes on in another (R31; log 114). -/
def MqEntry.under (h : Hart) (e : MqEntry) : MqEntry := { e with space := some (e.space.getD h.here) }

/-- The hart changes `asid`, `ptbase` or `hstat`.SUP: the convoys that have committed keep the old ones (R31). -/
def keepSpace (h : Hart) : Hart :=
  { h with
    vq := h.vq.map (fun e => { e with space := some (e.space.getD h.here) })
    mq := h.mq.map (MqEntry.under h) }

/-- The hart in the space of an entry of its queues, where it has one of its own (R31). -/
def inSpace (x : Option (Word × Word × Bool)) (s : State) : State :=
  match x with
  | none => s
  | some (a, p, u) => updH (fun h => { h with asid := a, ptbase := p, hstat := setBit h.hstat 0 u }) s

/-- R12. -/
def coreOf (hn : Nat) : Nat := hn / 8
def quadOf (hn : Nat) : Nat := hn / 32
def clusterOf (hn : Nat) : Nat := hn / 128
def dieOf (hn : Nat) : Nat := hn / 640

/-- Harts of the device. -/
def nHarts : Nat := 1280

/-- Hart n, wherever it is held. -/
def getHart (s : State) (n : Nat) : Hart := if n = s.hn then s.hart else Tab.get {} s.parked n

/-- Changes hart n. -/
def setHart (n : Nat) (h : Hart) (s : State) : State :=
  if n = s.hn then { s with hart := h } else { s with parked := Tab.set {} s.parked n h }

/-- Applies f to hart n. -/
def modHart (n : Nat) (f : Hart → Hart) (s : State) : State := setHart n (f (getHart s n)) s

/-- Makes hart n the current one. -/
def switchTo (n : Nat) (s : State) : State :=
  if n = s.hn then s
  else
    { s with
      hart := Tab.get {} s.parked n
      hn := n
      parked := Tab.set {} (Tab.set {} s.parked n {}) s.hn s.hart }

/-- Does f with hart n as the current one. -/
def asHart (n : Nat) (f : State → State) (s : State) : State := switchTo s.hn (f (switchTo n s))

/-- Core c. -/
def getCore (s : State) (c : Nat) : Core := Tab.get {} s.cores c
def modCore (c : Nat) (f : Core → Core) (s : State) : State := { s with cores := Tab.modify {} s.cores c f }
/-- The current hart's core. -/
def myCore (s : State) : Nat := coreOf s.hn
def getCluster (s : State) (k : Nat) : Cluster := Tab.get {} s.clusters k
def modCluster (k : Nat) (f : Cluster → Cluster) (s : State) : State :=
  { s with clusters := Tab.modify {} s.clusters k f }
def getQueue (s : State) (q : Nat) : Queue := Tab.get {} s.queues q
def modQueue (q : Nat) (f : Queue → Queue) (s : State) : State := { s with queues := Tab.modify {} s.queues q f }
/-- Frame f of cluster k. -/
def modFrame (k f : Nat) (g : FrameSt → FrameSt) (s : State) : State :=
  modCluster k (fun c => { c with frames := Tab.modify {} c.frames f g }) s
def frameOf (s : State) (k f : Nat) : FrameSt := Tab.get {} (getCluster s k).frames f
/-- The hart whose context hart n holds, as a member of that one's gang (R367). -/
def seatOf (s : State) (n : Nat) : Nat := (getHart s n).seat.getD n
def mySeat (s : State) : Nat := seatOf s s.hn
/-- A started task, by queue and handle. -/
def taskKey (q tid : Nat) : Nat := q * 65536 + tid
def getTask (s : State) (q tid : Nat) : Task := Tab.get {} s.tasks (taskKey q tid)
def modTask (q tid : Nat) (f : Task → Task) (s : State) : State :=
  { s with tasks := Tab.modify {} s.tasks (taskKey q tid) f }

/-- `sreg(n)` (R104): s0 reads as zero. -/
def getS (s : State) (r : BitVec 5) : Word := if r = 0 then 0 else Tab.get 0 s.hart.sregs r.toNat

/-- `set_sreg(n, x)`: a write to s0 is discarded; a write ends a poison mark (R39). -/
def setS (r : BitVec 5) (v : Word) (s : State) : State :=
  if r = 0 then s
  else updH (fun h => { h with sregs := Tab.set 0 h.sregs r.toNat v, spois := Tab.set 0 h.spois r.toNat 0 }) s

/-- The poison mark of a scalar register: the `tval` that its reader reports, 0 for none (R39). -/
def markS (s : State) (r : BitVec 5) : Word := if r = 0 then 0 else Tab.get 0 s.hart.spois r.toNat

/-- A value from the vector side reaches a scalar register, with its mark. -/
def deliverS (d : Nat) (v p : Word) (s : State) : State :=
  if d = 0 then s
  else updH (fun h => { h with sregs := Tab.set 0 h.sregs d v, spois := Tab.set 0 h.spois d p }) s

/-- The word of the slot in hand, for `tval` (R402): the vector side's slot, else the address processor's. -/
def curWord (s : State) : Word :=
  if s.hart.iss.group then word s.hart.iss.act.w.toNat
  else word (nth 0 s.hart.cv.words s.hart.cv.slot).toNat

/-- The management core's count of a reported event (R444). Sources: 0 hart fault, 1 correctable error, 2 replay,
3 throttle, 4 core retired, 5 lane retired, 6 hart fault by double trap, 7 fatal stop. -/
def report (source : Nat) (s : State) : State :=
  { s with mgmt := { s.mgmt with events := Tab.modify 0 s.mgmt.events source (· + 1) } }

/-- The bound task becomes impure (R376). -/
def demote (s : State) : State :=
  match s.hart.bound with
  | none => s
  | some b => modTask b.queue b.tid (fun t => { t with demoted := true }) s

/-- The lane groups that hart n owns, as a mask (R365). -/
def groupsOf (s : State) (n : Nat) : Nat :=
  loop (fun g m => if Tab.get 0 (getCore s (coreOf n)).owners g = n % 8 + 1 then m + 2 ^ g else m) 0 16 0

/-- Active lanes that hart n owns. -/
def lanesOwned (s : State) (n : Nat) : Nat := activeLanes (groupsOf s n) (getCore s (coreOf n)).lanefal.toNat

/-- R108: every declared register, mask and progress index becomes zero; the ring is empty (R77). -/
def clearVectors (h : Hart) : Hart :=
  { h with
    vregs := []
    mregs := []
    vpois := []
    mpois := []
    prog := []
    ring := h.ring.map (fun r => { r with p := 0, c := 0, occ := 0 }) }

/-- The hart holds M lanes: a change of VLMAX or M clears the registers (R108). -/
def setLanes (m : Nat) (h : Hart) : Hart :=
  let h1 := { h with lanemod := m }
  if h.lanemod = m ∧ h.vlmax = h1.vlmax then h else clearVectors h1

def ownerOf (s : State) (c g : Nat) : Nat := Tab.get 0 (getCore s c).owners g

/-- Group g of core c gets an owner (0: none), and loses its mark. -/
def setOwner (c g o : Nat) (s : State) : State :=
  modCore c (fun k => { k with owners := Tab.set 0 k.owners g o, marks := Tab.set false k.marks g false }) s

/-- The groups that hart n owns, ascending. -/
def ownedList (s : State) (n : Nat) : List Nat := (range 0 16).filter (fun g => ownerOf s (coreOf n) g = n % 8 + 1)

/-- All of hart n's groups are released. -/
def releaseGroups (n : Nat) (s : State) : State := (ownedList s n).foldl (fun t g => setOwner (coreOf n) g 0 t) s

/-- A stop ends a negotiation where it stands: the hart holds the lanes that it owns now, or, where they are fewer than 4, none
(R107, R108, R117; log 98). -/
def dropNeg (s : State) : State :=
  if s.hart.neg.isSome then
    (if lanesOwned s s.hn < 4 then updH (fun h => { setLanes 0 h with neg := none }) (releaseGroups s.hn s)
     else updH (fun h => { setLanes (lanesOwned s s.hn) h with neg := none }) s)
  else s

/-- The hart enters debug halt and keeps its state (R182, R408, R409). -/
def debugHalt (s : State) : State :=
  updH (fun h => { h with status := .halted, hstat := setBit h.hstat 6 true, vwait := none }) (dropNeg s)

/-! Commands of a cluster (R415) -/

/-- The command word after it has ended with a status. -/
def cmdEnd (k st : Nat) (v : Word) (s : State) : State :=
  modCluster k (fun c => { c with cmd := word (putFld (putFld v.toNat 63 1 0) 60 3 st) }) s

/-- The fields of a command that are kept (R415). -/
def cmdKept (v : Word) : Word := v &&& 0x0F80FF000007FFFF

/-- A DISPLACE that is BUSY for hart n. -/
def displacing (s : State) (n : Nat) : Bool :=
  let v := (getCluster s (clusterOf n)).cmd
  wbit v 63 && wfld v 56 4 = 1 && wfld v 8 11 = n

/-- The current hart traps while a DISPLACE with Q = 1 brings it to rest: STATUS := 2 and nothing is saved (R415). -/
def quitDisplace (s : State) : State :=
  let v := (getCluster s (clusterOf s.hn)).cmd
  if displacing s s.hn && wbit v 55 then cmdEnd (clusterOf s.hn) 2 (cmdKept v) s else s

/-- A double trap (R408): debug halt, with a hart fault reported. -/
def doubleTrap (s : State) : State := report 6 (debugHalt (quitDisplace s))

/-- Rows that came for a `mattach` that has not completed go back (R269). -/
def dropGrant (s : State) : State :=
  if s.hart.granted then
    updH (fun h => { h with granted := false, rows := 0, acc := [], accPois := [] })
      { s with quads := Tab.set 0 s.quads (quadOf s.hn) (Tab.get 0 s.quads (quadOf s.hn) - s.hart.rows) }
  else s

/-- Entries of the copy queue that convoys of the current hart took as they committed, and that have not retired, free: R65 frees the
faulting stream's, and does not say so of others (DESIGN CHOICE, log 103). -/
def dropReserved (s : State) : State :=
  let mine (q : CqEntry) : Bool := q.phase = 3 && q.hart = s.hn && q.frame.isNone
  if (getCore s (myCore s)).cq.any (fun q => mine q.2) then
    modCore (myCore s) (fun c => { c with cq := c.cq.filter (fun q => !mine q.2) }) s
  else s

/-- What a hart had in hand besides its convoys is given up as they stop: a negotiation, rows, copy-queue entries; a command that
was to bring it to rest has failed. -/
def dropHeld (s : State) : State := dropReserved (dropGrant (dropNeg (quitDisplace s)))

/-- The handler's entry common to every trap (R182, R404): the saved registers, the status and the program counter. A purity
violation that traps makes the bound task impure (R376). -/
def enterHandler (cause tval epc : Word) (s : State) : State :=
  updH (fun h0 =>
    let h := freezeAt s.order h0
    { h with
      cause := cause
      tval := tval
      epc := epc
      hstat := setBit (hstatTrap h.hstat) 7 (h.vres || !h.shadow.isEmpty)
      pc := h.tvec &&& 0xFFFFFFFFFFFFFFF0
      cv := {}
      iss := {}
      neg := none
      smq := h.smq ++ h.mq.map (MqEntry.under h)
      mq := []
      answer := none
      vwait := none
      vanswer := none
      status := .running }) (if cause = word cPurity then demote (dropHeld s) else dropHeld s)

/-- The progress indices and store-progress cells that a stopped head convoy leaves (R114). -/
def setProgress (e : VqEntry) (h : Hart) : Hart :=
  e.acts.foldl (fun h a =>
    let p := Tab.get 0 e.cells a.slot
    if isStoreWord a.w.toNat then { h with cells := Tab.set 0 h.cells a.slot p }
    else match destV a.w.toNat with
      | some d => { h with prog := Tab.set 0 h.prog d p }
      | none => h) h

/-- The head convoy of a re-issue starts from the indices and cells of the hart (R163). -/
def takeProgress (h : Hart) (e : VqEntry) : VqEntry :=
  { e with
    re := true
    space := none
    cells := e.acts.foldl (fun t a =>
      if isStoreWord a.w.toNat then Tab.set 0 t a.slot (Tab.get 0 h.cells a.slot)
      else match destV a.w.toNat with
        | some d => Tab.set 0 t a.slot (Tab.get 0 h.prog d)
        | none => t) e.cells }

/-- The shadow VQ as it is issued again (R406, R407). -/
def reissued (h : Hart) : List VqEntry :=
  match h.shadow with
  | [] => []
  | e :: es => takeProgress h e :: es.map (fun e => { e with re := true, space := none })

/-- A convoy without the copy-queue entries that its streams had taken (R65): its re-issue takes others. -/
def unreserve (e : VqEntry) : VqEntry :=
  { e with acts := e.acts.map (fun a => if isStream a.w.toNat then { a with c2 := 0 } else a) }

/-- R404: the unretired convoys move to the shadow VQ. -/
def toShadow (s : State) : State :=
  updH (fun h =>
    match h.vq with
    | [] => h
    | e :: es => setProgress e { freezeAt s.order h with shadow := unreserve e :: es.map unreserve, vq := [] }) s

/-- A trap of the scalar side (R404, R408), with INT and CODE in cause. -/
def scalarTrap (cause tval epc : Word) (s : State) : State :=
  if !s.hart.shadow.isEmpty && !s.hart.vq.isEmpty then doubleTrap s
  else
    updH (fun h => { h with vqpos := setBit h.vqpos 7 false })
      (enterHandler cause tval epc (toShadow (updH (fun h => { h with saved := h.cv }) s)))

/-- `epc` for the slot in hand (R154). -/
def epcHere (s : State) : Word := (s.hart.pc &&& 0xFFFFFFFFFFFFFFF0) ||| word (4 * (s.hart.cv.slot % 4))

/-- `trap(cause, val)` of a scalar slot (R163, R154). -/
def trap (cause : Nat) (tval : Word) (s : State) : State := scalarTrap (word cause) tval (epcHere s) s

/-- The trap of a scalar slot whose rule names no `tval` (R402). -/
def trapWord (cause : Nat) (s : State) : State := trap cause (curWord s) s

/-- Runs a scalar slot that reads the registers rs: a poison mark on one of them traps first (R39), that of the first in rs where two
carry one (DESIGN CHOICE, log 113). -/
def reads (rs : List (BitVec 5)) (f : State → State) (s : State) : State :=
  match rs.find? (fun r => markS s r != 0) with
  | some r => trap cPoison (markS s r) s
  | none => f s

/-- The scalar slot in hand waits: the hart is in the Waiting state and runs the slot again at its next step. -/
def waitHere (r : WaitFor) (s : State) : State :=
  { updH (fun h => { h with status := .waiting r, since := if h.status = .waiting r then h.since else s.order }) s with
    order := s.order + 1 }

/-- What is at the head of the hart's queues waits; its address processor may go on (R362). -/
def holdQueue (r : WaitFor) (s : State) : State :=
  { updH (fun h => { h with vwait := some r, vsince := if h.vwait = some r then h.vsince else s.order }) s with
    order := s.order + 1 }

/-- The slot in hand waits no longer. -/
def resumeHere (s : State) : State := updH (fun h => { h with status := .running, answer := none }) s

/-- A trap of the vector side (R404, R405): head is the faulting convoy with its new cells; the younger ones follow.
The scalar side resumes at resume. On a double trap the convoys stay in the live VQ (R408). -/
def vectorTrap (cause : Nat) (tval : Word) (resume : Word) (head : VqEntry) (young : List VqEntry) (s : State) : State :=
  if !s.hart.shadow.isEmpty then doubleTrap (updH (fun h => { h with vq := { head with re := true } :: young, iss := {} }) s)
  else
    updH (fun h => { h with vqpos := word (128 + young.length % 32) })
      (enterHandler (word cause) tval resume
        (updH (fun h => { freezeAt s.order h with shadow := unreserve head :: young.map unreserve, vq := [], saved := h.cv }) s))

/-- Every scalar slot of the convoy in hand has executed, and its commit waits; not at a `fence` or `drain` of its own. -/
def commitWaits (c : Conv) : Bool :=
  c.live && decide (4 ≤ c.slot) && c.after = .go && !c.acts.head?.any (fun a => isFenceWord a.w.toNat)

/-- The scalar resume point (R404): the slot in hand, or the next convoy. -/
def resumePoint (s : State) : Word :=
  if commitWaits s.hart.cv then s.hart.cv.npc
  else if s.hart.cv.live then epcHere s else s.hart.pc &&& 0xFFFFFFFFFFFFFFF0


/-- Where a context goes on that is to resume at slot k of the convoy at pc, having left c (R154). A convoy whose commit waits is
still to be committed before the one that follows it. At the slot that it left, the convoy is as it
was. At another, its slots below hold what had been captured for them, unless they have been committed already; the rest are
captured as the convoy goes on (log 23). -/
def takeUp (c : Conv) (pc : Word) (k : Nat) : Conv :=
  if commitWaits c ∧ pc = c.npc ∧ k = 0 then c
  else if c.words = [] ∨ c.base ≠ pc then { slot := k }
  else if c.slot = k ∨ (c.slot = 4 + k ∧ !commitWaits c) then { c with live := false }
  else if c.sent then { slot := k }
  else
    { c with live := false, slot := k, npc := c.base + 16, acts := c.acts.filter (fun a => decide (a.slot < k)), after := .go }

/-- Where an `eret` to slot k of the convoy at pc goes on: a trap has left c. A slot that is not scalar is none to go on at (R151, R154;
log 85). -/
def eretUp (c : Conv) (pc : Word) (k : Nat) : Conv :=
  if !commitWaits c && (decide (4 ≤ c.slot) || !isScalarWord (nth 0 c.words k).toNat) then { slot := k } else takeUp c pc k

/-- The convoy in hand is c, of which the hart's program counter holds the address; else it fetches at pc. -/
def goOnAt (c : Conv) (pc : Word) (h : Hart) : Hart :=
  { h with cv := c, pc := if c.live then c.base else pc, came := h.came || c.live }

/-- The return from a trap (R183, R406): the status and the program counter; with VRES = 1 the shadow VQ is issued
again, else it is given up (log 24). What the trapped convoy had captured goes back to the fetch (log 23). -/
def eretNow (s : State) : State :=
  updH (fun h0 =>
    let h := keepSpace h0
    let pc := h.epc &&& 0xFFFFFFFFFFFFFFF0
    { goOnAt (eretUp h.saved pc (wfld h.epc 2 2)) pc h with
      hstat := hstatEret h.hstat
      vq := if h.vres then h.vq ++ reissued h else h.vq
      shadow := []
      fopStop := if h.vres then h.fopStop else []
      mq := h.smq ++ h.mq
      smq := [] }) s

/-- The hart waits for r: its address processor, or the convoy at the head of its VQ (R360, R362). -/
def Hart.waitsFor (h : Hart) (r : WaitFor) : Bool := h.status = .waiting r || h.vwait = some r

/-- What has come for the convoy at the head of the hart's VQ, which waited for it. -/
def Hart.answered (r : WaitFor) (v : Word × Word) (h : Hart) : Hart :=
  { h with vanswer := some v, vwait := none, status := if h.status = .waiting r then .running else h.status }

/-- What the free counter gives next; each use takes a new one (log 7). -/
def takeFree (s : State) : State := { s with free := s.free + 1 }

/-- The interrupt at the front of those pending is taken at the convoy boundary (R182, R403). -/
def takeInterrupt (s : State) : State :=
  match s.hart.pend with
  | [] => s
  | p :: ps =>
    scalarTrap (setBit (word p.code) 63 true) p.tval (s.hart.pc &&& 0xFFFFFFFFFFFFFFF0)
      (updH (fun h => { h with pend := ps }) s)

/-- Raises an interrupt on hart n (R374, R195, R382, R439). -/
def raiseIrq (n code : Nat) (tval : Word) (s : State) : State :=
  modHart n (fun h => { h with pend := h.pend ++ [{ code := code, tval := tval }] }) s

end Sys2Proof.Machine
end

