-- ==== Sys2Proof/Machine/Operands.lean ====
section
/-! DEFINITION. Operands: what a convoy's words name (R146, R147, R152, R153), scalar immediates, and the elements and
mask bits of the vector file (R112, R113, R163, R232). -/

namespace Sys2Proof.Machine

/-! Scalar immediates -/

/-- A sign-extended immediate (R147). -/
def simm {n : Nat} (i : BitVec n) : Word := i.signExtend 64
/-- A zero-extended immediate. -/
def zimm {n : Nat} (i : BitVec n) : Word := i.setWidth 64
/-- `target(off, n)`: the convoy's address + 16 × the signed offset. -/
def target {n : Nat} (pc : Word) (off : BitVec n) : Word := (pc &&& 0xFFFFFFFFFFFFFFF0) + off.signExtend 64 * 16

/-! Vector registers and masks -/

/-- Bits [pos + n - 1 : pos] of a vector register. -/
def vbits (r : VReg) (pos n : Nat) : Nat := r.toNat / 2 ^ pos % 2 ^ n

/-- Register v. -/
def getV (s : State) (v : Nat) : VReg := Tab.get 0 s.hart.vregs v
def getM (s : State) (m : Nat) : BitVec 8192 := Tab.get 0 s.hart.mregs m

/-- `elem(v, i, ew)` of a file of registers of vlmax bits (R112). -/
def elemOf (t : Tab VReg) (vlmax v i ew : Nat) : Nat :=
  vbits (Tab.get 0 t (v + i * ew / vlmax)) (i * ew % vlmax) ew

/-- `set_elem(v, i, ew, x)` on such a file. -/
def setElemOf (t : Tab VReg) (vlmax v i ew x : Nat) : Tab VReg :=
  let k := v + i * ew / vlmax
  Tab.set 0 t k (BitVec.ofNat 65536 (putFld (Tab.get 0 t k).toNat (i * ew % vlmax) ew x))

/-- `elem(v, i, ew)` of the current hart. -/
def elem (s : State) (v i ew : Nat) : Nat := elemOf s.hart.vregs s.hart.vlmax v i ew

/-- The 64-bit word of a vector register that holds an element: its key in the poison table (R39). -/
def wordKey (vlmax v i ew : Nat) : Nat := (v + i * ew / vlmax) * 1024 + i * ew % vlmax / 64

/-- The word of element i is poisoned. -/
def elemPois (s : State) (v i ew : Nat) : Bool :=
  if s.hart.vpois.isEmpty then false else Tab.get false s.hart.vpois (wordKey s.hart.vlmax v i ew)

/-- What a slot has written clean of a poisoned unit, as a mask: [pos, pos + n) joins it, or leaves it again when the write is
poisoned. -/
def coverMaskOf (old pos n : Nat) (clean : Bool) : Nat :=
  let bits := (2 ^ n - 1) * 2 ^ pos
  if clean then Nat.lor old bits else Nat.xor (Nat.lor old bits) bits

/-- The write of [pos, pos + n) of the poisoned word key by the slot in hand: its poison has ended when one instruction has
replaced all 64 bits (R39; log 40). -/
def coverBits (key pos n : Nat) (clean : Bool) (h : Hart) : Hart × Bool :=
  let m := coverMaskOf (Tab.get 0 h.iss.cover key) pos n clean
  ({ h with iss := { h.iss with cover := Tab.set 0 h.iss.cover key m } }, decide (m = 2 ^ 64 - 1))

/-- The poison of a word of a vector register after the write of [pos, pos + n) of it (R39). -/
def coverWrite (key pos n : Nat) (p : Bool) (h : Hart) : Hart :=
  if !p && !Tab.get false h.vpois key then h
  else
    let c := coverBits key pos n (!p) h
    { c.1 with vpois := Tab.set false h.vpois key (!c.2) }

/-- `set_elem(v, i, ew, x)` of the current hart; p: the value is poisoned (R39). -/
def setElem (v i ew x : Nat) (p : Bool) (s : State) : State :=
  updH (fun h =>
    coverWrite (wordKey h.vlmax v i ew) (i * ew % 64) ew p { h with vregs := setElemOf h.vregs h.vlmax v i ew x }) s

/-- Bit i of mask register m. -/
def maskBit (s : State) (m i : Nat) : Bool := (getM s m).getLsbD i

/-- The 64-bit word of a mask register that holds bit i is poisoned. -/
def maskPois (s : State) (m i : Nat) : Bool :=
  if s.hart.mpois.isEmpty then false else Tab.get false s.hart.mpois (m * 128 + i / 64)

/-- The poison of a mask word after the write of bit i (R39). -/
def coverMask (m i : Nat) (p : Bool) (h : Hart) : Hart :=
  let key := m * 128 + i / 64
  if !p && !Tab.get false h.mpois key then h
  else
    let c := coverBits (65536 + key) (i % 64) 1 (!p) h
    { c.1 with mpois := Tab.set false h.mpois key (!c.2) }

/-- Writes bit i of mask register m. -/
def setMask (m i : Nat) (b p : Bool) (s : State) : State :=
  updH (fun h => coverMask m i p
    { h with mregs := Tab.set 0 h.mregs m (BitVec.ofNat 8192 (putFld (Tab.get 0 h.mregs m).toNat i 1 (b2n b))) }) s

/-- Bit i of the governing mask, m = 0 selecting every element (R113, R147). -/
def governs (s : State) (m i : Nat) : Bool := m = 0 || maskBit s m i
/-- The poison of the governing mask at bit i. -/
def governPois (s : State) (m i : Nat) : Bool := m != 0 && maskPois s m i

/-- A register number as the ring redirects it (R76): a read of vb reads slot C. -/
def ringSrc (s : State) (v : Nat) : Nat :=
  match s.hart.ring with
  | none => v
  | some r => if v = r.vb then r.vb + r.c * r.g else v

/-- Element i of a source group, through the ring. -/
def srcElem (s : State) (v i w : Nat) : Nat := elem s (ringSrc s v) i w
def srcPois (s : State) (v i w : Nat) : Bool := elemPois s (ringSrc s v) i w

end Sys2Proof.Machine
end

