-- ==== Sys2Proof/Machine/Branch.lean ====
section
/-! DEFINITION. Branches, jumps and the branch queue (R155, R175 to R178). -/

namespace Sys2Proof.Machine

/-- The next convoy becomes t, once the rest of the convoy has taken effect (R155). -/
def jumpTo (t : Word) (s : State) : State := updCv (fun c => { c with npc := t }) s

/-- A conditional branch (R175). -/
def branch (p : Word → Word → Bool) (a b : BitVec 5) (o : BitVec 16) (s : State) : State :=
  reads [a, b] (fun t => if p (getS t a) (getS t b) then jumpTo (target t.hart.pc o) t else t) s

/-- The address of the next convoy, which `jal` and `jalr` link (R155). -/
def linkAddr (s : State) : Word := (s.hart.pc &&& 0xFFFFFFFFFFFFFFF0) + 16

/-- Conditions that the hart's live queue is still to produce (R178). -/
def owedConds (s : State) : Nat :=
  s.hart.vq.foldl (fun n e => n + (e.acts.filter (fun a => producesCond a.w.toNat)).length) 0

/-- `bq` and `bq.not` (R177, R178): the oldest condition decides; with none filled the slot waits for one that is owed,
and traps with BQ_EMPTY when none is reserved. A poisoned condition traps (R39). -/
def branchQueue (want : Bool) (o : BitVec 16) (s : State) : State :=
  match s.hart.bq with
  | [] => if owedConds s = 0 then trapWord cBqEmpty s else waitHere .stream s
  | (c, p) :: rest =>
    let s1 := updH (fun h => { h with bq := rest }) (resumeHere s)
    if p ≠ 0 then trap cPoison p s1
    else if c = want then jumpTo (target s1.hart.pc o) s1 else s1

/-- R175: branch when equal. -/
def execBeq (a b : BitVec 5) (o : BitVec 16) (s : State) : Host.Outcome State Fault Refusal :=
  done (branch (fun x y => x = y) a b o s)

/-- R175: branch when not equal. -/
def execBne (a b : BitVec 5) (o : BitVec 16) (s : State) : Host.Outcome State Fault Refusal :=
  done (branch (fun x y => x != y) a b o s)

/-- R175: branch when signed less. -/
def execBlt (a b : BitVec 5) (o : BitVec 16) (s : State) : Host.Outcome State Fault Refusal :=
  done (branch (fun x y => x.slt y) a b o s)

/-- R175: branch when signed greater or equal. -/
def execBge (a b : BitVec 5) (o : BitVec 16) (s : State) : Host.Outcome State Fault Refusal :=
  done (branch (fun x y => !x.slt y) a b o s)

/-- R175: branch when unsigned less. -/
def execBltn (a b : BitVec 5) (o : BitVec 16) (s : State) : Host.Outcome State Fault Refusal :=
  done (branch (fun x y => x.ult y) a b o s)

/-- R175: branch when unsigned greater or equal. -/
def execBgen (a b : BitVec 5) (o : BitVec 16) (s : State) : Host.Outcome State Fault Refusal :=
  done (branch (fun x y => !x.ult y) a b o s)

/-- R175: jump, linking the next convoy. -/
def execJal (d : BitVec 5) (o : BitVec 21) (s : State) : Host.Outcome State Fault Refusal :=
  done (jumpTo (target s.hart.pc o) (setS d (linkAddr s) s))

/-- R175: jump to sa + 16 × imm with the low bits cleared, linking the next convoy; sa is read first. -/
def execJalr (d a : BitVec 5) (i : BitVec 16) (s : State) : Host.Outcome State Fault Refusal :=
  done (reads [a] (fun t => jumpTo ((getS t a + simm i * 16) &&& 0xFFFFFFFFFFFFFFF0) (setS d (linkAddr t) t)) s)

/-- R177: branch when the oldest condition is true. -/
def execBq (o : BitVec 16) (s : State) : Host.Outcome State Fault Refusal := done (branchQueue true o s)

/-- R177: branch when the oldest condition is false. -/
def execBqNot (o : BitVec 16) (s : State) : Host.Outcome State Fault Refusal := done (branchQueue false o s)

end Sys2Proof.Machine
end

