-- ==== Sys2Proof/Machine/Mem.lean ====
section
/-! DEFINITION. Memory: the physical map, translation, the checks of R165 in their order, and the accesses themselves
(R18 to R38, R45 to R48, R85 to R88, R230, R375). -/

namespace Sys2Proof.Machine

/-! The physical map (R21) -/

def hbmEnd : Nat := 0x59682F0000
def dumpBase : Nat := 0x58E82F0000
def cxlBase : Nat := 0x100000000000
def hostBase : Nat := 0x1000000000000
def regBase : Nat := 0x3FF0000000000
def regEnd : Nat := 0x4000000000000

/-- The bytes [pa, pa + n) lie wholly inside the populated part of one window (R21). -/
def populated (s : State) (pa n : Nat) : Bool :=
  if pa < 0x8000000000 then decide (pa + n ≤ hbmEnd)
  else if cxlBase ≤ pa ∧ pa < cxlBase + 12 * 0x10000000000 then
    decide ((pa - cxlBase) % 0x10000000000 + n ≤ Tab.get 0 s.cxlLen ((pa - cxlBase) / 0x10000000000))
  else if hostBase ≤ pa ∧ pa < 2 * hostBase then decide (pa - hostBase + n ≤ s.hext)
  else false

/-- The device register space (R21). -/
def inRegs (pa : Nat) : Bool := decide (regBase ≤ pa ∧ pa < regEnd)

/-- A page inside the HBM window. -/
def inHbm (pa : Nat) : Bool := decide (pa < 0x8000000000)

/-! Bytes of memory and of the tiles -/

/-- One byte of memory. -/
def getByte (s : State) (pa : Nat) : Byte := Tab.get memDefault s.mem pa

/-- n bytes of memory as a little-endian number (R4). -/
def getMem (s : State) (pa : Nat) : Nat → Nat
  | 0 => 0
  | n + 1 => (getByte s pa).toNat + 256 * getMem s (pa + 1) n

/-- n bytes of memory as a list. -/
def getBytes (s : State) (pa : Nat) : Nat → List Byte
  | 0 => []
  | n + 1 => getByte s pa :: getBytes s (pa + 1) n

/-- Writes the bytes from pa up. -/
def putBytesRaw (m : List Host.Cell) (pa : Nat) : List Byte → List Host.Cell
  | [] => m
  | b :: bs => putBytesRaw (Tab.set memDefault m pa b) (pa + 1) bs

/-- Two ranges of bytes have one in common. -/
def overlaps (a n b k : Nat) : Bool := decide (a < b + k ∧ b < a + n ∧ 0 < n ∧ 0 < k)

/-- Reuse entries whose result spans the written bytes touch are invalid (R385), and cached digests of leaves with such bytes
are not used again (R380). -/
def dropSpans (r : Reuse) (pa n : Nat) : Reuse :=
  { r with
    entries := r.entries.filter (fun e => !e.spans.any (fun j => j.2.any (fun sp => overlaps pa n sp.1 sp.2)))
    leaves := r.leaves.filter (fun d => !overlaps pa n d.pa d.len) }

/-- A write that performs leaves no copy of its lines in any scalar data cache (R43). -/
def dropCached (cs : Tab Core) (pa n : Nat) : Tab Core :=
  cs.map (fun c => if c.2.dcache.isEmpty then c
    else (c.1, { c.2 with dcache := c.2.dcache.filter (fun l => !overlaps pa n (128 * l) 128) }))

/-- A record that was looked up on bytes that change is not inserted (R383). -/
def spoilRec (pa n : Nat) (r : QRec) : QRec :=
  if r.insertable && r.spans.any (fun sp => overlaps pa n sp.1 sp.2) then { r with insertable := false } else r

/-- Bound tasks whose code or argument spans the written bytes touch can no longer be inserted in the reuse table, but
for writes of their own members, those among them that a member made before it ended its part (R383). who: the member that writes,
and when the access was made. -/
def spoilTasks (ts : Tab Task) (who : Option (Member × Nat)) (pa n : Nat) : Tab Task :=
  ts.map (fun e =>
    let own := match who with
      | some w => e.2.members.contains w.1 || e.2.owing.any (fun o => o.1 = w.1 && decide (w.2 < o.2))
      | none => false
    if own then e else (e.1, { e.2 with rc := spoilRec pa n e.2.rc }))

/-- The same of records that have been looked up and wait to be bound. -/
def spoilQueues (qs : Tab Queue) (pa n : Nat) : Tab Queue :=
  qs.map (fun e => (e.1, { e.2 with onchip := e.2.onchip.map (spoilRec pa n) }))

/-- The tiles of a live collective whose slots are written at [k, k + n): their contents are no longer specified (R311). -/
def spoilSlots (k n : Nat) (c : CollCtx) : CollCtx :=
  { c with dirty := (range 0 c.slots.length).foldl (fun d u =>
      if overlaps k n (nth 0 c.slots u) 128 then Tab.set false d (u / c.per) true else d) c.dirty }

/-- The same in every context. -/
def spoilColls (cs : Tab CollCtx) (k n : Nat) : Tab CollCtx := cs.map (fun e => (e.1, spoilSlots k n e.2))

/-- A write performs (R43): the bytes change, cached copies and reuse results that they touch end (R385), and tasks that were
looked up on the old bytes are not inserted (R383). who: who writes, none for another agent. -/
def putBytesBy (who : Option (Member × Nat)) (pa : Nat) (bs : List Byte) (s : State) : State :=
  { s with
    mem := putBytesRaw s.mem pa bs
    far := Tab.drop (fun a => decide (pa ≤ a ∧ a < pa + bs.length)) s.far
    cores := dropCached s.cores pa bs.length
    colls := spoilColls s.colls pa bs.length
    reuse := dropSpans s.reuse pa bs.length
    tasks := spoilTasks s.tasks who pa bs.length
    queues := spoilQueues s.queues pa bs.length }

/-- Lines that n bytes at pa cover wholly. -/
def wholeLines (pa n : Nat) : List Nat := range (ceilDiv pa 128) ((pa + n) / 128 - ceilDiv pa 128)

/-- The writer of the access in hand, and when the access was made (R383). -/
def writerOf (s : State) : Member × Nat :=
  s.hart.writing.getD (.hart s.hn, if s.hart.iss.group && s.hart.iss.seq != 0 then s.hart.iss.seq else s.order)

/-- f as a write that was made before. -/
def asWriter (w : Member × Nat) (f : State → State) (s : State) : State :=
  updH (fun h => { h with writing := s.hart.writing }) (f (updH (fun h => { h with writing := some w }) s))

/-- A write of the current hart performs. -/
def putBytes (pa : Nat) (bs : List Byte) (s : State) : State := putBytesBy (some (writerOf s)) pa bs s

/-- Writes the low n bytes of v at pa. -/
def putMem (pa n v : Nat) (s : State) : State := putBytes pa (toBytes v n) s

/-- The byte of tile storage of core c at offset o of its window. -/
def tileKey (c o : Nat) : Nat := c * 524288 + o

def getTile (s : State) (c o : Nat) : Nat → Nat
  | 0 => 0
  | n + 1 => (Tab.get 0 s.tiles (tileKey c o)).toNat + 256 * getTile s c (o + 1) n

def putTileRaw (t : Tab Byte) (c o : Nat) : List Byte → Tab Byte
  | [] => t
  | b :: bs => putTileRaw (Tab.set 0 t (tileKey c o) b) c (o + 1) bs

def putTile (c o n v : Nat) (s : State) : State :=
  { s with
    tiles := putTileRaw s.tiles c o (toBytes v n)
    colls := spoilColls s.colls (regEnd + tileKey c o) n }

/-- Poison of a memory line (R37) and of a tile word (R84) under an access. -/
def linePoisoned (s : State) (pa n : Nat) : Bool :=
  Tab.get false s.linePois (pa / 128) || Tab.get false s.linePois ((pa + n - 1) / 128)
def tilePoisoned (s : State) (c o n : Nat) : Bool :=
  Tab.get false s.tilePois (tileKey c o / 64) || Tab.get false s.tilePois (tileKey c (o + n - 1) / 64)
def poisonLine (pa : Nat) (s : State) : State := { s with linePois := Tab.set false s.linePois (pa / 128) true }
def cleanLine (pa : Nat) (s : State) : State := { s with linePois := Tab.set false s.linePois (pa / 128) false }

/-- A write of an agent that writes whole lines: those carry poison no longer (R37). -/
def putLines (who : Option (Member × Nat)) (pa : Nat) (bs : List Byte) (s : State) : State :=
  (wholeLines pa bs.length).foldl (fun t l => cleanLine (128 * l) t) (putBytesBy who pa bs s)

/-- An answer reaches a hart that waits in `fut.ld`: the data and 0, or 1 for a refusal, or 2 for poison. One that waits
no longer discards it (R53). -/
def answerFut (n : Nat) (v st : Word) (s : State) : State :=
  modHart n (fun h => if h.status = .waiting .future then { h with answer := some (v, st), status := .running } else h) s

/-- The deferred requests on a word are answered in the order of arrival (R52). -/
def answerAll (pa : Nat) (v st : Word) (s : State) : State :=
  let ds := s.deferred.filter (fun d => d.pa = pa)
  ds.foldl (fun t d => answerFut d.hart v st t) { s with deferred := s.deferred.filter (fun d => d.pa != pa) }

/-- A line becomes poisoned: requests deferred on it are answered with poison (R37, R53). -/
def spoilLine (pa : Nat) (s : State) : State :=
  ((s.deferred.filter (fun d => d.pa / 128 = pa / 128)).map (·.pa)).foldl (fun t a => answerAll a 0 2 t) (poisonLine pa s)

/-! Translation (R23 to R31) -/

/-- R27: an entry with V = 1 at a level (0 root, 1, 2) is malformed. -/
def leafMalformed (s : State) (e : Word) (size : Nat) : Bool :=
  let base := wfld e 13 37 * 8192
  let mt := wfld e 7 2
  wfld e 13 (size - 13) != 0
  || (mt = 3)
  || (wbit e 3 && !wbit e 2)
  || !(populated s base (2 ^ size) || (inRegs base && inRegs (base + 2 ^ size - 1) && mt = 2))
  || (wbit e 9 && (mt != 0 || !inHbm base))
  || (!wbit e 5 && overlaps base (2 ^ size) dumpBase (hbmEnd - dumpBase))

def entryReserved (e : Word) : Bool := wfld e 50 14 != 0 || wfld e 10 3 != 0

/-- Reads a table entry: 8 bytes of a populated window, through the L2 (R29). -/
def readEntry (s : State) (pa : Nat) : Except Walk Word :=
  if !populated s pa 8 then .error (.hole pa)
  else if linePoisoned s pa 8 then .error (.fault cPoison)
  else .ok (word (getMem s pa 8))

/-- The radix levels (R24, R26): index fields from va, highest level first. -/
def walkLevels (s : State) (va : Word) (node : Nat) : List (Nat × Nat × Nat) → Walk
  | [] => .fault cPageMalformed
  | (lo, n, size) :: ls =>
    match readEntry s (node + 8 * wfld va lo n) with
    | .error w => w
    | .ok e =>
      if !wbit e 0 then .fault cPageInvalid
      else if entryReserved e then .fault cPageMalformed
      else if wbit e 1 then (if leafMalformed s e size then .fault cPageMalformed else .leaf e size)
      else if ls.isEmpty || wfld e 2 8 != 0 then .fault cPageMalformed
      else walkLevels s va (wfld e 13 37 * 8192) ls

/-- A walk from a span table (R25). -/
def walk (s : State) (ptbase va : Word) : Walk :=
  match readEntry s (wfld ptbase 13 37 * 8192 + 8 * wfld va 42 10) with
  | .error w => w
  | .ok e =>
    if !wbit e 0 then .fault cPageInvalid
    else if wfld e 50 14 != 0 || wfld e 1 7 != 0 then .fault cPageMalformed
    else walkLevels s va (wfld e 8 42 * 256) [(37, 5, 37), (27, 10, 27), (17, 10, 17)]

/-- The TLB entry that serves a translation for a hart of core c (R29). -/
def tlbHit (s : State) (c asid : Nat) (va : Word) : Option TlbEntry :=
  s.tlb.find? (fun t =>
    (if t.l2 then t.core / 16 = c / 16 else t.core = c)
      && (t.asid = asid || wbit t.leaf 6) && decide (t.vpage = va.toNat / 2 ^ t.size))

/-- Translation of a canonical address for the current hart. -/
def translateNow (s : State) (asid : Nat) (ptbase va : Word) : Walk :=
  match tlbHit s (myCore s) asid va with
  | some t => .leaf t.leaf t.size
  | none => walk s ptbase va

/-- The same, of a page that the slot in hand has translated once for its window (R32). -/
def translateAs (s : State) (asid : Nat) (ptbase va : Word) : Walk :=
  match s.hart.iss.pages.find? (fun p => p.1 = va.toNat / 131072) with
  | some p => p.2
  | none => translateNow s asid ptbase va

/-- The slot in hand comes to va in window w of its elements: each 128 KiB page is translated once in a window (R32). -/
def pageOnce (w : Nat) (va : Word) (s : State) : State :=
  let old := if s.hart.iss.win = w then s.hart.iss.pages else []
  let pages := if old.any (fun p => p.1 = va.toNat / 131072) then old
    else (va.toNat / 131072, translateNow s (wfld s.hart.asid 0 16) s.hart.ptbase va) :: old
  updIss (fun i => { i with win := w, pages := pages }) s

/-- The physical address under a leaf (R26). -/
def leafPa (e : Word) (size : Nat) (va : Word) : Nat :=
  wfld e 13 37 * 8192 / 2 ^ size * 2 ^ size + va.toNat % 2 ^ size

/-! The checks of an access -/

/-- What an access needs: rights, the highest memory type it may touch, and what R191, R223 and R375 add. late: it performs after
every earlier access of the hart (R172). own: a read that an outbound edge makes for itself, whose ranges are those of its writes
(R375). -/
structure Need where
  rd : Bool := false
  wr : Bool := false
  ex : Bool := false
  mtMax : Nat := 2
  window : Bool := true
  future : Bool := false
  test : Bool := true
  always : Bool := false
  late : Bool := false
  own : Bool := false
  align : Nat := 1
  deriving DecidableEq, Repr

/-- The outcome of the checks: the place and its memory type, with viol when the access violates purity (R376). -/
inductive Chk where
  | ok (l : Loc) (mt : Nat) (viol : Bool)
  | trap (cause : Nat)
  | hole (pa : Nat)
  deriving DecidableEq, Repr

/-- The window of R23 holds the access. -/
def inWindow (va : Word) : Bool := decide (0xFFFFFFFF80000 ≤ va.toNat ∧ va.toNat ≤ 0xFFFFFFFFFFFFF)

/-- Bits of a record field (R192). -/
def recField (bs : List Byte) (at' n : Nat) : Nat := ofBytes ((bs.drop at').take n)

/-- ROLE of base j (R192). -/
def roleOf (bs : List Byte) (j : Nat) : Nat := fld (recField bs 28 4) (5 * j) 2

/-- The bound task's record; empty when no task is bound. -/
def boundTask (s : State) : Option Task := s.hart.bound.map (fun b => getTask s b.queue b.tid)

/-- [a, a + n) lies in some range that R375 allows for a read (argument or code) or a write (output). -/
def pureRange (bs : List Byte) (a n : Nat) (wr : Bool) : Bool :=
  let inside (lo len : Nat) : Bool := decide (lo ≤ a ∧ a < lo + len)
  let one (a' : Nat) : Bool :=
    ((range 0 6).any (fun j =>
      let lo := recField bs (32 + 8 * j) 8; let len := 128 * recField bs (80 + 4 * j) 4
      (if wr then 2 ≤ roleOf bs j else roleOf bs j % 2 = 1) && decide (lo ≤ a' ∧ a' < lo + len)))
    || (!wr && (let lo := recField bs 0 8; decide (lo ≤ a' ∧ a' < lo + 16 * recField bs 20 4)))
  (n = 0) || (inside a n && (range a n).all one)

/-- A purity violation of the current hart (R375). -/
def impure (s : State) (need : Need) (a n : Nat) : Bool :=
  s.hart.pmode &&
    match boundTask s with
    | none => false
    | some t =>
      need.always || (need.rd && !need.own && !pureRange t.rc.bytes a n false)
        || ((need.wr || need.own) && !pureRange t.rc.bytes a n true)

/-- POLICY of the bound task's record (R193, R376): 1 demotes. -/
def demotes (s : State) : Bool :=
  match boundTask s with
  | none => false
  | some t => nbit (recField t.rc.bytes 16 4) 5

/-- A leaf forbids the access (R27, and the memory types of R28, R174, R191, R222, R229). -/
def leafForbids (sup : Bool) (e : Word) (need : Need) : Bool :=
  (wbit e 5 && !sup) || (need.rd && !wbit e 2) || (need.wr && !wbit e 3) || (need.ex && !wbit e 4)
    || decide (need.mtMax < wfld e 7 2) || (need.future && !wbit e 9)

/-- The memory type of a place under leaf e. The device register space is reached through supervisor pages alone (R372): under
another it is type 3, at which nothing answers (log 89). -/
def placeType (e : Word) (pa : Nat) : Nat := if inRegs pa && !wbit e 5 then 3 else wfld e 7 2

/-- Checks 3 to 5 of R165 outside the window: translation, permission and memory type, poison, purity. -/
def checkPage (s : State) (va : Word) (n : Nat) (need : Need) : Chk :=
  match translateAs s (wfld s.hart.asid 0 16) s.hart.ptbase va with
  | .fault c => .trap c
  | .hole pa => .hole pa
  | .leaf e size =>
    let pa := leafPa e size va
    if leafForbids s.hart.sup e need then .trap cPagePerm
    else if (need.rd || need.ex) && need.test && linePoisoned s pa n then .trap cPoison
    else if impure s need va.toNat n then
      (if demotes s then .ok (.pa pa) (placeType e pa) true else .trap cPurity)
    else .ok (.pa pa) (placeType e pa) false

/-- A controller's own access (R195, R373, R381): translated with a queue's `asid` and span table, by the walkers. -/
def checkCtl (s : State) (ptb va : Word) (n : Nat) (sup : Bool) (need : Need) : Chk :=
  if va.toNat % need.align ≠ 0 then .trap cMisaligned
  else if wfld va 52 12 ≠ 0 then .trap cNoncanon
  else if inWindow va then .trap cPagePerm
  else match walk s ptb va with
    | .fault c => .trap c
    | .hole pa => .hole pa
    | .leaf e size =>
      let pa := leafPa e size va
      if leafForbids sup e need then .trap cPagePerm
      else if need.rd && need.test && linePoisoned s pa n then .trap cPoison
      else .ok (.pa pa) (wfld e 7 2) false

/-- The checks of R165, in their order, for n bytes at va. -/
def check (s : State) (va : Word) (n : Nat) (need : Need) : Chk :=
  if va.toNat % need.align ≠ 0 then .trap cMisaligned
  else if wfld va 52 12 ≠ 0 then .trap cNoncanon
  else if inWindow va then
    let o := va.toNat - 0xFFFFFFFF80000
    if !need.window || need.ex then .trap cPagePerm
    else if Tab.get 0 s.tileMode (myCore s * 32 + o / 16384) ≠ 0 ∨ Tab.get 0 s.tileMode (myCore s * 32 + (o + n - 1) / 16384) ≠ 0
      then .trap cTileBound
    else if need.rd && need.test && tilePoisoned s (myCore s) o n then .trap cPoison
    else if impure s need va.toNat n then (if demotes s then .ok (.tile o) 0 true else .trap cPurity)
    else .ok (.tile o) 0 false
  else checkPage s va n need

/-- What a plain scalar or vector load and store need. -/
def needLoad (n : Nat) : Need := { rd := true, align := n }
def needStore (n : Nat) : Need := { wr := true, align := n }
/-- A scalar or vector atomic (R166, R174, R229): no MT = 1 or 2, and impure wherever it points. -/
def needAtomic (n : Nat) : Need := { rd := true, wr := true, mtMax := 0, always := true, align := n }

/-! Access by the current hart -/

/-- A place as an interval on one line: memory below, tiles above. -/
def locKey (s : State) : Loc → Nat
  | .pa a => a
  | .tile o => regEnd + tileKey (myCore s) o

/-- Reads a place, past the store buffer. -/
def readLoc (s : State) (l : Loc) (n : Nat) : Nat :=
  match l with
  | .pa a => getMem s a n
  | .tile o => getTile s (myCore s) o n

/-- A write performs at a place. -/
def writeLoc (l : Loc) (n v : Nat) (s : State) : State :=
  match l with
  | .pa a => putMem a n v s
  | .tile o => putTile (myCore s) o n v s

/-- Marks the destination poisoned (R37, R39). -/
def poisonLoc (l : Loc) (s : State) : State :=
  match l with
  | .pa a => spoilLine a s
  | .tile o => { s with tilePois := Tab.set false s.tilePois (tileKey (myCore s) o / 64) true }

/-- The core whose copy queue the context that m holds uses. -/
def memberCore (s : State) : Member → Nat
  | .hart n => coreOf n
  | .frame k f => (frameOf s k f).home

/-- The context whose stream an entry of a copy queue is (R81). -/
def CqEntry.owner (q : CqEntry) : Member :=
  match q.frame with
  | none => .hart q.hart
  | some kf => .frame (kf / 256) (kf % 256)

/-- Entries of the streams that the context of m has issued before time seq and that are still in flight. -/
def olderOf (s : State) (m : Member) (seq : Nat) : List Nat :=
  (range 0 16).filter (fun e =>
    let q := Tab.get {} (getCore s (memberCore s m)).cq e
    (q.phase = 1 || q.phase = 2) && q.owner = m && decide (q.seq < seq))

/-- A slot that the context of m committed before time seq has not completed, or a move of the MQ is not over. What a trap has
frozen is not older than the accesses of the handler (log 97). -/
def convoysOf (s : State) (m : Member) (seq : Nat) : Bool :=
  match m with
  | .hart n =>
    let h := getHart s n
    let old (v : VqEntry) : Bool := v.openAt.any (· < seq)
    h.vq.any old || h.mq.any (fun v => decide (v.seq < seq))
      || (decide (seq ≤ h.frozenAt) && (h.shadow.any old || h.smq.any (fun v => decide (v.seq < seq))))
  | .frame k f =>
    let x := frameOf s k f
    decide (seq ≤ x.frozenAt) && (x.opens.any (fun n => decide (n < seq)) || x.mqs.any (fun v => decide (v.seq < seq)))

/-- The stores of the context of m that have not performed. -/
def storesOf (s : State) : Member → List SbEntry
  | .hart n => (getHart s n).storeBuf
  | .frame k f => (frameOf s k f).stores

/-- A store that the context of m made before time seq has not performed. -/
def storesLeft (s : State) (m : Member) (seq : Nat) : Bool := (storesOf s m).any (fun e => decide (e.made ≤ seq))

/-- A release store waits in the buffer for the streams and the convoys that its hart issued before it (R172). -/
def storeHeld (s : State) (e : SbEntry) : Bool :=
  match e.seq with
  | none => false
  | some k =>
    !(olderOf s (.hart s.hn) k).isEmpty || convoysOf s (.hart s.hn) k
      || (s.hart.iss.group && s.hart.iss.seq != 0 && decide (s.hart.iss.seq < k))

/-- The place lies in the device register space, which only aligned 8-byte scalar accesses reach (R372). -/
def isReg : Loc → Bool
  | .pa a => inRegs a
  | .tile _ => false

/-- The oldest entry of the store buffer performs (R45), once it may; one to a device register does so as the hart next acts
(performRegs). -/
def drainOne (s : State) : State :=
  match s.hart.storeBuf with
  | [] => s
  | e :: es =>
    if isReg e.loc || storeHeld s e then s
    else updH (fun h => { h with storeBuf := es }) (asWriter (.hart s.hn, e.made) (writeLoc e.loc e.n e.val) s)

/-- Every entry of the store buffer performs, oldest first, up to a release store that waits. -/
def drainStores (s : State) : State := loop (fun _ => drainOne) 0 s.hart.storeBuf.length s

/-- A slot that performs after every earlier scalar store of the hart: it waits while one of them cannot. -/
def afterStores (f : State → State) (s : State) : State :=
  let t := drainStores s
  if t.hart.storeBuf.isEmpty then f t else waitHere .stream t

/-- Some buffered store touches the bytes. -/
def buffered (s : State) (l : Loc) (n : Nat) : Bool :=
  s.hart.storeBuf.any (fun e => overlaps (locKey s e.loc) e.n (locKey s l) n)

/-- The youngest buffered store that touches the bytes holds only some of them (R45). -/
def partlyBuffered (s : State) (l : Loc) (n : Nat) : Bool :=
  match s.hart.storeBuf.reverse.find? (fun e => overlaps (locKey s e.loc) e.n (locKey s l) n) with
  | some e => !decide (locKey s e.loc ≤ locKey s l ∧ locKey s l + n ≤ locKey s e.loc + e.n)
  | none => false

/-- A buffered store of the bytes cannot perform yet. -/
def storeKept (s : State) (l : Loc) (n : Nat) : Bool :=
  buffered s l n && buffered (drainStores s) l n

/-- One byte as the hart sees it: the youngest buffered store of it, else memory (R45, R46). -/
def ownByte (s : State) (l : Loc) (i : Nat) (mem : Nat) : Nat :=
  let k := locKey s l + i
  match s.hart.storeBuf.reverse.find? (fun e => decide (locKey s e.loc ≤ k ∧ k < locKey s e.loc + e.n)) with
  | some e => fld e.val (8 * (k - locKey s e.loc)) 8
  | none => fld mem (8 * i) 8

/-- n bytes as the hart sees them. -/
def ownRead (s : State) (l : Loc) (n : Nat) : Nat :=
  let mem := readLoc s l n
  if s.hart.storeBuf.isEmpty then mem
  else loop (fun i acc => acc + ownByte s l i mem * 2 ^ (8 * i)) 0 n 0

/-- f(old, v) of R173 and R229 on n bytes; codes 0 add, 1 and, 2 or, 3 xor, 4 swap, 5 signed min, 6 signed max. -/
def atomicInt (op n old v : Nat) : Nat :=
  let m := 2 ^ (8 * n)
  match op with
  | 0 => (old + v) % m
  | 1 => Nat.land old v
  | 2 => Nat.lor old v
  | 3 => Nat.xor old v
  | 4 => v % m
  | 5 => if sext old (8 * n) ≤ sext v (8 * n) then old else v % m
  | 6 => if sext v (8 * n) ≤ sext old (8 * n) then old else v % m
  | _ => old

end Sys2Proof.Machine
end

