-- ==== Sys2Proof/Machine/Control.lean ====
section
/-! DEFINITION. Control registers (R117 to R121, R179, R180) and gangs (R361). -/

namespace Sys2Proof.Machine

/-! Gangs -/

/-- The gang number of hart n within its quad (R361): after reset its index within the quad. -/
def gidOf (s : State) (n : Nat) : Nat :=
  match Tab.get 0 (getCluster s (clusterOf n)).gid (n % 128) with
  | 0 => n % 32
  | g + 1 => g

/-- The harts of n's gang, in ascending number. -/
def gangOf (s : State) (n : Nat) : List Nat :=
  (range (n / 32 * 32) 32).filter (fun k => gidOf s k = gidOf s n)

/-- The rank of hart n in its gang. -/
def rankOf (s : State) (n : Nat) : Nat := ((gangOf s n).filter (fun k => decide (k < n))).length

/-- The gang of the context that the current hart holds. -/
def myGang (s : State) : List Nat := gangOf s (mySeat s)

/-- The seat of a context in its gang: the hart that it belongs to (R361, R367; log 39). -/
def memberSeat (s : State) : Member → Nat
  | .hart n => seatOf s n
  | .frame k f => (frameOf s k f).seat.getD 0

/-- The task of a context. -/
def memberTask (s : State) : Member → Option BoundTask
  | .hart n => (getHart s n).bound
  | .frame k f => if (frameOf s k f).bound then some { queue := (frameOf s k f).queue, tid := (frameOf s k f).tid } else none

/-- The gang barrier as the context has it. -/
def barrierOf (s : State) : Member → Hart
  | .hart n => getHart s n
  | .frame k f => (frameOf s k f).barrier.getD {}

def modBarrier (m : Member) (f : Hart → Hart) (s : State) : State :=
  match m with
  | .hart n => modHart n f s
  | .frame k i => modFrame k i (fun x => { x with barrier := some (f (x.barrier.getD {})) }) s

/-- Frames of cluster k that hold a context. -/
def heldFrames (s : State) (k : Nat) : List Nat :=
  ((getCluster s k).frames.filter (fun e => e.2.use = .listed || e.2.use = .held)).map (·.1)

/-- The context that has seat n of the gang of the context m: m itself, one of m's task on a hart or in a frame, else that of
hart n (log 39). -/
def holderOf (s : State) (m : Member) (n : Nat) : Option Member :=
  let fits (x : Member) : Bool := memberSeat s x = n && memberTask s x = memberTask s m
  if memberSeat s m = n then some m
  else match (range (n / 8 * 8) 8).find? (fun h => (getHart s h).status != .noContext && fits (.hart h)) with
    | some h => some (.hart h)
    | none => match (heldFrames s (clusterOf n)).find? (fun f => fits (.frame (clusterOf n) f)) with
      | some f => some (.frame (clusterOf n) f)
      | none => if seatOf s n = n then some (.hart n) else none

/-- The contexts of the gang of m. -/
def gangHolders (s : State) (m : Member) : List Member := (gangOf s (memberSeat s m)).filterMap (holderOf s m)

/-- `gphase` (R119). -/
def gphase (s : State) : Word :=
  word (((myGang s).length - 1) * 2 ^ 44 + rankOf s (mySeat s) * 2 ^ 40 + b2n s.hart.gerr * 2 ^ 32 + s.hart.phase.toNat)

/-! Reading -/

/-- `vgrant` (R117): COUNT and GROUPS. -/
def vgrant (s : State) : Word :=
  let g := groupsOf s s.hn
  word (popcount g 16 * 65536 + g)

/-- The task's remaining count (R198), or the register's own value while no task is bound. -/
def tremOf (s : State) : Word :=
  match boundTask s with
  | some t => word (t.trem % 2 ^ 48)
  | none => s.hart.trem.setWidth 64

/-- DEMOTED of the bound task (R376). -/
def demotedBit (s : State) : Bool :=
  match boundTask s with
  | some t => t.demoted
  | none => false

/-- The value of control register n (R117); 0 for a number that decode does not admit. -/
def ctlValue (s : State) (n : Nat) : Word :=
  let h := s.hart
  if n = 0x000 then h.vl.setWidth 64
  else if n = 0x001 then h.vtype
  else if n = 0x002 then h.vstart.setWidth 64
  else if n = 0x003 then word h.vlmax
  else if n = 0x004 then vgrant s
  else if n = 0x005 then word h.vnreg
  else if n = 0x006 then word h.lanemod
  else if n = 0x007 then (getCore s (myCore s)).lanefal
  else if 0x008 ≤ n ∧ n ≤ 0x00B then (Tab.get 0 h.fsidx (n - 8)).setWidth 64
  else if n = 0x00C then h.fstat
  else if n = 0x010 then word h.rows
  else if n = 0x011 then h.mshape
  else if n = 0x018 then gphase s
  else if n = 0x020 then tremOf s
  else if 0x021 ≤ n ∧ n ≤ 0x026 then Tab.get 0 h.tb (n - 0x21)
  else if n = 0x027 then setBit h.tflags 6 (demotedBit s)
  else if n = 0x040 then h.hstat
  else if n = 0x041 then h.cause
  else if n = 0x042 then h.epc
  else if n = 0x043 then h.tval
  else if n = 0x044 then h.vqpos
  else if n = 0x045 then h.tvec
  else if n = 0x046 then h.tscratch
  else if n = 0x048 then h.asid
  else if n = 0x049 then h.ptbase
  else if n = 0x080 then (getCore s (myCore s)).cycle
  else if n = 0x081 then s.time
  else if n = 0x0F0 then 0x0100
  else if n = 0x0F1 then word (0x0880 * 65536 + Config.stepping * 256 + dieOf s.hn)
  else if n = 0x0F2 then word (s.hn % 8 * 65536 + s.hn)
  else 0

/-- Registers marked S in R117. -/
def isPrivReg (n : Nat) : Bool := decide (0x040 ≤ n ∧ n ≤ 0x049)

/-- What a `ctl` slot of the convoy in hand finds of vector-side register n beside what earlier convoys left: the value of the last
`ctl.wr`, `ctl.set` or `ctl.clr` of it before, else the one that a `strip.grant` before has replaced (R120). -/
def pendingCtl (acts : List Act) (n : Nat) : Option Word :=
  match acts.reverse.find? (fun a => isVecCtl a.w.toNat && fld a.w.toNat 0 12 = n) with
  | some a => some a.c0
  | none => (acts.find? (fun a => isStripGrant a.w.toNat)).bind (fun a =>
      a.regs.bind (fun t => if n = 0 ∨ n = 2 then some (Tab.get 0 t n) else none))

/-- Register n with v left in it: a `vl` is no larger than R180 lets it be. -/
def leftValue (s : State) (n : Nat) (v : Word) : Word :=
  if n = 0 then word (min v.toNat (if s.hart.vill then 0 else s.hart.maxVl)) else v

/-- The value that a `ctl` slot reads. -/
def ctlView (s : State) (n : Nat) : Word :=
  match pendingCtl s.hart.cv.acts n with
  | some v => leftValue s n v
  | none => ctlValue s n

/-- `cycle` and `time` have advanced by a free amount since they were last read (R117, R118; log 8). -/
def advanceClocks (s : State) : State :=
  { modCore (myCore s) (fun c => { c with cycle := c.cycle + (Config.cycleDelta s.free).setWidth 64 }) s with
    time := s.time + (Config.timeDelta s.free).setWidth 64
    free := s.free + 1 }

/-! Writing -/

/-- Writes the bits of mask. -/
def maskWrite (old v mask : Word) : Word := (old &&& ~~~ mask) ||| (v &&& mask)

/-- R180: `vl` takes the smaller of the value and the largest `vl`; 0 while vill. -/
def putVl (v : Nat) (h : Hart) : Hart :=
  { h with vl := if h.vill then 0 else BitVec.ofNat 17 (min v h.maxVl) }

/-- A write of v to control register n: only writable fields change (R6, R7, R179, R180). -/
def ctlStore (n : Nat) (v : Word) (s : State) : State :=
  if n = 0x000 then updH (putVl v.toNat) s
  else if n = 0x001 then updH (fun h => { h with vtype := mkVtype (v.toNat % 32) false }) s
  else if n = 0x002 then updH (fun h => { h with vstart := v.setWidth 17 }) s
  else if 0x008 ≤ n ∧ n ≤ 0x00B then updH (fun h => { h with fsidx := Tab.set 0 h.fsidx (n - 8) (v.setWidth 32) }) s
  else if n = 0x00C then updH (fun h => { h with fstat := v &&& 0xFFFFFFFF0000001F }) s
  else if n = 0x011 then updH (fun h => { h with mshape := v &&& 0x3FF07FF003F }) s
  else if n = 0x020 then
    match s.hart.bound with
    | some b => modTask b.queue b.tid (fun t => { t with trem := v.toNat % 2 ^ 48 }) s
    | none => updH (fun h => { h with trem := v.setWidth 48 }) s
  else if 0x021 ≤ n ∧ n ≤ 0x026 then updH (fun h => { h with tb := Tab.set 0 h.tb (n - 0x21) v }) s
  else if n = 0x027 then updH (fun h => { h with tflags := v &&& 0x3F }) s
  else if n = 0x040 then updH (fun h => { keepSpace h with hstat := maskWrite h.hstat v 0x9D }) s
  else if n = 0x041 then updH (fun h => { h with cause := v &&& 0x80000000000000FF }) s
  else if n = 0x042 then updH (fun h => { h with epc := v &&& 0xFFFFFFFFFFFFFFFC }) s
  else if n = 0x043 then updH (fun h => { h with tval := v }) s
  else if n = 0x044 then updH (fun h => { h with vqpos := v &&& 0x9F }) s
  else if n = 0x045 then updH (fun h => { h with tvec := v &&& 0xFFFFFFFFFFFFFFF0 }) s
  else if n = 0x046 then updH (fun h => { h with tscratch := v }) s
  else if n = 0x048 then updH (fun h => { keepSpace h with asid := v &&& 0xFFFF }) s
  else if n = 0x049 then updH (fun h => { keepSpace h with ptbase := v &&& 0x3FFFFFFFFE000 }) s
  else s

/-- A slot of the convoy before this one waits to be committed, so a vector-side register may not change yet (R120). -/
def slotsBefore (s : State) : Bool := s.hart.cv.acts.any (fun a => !isScalarAct a)

/-- A slot of the convoy before this one takes effect only as the convoy commits (R155). -/
def actsLeft (s : State) : Bool := slotsBefore s || (!s.hart.cv.acts.isEmpty && !s.hart.vq.isEmpty)

/-- A scalar slot leaves v in a vector-side register: at once when no non-scalar slot and no convoy stands before it, and
again, in slot order, when the convoy commits or is re-issued (R152, R413). A value that changes an old one is made from what
earlier convoys and earlier scalar slots have left, whatever a non-scalar slot before it in its convoy writes there (log 77). -/
def leaveCtl (v : Word) (store : State → State) (s : State) : State :=
  let waits := slotsBefore s || !s.hart.vq.isEmpty
  let s1 := if waits then s else store s
  let old : Tab Word := Tab.set 0 (Tab.set 0 [] 0 (ctlValue s 0)) 2 (ctlValue s 2)
  if s.hart.cv.live then
    updCv (fun c =>
      let w := nth 0 c.words c.slot
      { c with acts := c.acts ++ [{ slot := c.slot, w := w, c0 := v,
                                    regs := if isStripGrant w.toNat && !waits then some old else none }] }) s1
  else s1

/-- A write of v to register n by a scalar slot. A `vl` that waits behind a slot meets the largest of R180 when it is applied
(`vdecl` may change it). -/
def ctlWrite (n : Nat) (v : Word) (s : State) : State :=
  if isVecCtlReg n then
    leaveCtl (if n = 0 && (slotsBefore s || !s.hart.vq.isEmpty) then v else ctlValue (ctlStore n v s) n) (ctlStore n v) s
  else ctlStore n v s

/-- A `ctl.set` or `ctl.clr` reads the old value as `ctl.rd` does: of a vector-side register, once every earlier convoy has
retired (R120). -/
def ctlChange (n : Nat) (f : Word → Word) (s : State) : State :=
  if isVecReadReg n && !s.hart.vq.isEmpty then waitHere .register s
  else ctlWrite n (f (ctlView s n)) (if s.hart.status = .waiting .register then resumeHere s else s)

/-- The privilege check of R117. -/
def privileged (bad : Bool) (f : State → State) (s : State) : State :=
  if bad && !s.hart.sup then trapWord cPrivilege s else f s

/-- A violation of an instruction that is not an access (R376): trap with the word, or demote and go on, also where the instruction
then waits (log 73). -/
def pureOnly (bad : Bool) (f : State → State) (s : State) : State :=
  if bad && s.hart.pmode then (if demotes s then f (demote s) else trapWord cPurity (demote s)) else f s

/-- A `ctl.rd` of vector-side register n waits in the RQ: its value comes once every earlier convoy has retired, with what the slots
before it in its own convoy have left (R120, R363). It stands before those in its convoy, which do not change what it reads. -/
def leaveRead (n : Nat) (s : State) : State :=
  let v := pendingCtl s.hart.cv.acts n
  updCv (fun c =>
    { c with acts := { slot := c.slot, w := nth 0 c.words c.slot, c0 := v.getD 0, past := v.isSome } :: c.acts }) s

/-- The value that a waiting `ctl.rd` reads, once it may. -/
def readValue (s : State) (a : Act) : Word :=
  let n := fld a.w.toNat 0 12
  if a.past then leftValue s n a.c0 else ctlValue s n

/-- Where every earlier convoy has retired, the reads that wait in the convoy in hand are delivered (R120). -/
def deliverReads (s : State) : State :=
  if s.hart.vq.isEmpty && s.hart.cv.acts.any (fun a => isCtlRead a.w.toNat) then
    let rs := s.hart.cv.acts.filter (fun a => isCtlRead a.w.toNat)
    updCv (fun c => { c with acts := c.acts.filter (fun a => !isCtlRead a.w.toNat) })
      (rs.foldl (fun t a => deliverS (fld a.w.toNat 21 5) (readValue s a) 0 t) s)
  else s

/-- R179: `ctl.rd`. A vector-side register is read once every earlier convoy has retired (R120, R363). -/
def execCtlRd (d : BitVec 5) (r : BitVec 12) (s : State) : Host.Outcome State Fault Refusal :=
  done (privileged (isPrivReg r.toNat) (pureOnly (r = 0x080 || r = 0x081) (fun t =>
    if isVecReadReg r.toNat && !t.hart.vq.isEmpty then
      (if !t.hart.cv.live then waitHere .register t
       else if d = 0 then resumeHere t
       else leaveRead r.toNat (resumeHere t))
    else
      let t1 := if r = 0x080 || r = 0x081 then advanceClocks t else t
      setS d (ctlView t1 r.toNat) (resumeHere t1))) s)

/-- R179: register := sreg(sa). -/
def execCtlWr (a : BitVec 5) (r : BitVec 12) (s : State) : Host.Outcome State Fault Refusal :=
  done (privileged (isPrivReg r.toNat) (reads [a] (fun t => ctlWrite r.toNat (getS t a) t)) s)

/-- R179: register := register or sreg(sa). -/
def execCtlSet (a : BitVec 5) (r : BitVec 12) (s : State) : Host.Outcome State Fault Refusal :=
  done (privileged (isPrivReg r.toNat) (reads [a] (fun t => ctlChange r.toNat (· ||| getS t a) t)) s)

/-- R179: register := register and not sreg(sa). -/
def execCtlClr (a : BitVec 5) (r : BitVec 12) (s : State) : Host.Outcome State Fault Refusal :=
  done (privileged (isPrivReg r.toNat) (reads [a] (fun t => ctlChange r.toNat (· &&& ~~~ getS t a) t)) s)

end Sys2Proof.Machine
end

