-- ==== Sys2Proof/Machine/Float.lean ====
section
/-! DEFINITION. Number formats and rounding (R122 to R136, R140 to R144): exact values, and the one rounding that every
result takes. -/

namespace Sys2Proof.Machine

/-- An exact value: NaN, an infinity, or (-1)^neg × m × 2^e. A zero keeps its sign. -/
inductive FVal where
  | nan
  | inf (neg : Bool)
  | fin (neg : Bool) (m : Nat) (e : Int)
  deriving DecidableEq, Repr

/-- A floating-point format (R122). kind 0: infinities and NaNs; 1: E4M3, one NaN; 2: numbers only. -/
structure Fmt where
  bits : Nat
  t : Nat
  bias : Int
  kind : Nat
  deriving DecidableEq, Repr

/-- Codes 0 to 8 of R122. -/
def fmtOf : Nat → Option Fmt
  | 0 => some { bits := 64, t := 52, bias := 1023, kind := 0 }
  | 1 => some { bits := 32, t := 23, bias := 127, kind := 0 }
  | 2 => some { bits := 16, t := 7, bias := 127, kind := 0 }
  | 3 => some { bits := 16, t := 10, bias := 15, kind := 0 }
  | 4 => some { bits := 8, t := 2, bias := 15, kind := 0 }
  | 5 => some { bits := 8, t := 3, bias := 7, kind := 1 }
  | 6 => some { bits := 6, t := 2, bias := 3, kind := 2 }
  | 7 => some { bits := 6, t := 3, bias := 1, kind := 2 }
  | 8 => some { bits := 4, t := 1, bias := 1, kind := 2 }
  | _ => none

/-- Integer formats, codes 9 to 14 (R127): width and signedness; the fabric's code 15 is INT64 (R278). -/
def intOf : Nat → Option (Nat × Bool)
  | 9 => some (8, true)
  | 10 => some (8, false)
  | 11 => some (16, true)
  | 12 => some (32, true)
  | 13 => some (4, true)
  | 14 => some (4, false)
  | 15 => some (64, true)
  | _ => none

/-- Width of a format in bits. -/
def fmtBits (code : Nat) : Nat :=
  match fmtOf code with
  | some f => f.bits
  | none => match intOf code with
    | some (n, _) => n
    | none => 0

/-- Width that an element of a format takes in a register or in memory (R126): six-bit formats take a byte. -/
def fmtStore (code : Nat) : Nat := if fmtBits code = 6 then 8 else fmtBits code

/-- The exponent field is all ones. -/
def expMax (f : Fmt) : Nat := 2 ^ (f.bits - 1 - f.t) - 1

/-- `decode(x, code)` for a floating-point format (R122, R123). -/
def decodeF (f : Fmt) (x : Nat) : FVal :=
  let s := nbit x (f.bits - 1)
  let ex := fld x f.t (f.bits - 1 - f.t)
  let tt := fld x 0 f.t
  if f.kind = 0 ∧ ex = expMax f then (if tt = 0 then .inf s else .nan)
  else if f.kind = 1 ∧ ex = expMax f ∧ tt = 2 ^ f.t - 1 then .nan
  else if ex = 0 then .fin s tt (1 - f.bias - f.t)
  else .fin s (tt + 2 ^ f.t) ((ex : Int) - f.bias - f.t)

/-- A subnormal encoding (R122). -/
def isSubnormal (f : Fmt) (x : Nat) : Bool := fld x f.t (f.bits - 1 - f.t) = 0 && fld x 0 f.t != 0

/-- An integer as an exact value. -/
def ofInt (i : Int) : FVal := .fin (decide (i < 0)) i.natAbs 0

/-- `decode(x, code)` (R163) with FTZI (R134). -/
def decode (code x : Nat) (ftzi : Bool) : FVal :=
  match fmtOf code with
  | some f => if ftzi && isSubnormal f x then .fin (nbit x (f.bits - 1)) 0 0 else decodeF f x
  | none => match intOf code with
    | some (n, sg) => ofInt (if sg then sext x n else (x % 2 ^ n : Nat))
    | none => .nan

/-- `sr_word(seed, i)` (R131). -/
def srWord (seed i : Nat) : Nat :=
  let x0 := (seed + i * 0x9E3779B9) % 2 ^ 32
  let x1 := Nat.xor x0 (x0 / 2 ^ 16)
  let x2 := x1 * 0x85EBCA6B % 2 ^ 32
  let x3 := Nat.xor x2 (x2 / 2 ^ 13)
  let x4 := x3 * 0xC2B2AE35 % 2 ^ 32
  Nat.xor x4 (x4 / 2 ^ 16)

/-- Rounding under a format word: RND, SAT, FTZO and the word u of R131. -/
structure Rnd where
  mode : Nat := 0
  sat : Bool := false
  ftzo : Bool := false
  u : Nat := 0
  deriving DecidableEq, Repr

/-- The magnitude m × 2^e in units of 2^q, rounded (R130, R131). -/
def roundMag (r : Rnd) (neg : Bool) (m : Nat) (e q : Int) : Nat :=
  if q ≤ e then m * 2 ^ (e - q).toNat
  else
    let sh := (q - e).toNat
    let k := m / 2 ^ sh
    let rest := m % 2 ^ sh
    if rest = 0 then k
    else
      let half := 2 ^ (sh - 1)
      let up : Bool := match r.mode with
        | 1 => false
        | 2 => neg
        | 3 => !neg
        | 4 => decide (half ≤ rest)
        | 5 => if neg then !decide (r.u < 2 ^ 32 * (2 ^ sh - rest) / 2 ^ sh)
               else decide (r.u < 2 ^ 32 * rest / 2 ^ sh)
        | _ => decide (half < rest ∨ (rest = half ∧ k % 2 = 1))
      k + b2n up

/-- The largest finite value of a format: its significand and its quantum. -/
def maxSig (f : Fmt) : Nat := if f.kind = 1 then 2 ^ (f.t + 1) - 2 else 2 ^ (f.t + 1) - 1
def maxExp (f : Fmt) : Int :=
  ((if f.kind = 0 then expMax f - 1 else expMax f : Nat) : Int) - f.bias - f.t

/-- The encoding of (-1)^neg × k × 2^q, k at most 2^(t+1), representable. -/
def packF (f : Fmt) (neg : Bool) (k : Nat) (q : Int) : Nat :=
  let s := b2n neg * 2 ^ (f.bits - 1)
  if k = 0 then s
  else if k = 2 ^ (f.t + 1) then s + ((q + 1 + f.bias + f.t).toNat) * 2 ^ f.t
  else
    let sh := f.t - log2 k
    let k' := k * 2 ^ sh
    let ex := q - sh + f.bias + f.t
    if ex ≤ 0 then s + k * 2 ^ (q - (1 - f.bias - f.t)).toNat else s + ex.toNat * 2 ^ f.t + (k' - 2 ^ f.t)

/-- The largest finite value, and an infinity or what stands for it (R133). -/
def packMax (f : Fmt) (neg : Bool) : Nat := packF f neg (maxSig f) (maxExp f)

/-- R124; a format without a NaN receives +0 (R133). -/
def packNaN (f : Fmt) : Nat :=
  match f.kind with
  | 0 => expMax f * 2 ^ f.t + 2 ^ (f.t - 1)
  | 1 => 0x7F
  | _ => 0

/-- An infinite value in a format (R133). -/
def packInf (f : Fmt) (sat neg : Bool) : Nat :=
  if sat then packMax f neg
  else match f.kind with
    | 0 => b2n neg * 2 ^ (f.bits - 1) + expMax f * 2 ^ f.t
    | 1 => 0x7F
    | _ => packMax f neg

/-- A result that overflows (R133). -/
def packOver (f : Fmt) (r : Rnd) (neg : Bool) : Nat :=
  if r.sat || f.kind = 2 then packMax f neg
  else if r.mode = 1 || (r.mode = 2 && !neg) || (r.mode = 3 && neg) then packMax f neg
  else packInf f false neg

/-- k × 2^q exceeds the largest finite value. -/
def exceeds (f : Fmt) (k : Nat) (q : Int) : Bool :=
  if q ≤ maxExp f then decide (maxSig f * 2 ^ (maxExp f - q).toNat < k)
  else decide (maxSig f < k * 2 ^ (q - maxExp f).toNat)

/-- `round_to` for a floating-point format (R130 to R134). -/
def roundF (f : Fmt) (r : Rnd) : FVal → Nat
  | .nan => packNaN f
  | .inf neg => packInf f r.sat neg
  | .fin neg m e =>
    if m = 0 then packF f neg 0 0
    else
      let q := (log2 m : Int) + e - f.t
      let k := roundMag r neg m e q
      let qmin := 1 - f.bias - f.t
      let tiny := decide ((log2 k : Int) + q < 1 - f.bias)
      if tiny then
        if r.ftzo then packF f neg 0 0 else packF f neg (roundMag r neg m e qmin) qmin
      else if exceeds f k q then packOver f r neg
      else packF f neg k q

/-- Rounding to an integer (R130). -/
def roundI (r : Rnd) (neg : Bool) (m : Nat) (e : Int) : Int :=
  let k : Int := (roundMag r neg m e 0 : Nat)
  if neg then -k else k

/-- Clamps to an integer format (R132). -/
def satI (n : Nat) (sg : Bool) (i : Int) : Int :=
  if sg then max (-(2 : Int) ^ (n - 1)) (min i ((2 : Int) ^ (n - 1) - 1)) else max 0 (min i ((2 : Int) ^ n - 1))

/-- Conversion to an integer format: always saturates, NaN gives 0 (R132). -/
def roundToInt (n : Nat) (sg : Bool) (r : Rnd) : FVal → Nat
  | .nan => 0
  | .inf neg => wrap (satI n sg (if neg then -(2 : Int) ^ 70 else (2 : Int) ^ 70)) n
  | .fin neg m e => wrap (satI n sg (roundI r neg m e)) n

/-- `round_to(v, code, …)` (R163). -/
def roundTo (code : Nat) (r : Rnd) (v : FVal) : Nat :=
  match fmtOf code with
  | some f => roundF f r v
  | none => match intOf code with
    | some (n, sg) => roundToInt n sg r v
    | none => 0

/-! Exact operations -/

def FVal.isNaN : FVal → Bool
  | .nan => true
  | _ => false
def FVal.isZero : FVal → Bool
  | .fin _ m _ => m = 0
  | _ => false
def FVal.neg : FVal → FVal
  | .nan => .nan
  | .inf s => .inf (!s)
  | .fin s m e => .fin (!s) m e
def FVal.isNeg : FVal → Bool
  | .nan => false
  | .inf s => s
  | .fin s _ _ => s

/-- m × 2^e as an integer multiple of 2^q, for q at most e. -/
def scaleTo (neg : Bool) (m : Nat) (e q : Int) : Int :=
  let k : Int := (m * 2 ^ (e - q).toNat : Nat)
  if neg then -k else k

/-- The exact sum (R130: an exact zero of operands of opposite sign is +0, but -0 under RDN). -/
def fAdd (mode : Nat) : FVal → FVal → FVal
  | .nan, _ => .nan
  | _, .nan => .nan
  | .inf s, .inf t => if s = t then .inf s else .nan
  | .inf s, .fin _ _ _ => .inf s
  | .fin _ _ _, .inf t => .inf t
  | .fin s m e, .fin t n g =>
    let q := min e g
    let i := scaleTo s m e q + scaleTo t n g q
    if i = 0 then .fin (if s = t then s else decide (mode = 2)) 0 0 else .fin (decide (i < 0)) i.natAbs q

def fSub (mode : Nat) (a b : FVal) : FVal := fAdd mode a b.neg

/-- The exact product. -/
def fMul : FVal → FVal → FVal
  | .nan, _ => .nan
  | _, .nan => .nan
  | .inf s, .inf t => .inf (s != t)
  | .inf s, .fin t n _ => if n = 0 then .nan else .inf (s != t)
  | .fin s m _, .inf t => if m = 0 then .nan else .inf (s != t)
  | .fin s m e, .fin t n g => .fin (s != t) (m * n) (e + g)

/-- m / n to 256 bits or more, with a lowest bit that says whether anything was cut off: rounds as the exact quotient. -/
def quot (m n : Nat) : Nat × Int :=
  let sh := 256 + bitLen n
  let q := m * 2 ^ sh / n
  (2 * q + b2n (m * 2 ^ sh % n != 0), -(sh : Int) - 1)

/-- The quotient: x/0 is an infinity, 0/0 and inf/inf are NaN. -/
def fDiv : FVal → FVal → FVal
  | .nan, _ => .nan
  | _, .nan => .nan
  | .inf _, .inf _ => .nan
  | .inf s, .fin t _ _ => .inf (s != t)
  | .fin s _ _, .inf t => .fin (s != t) 0 0
  | .fin s m e, .fin t n g =>
    if n = 0 then (if m = 0 then .nan else .inf (s != t))
    else if m = 0 then .fin (s != t) 0 0
    else let q := quot m n; .fin (s != t) q.1 (q.2 + e - g)

/-- floor(sqrt x) bit by bit: k bits still to decide, from the top. -/
def isqrtFrom (x : Nat) : Nat → Nat → Nat
  | 0, r => r
  | k + 1, r => let r' := r + 2 ^ k; isqrtFrom x k (if r' * r' ≤ x then r' else r)

def isqrt (x : Nat) : Nat := isqrtFrom x (bitLen x / 2 + 1) 0

/-- The square root to 150 bits or more, with a sticky lowest bit; a negative value gives NaN, a zero keeps its sign. -/
def fSqrt : FVal → FVal
  | .nan => .nan
  | .inf s => if s then .nan else .inf false
  | .fin s m e =>
    if m = 0 then .fin s 0 0
    else if s then .nan
    else
      let odd := e % 2 != 0
      let m' := (if odd then 2 * m else m) * 2 ^ 300
      let e' := if odd then e - 1 else e
      let r := isqrt m'
      .fin false (2 * r + b2n (r * r != m')) (e' / 2 - 151)

/-- Comparison of finite values and infinities: negative, zero or positive; NaN gives none. -/
def fCmp : FVal → FVal → Option Int
  | .nan, _ => none
  | _, .nan => none
  | .inf s, .inf t => some (if s = t then 0 else if s then -1 else 1)
  | .inf s, .fin _ _ _ => some (if s then -1 else 1)
  | .fin _ _ _, .inf t => some (if t then 1 else -1)
  | .fin s m e, .fin t n g =>
    let q := min e g
    some (scaleTo s m e q - scaleTo t n g q)

/-- `scale_of` (R135): the value of an E8M0 byte. -/
def e8m0 (x : Nat) : FVal := if x % 256 = 255 then .nan else .fin false 1 ((x % 256 : Nat) - 127)

/-- v divided by 2^k, exactly. -/
def fScale (v : FVal) (k : Int) : FVal :=
  match v with
  | .fin s m e => .fin s m (e + k)
  | v => v

/-- floor(log2 |v|) of a nonzero finite value. -/
def fLog2 : FVal → Int
  | .fin _ m e => (log2 m : Int) + e
  | _ => 0

/-- `fp16_rne` and `fp32_rne` (R163). -/
def fp16Rne (v : FVal) : Nat := roundTo 3 {} v
def fp32Rne (v : FVal) : Nat := roundTo 1 {} v
/-- `int8_rne_sat(y, lo, hi)`: y to the nearest integer, ties to even, clamped. -/
def int8RneSat (lo hi : Int) : FVal → Int
  | .nan => 0
  | .inf s => if s then lo else hi
  | .fin s m e => max lo (min hi (roundI {} s m e))
/-- `e4m3_rne_sat(y)`. -/
def e4m3RneSat (v : FVal) : Nat := roundTo 5 { sat := true } v

end Sys2Proof.Machine
end

