-- ==== Sys2Proof/Machine/Access.lean ====
section
/-! DEFINITION. Accesses of the current hart to memory and tiles, through its store buffer and its core's combining
buffer (R45, R46, R229, R230). -/

namespace Sys2Proof.Machine

/-- f(old, v) of R229 on elements of n bytes; the codes are those of R228. -/
def vamoF (op n old v : Nat) : Nat :=
  match op with
  | 0 => atomicInt 0 n old v
  | 1 =>
    let code := if n = 8 then 0 else 1
    roundTo code {} (fAdd 0 (decode code old false) (decode code v false))
  | 2 => atomicInt 5 n old v
  | 3 => atomicInt 6 n old v
  | 4 => atomicInt 1 n old v
  | 5 => atomicInt 2 n old v
  | 6 => atomicInt 3 n old v
  | _ => v % 2 ^ (8 * n)

/-- An element merges into a combining entry (R230): swap replaces, the other operations apply to the pending value. -/
def combMerge (op n pending v : Nat) : Nat := if op = 7 then v else vamoF op n pending v

/-- An entry retires as one request at its home slice (R230); at a poisoned line it is not applied (R38). It is no write of a task's own member for R383: a task one of whose
members has issued an atomic is impure already (R375, R376). -/
def combApply (e : CombEntry) (s : State) : State :=
  if linePoisoned s e.pa e.n then s else putBytesBy none e.pa (toBytes (vamoF e.op e.n (getMem s e.pa e.n) e.val) e.n) s

/-- The entries of core c that p picks retire, oldest first. -/
def combFlush (c : Nat) (p : CombEntry → Bool) (s : State) : State :=
  let es := (getCore s c).comb
  if es.isEmpty then s
  else
    (es.filter p).foldl (fun t e => combApply e t)
      (modCore c (fun k => { k with comb := k.comb.filter (fun e => !p e) }) s)

/-- Entries of the hart's core that the bytes touch retire before the access (R230). -/
def combBefore (l : Loc) (n : Nat) (s : State) : State :=
  match l with
  | .pa a => combFlush (myCore s) (fun e => overlaps e.pa e.n a n) s
  | .tile _ => s

/-- n bytes read by a vector, stream, fabric or matrix access of the hart. -/
def accRead (s : State) (l : Loc) (n : Nat) : Nat := if isReg l then 0 else ownRead s l n

/-- n bytes written by such an access: earlier buffered stores of the bytes perform first (R46). -/
def accWrite (l : Loc) (n v : Nat) (pois : Bool) (s : State) : State :=
  if isReg l then s
  else
    let s1 := combBefore l n (if buffered s l n then drainStores s else s)
    let s2 := writeLoc l n v s1
    if pois then poisonLoc l s2 else s2

/-! Pool memory behind the L2 (R336) -/

/-- The n bytes at a as the memory device has them. -/
def beyondL2 (a n : Nat) (s : State) : State :=
  loop (fun i t => match Tab.get none t.far (a + i) with
    | some b => { t with mem := Tab.set memDefault t.mem (a + i) b }
    | none => t) 0 n s

/-- The n bytes at a as the L2 had them in the state old; not those that have been written since. -/
def behindL2 (old : State) (a n : Nat) (s : State) : State :=
  loop (fun i t => match Tab.get none t.far (a + i) with
    | some _ => { t with mem := Tab.set memDefault t.mem (a + i) (getByte old (a + i)) }
    | none => t) 0 n s

/-- Reading n bytes at l past the L2: on a page of MT = 1 or 2 f finds what the memory device has (R28, R336). -/
def pastL2 (mt : Nat) (l : Loc) (n : Nat) (wr : Bool) (f : State → State) (s : State) : State :=
  match l with
  | .pa a => if mt = 0 ∨ wr = true ∨ s.far = [] then f s else behindL2 s a n (f (beyondL2 a n s))
  | .tile _ => f s

/-- n bytes that the hart reads past the L2. -/
def readPast (mt : Nat) (s : State) (l : Loc) (n : Nat) : Nat :=
  match l with
  | .pa a => if mt = 0 ∨ s.far = [] then accRead s l n else accRead (beyondL2 a n s) l n
  | .tile _ => accRead s l n

/-- n bytes of memory that an agent other than the vector side reads on a page of memory type mt. -/
def bytesPast (mt : Nat) (s : State) (a n : Nat) : List Byte :=
  if mt = 0 ∨ s.far = [] then getBytes s a n else getBytes (beyondL2 a n s) a n

/-! Streams of the hart that are not over (R70 to R74) -/

/-- The stream has retired and is not over. -/
def CqEntry.live (q : CqEntry) : Bool := q.phase = 1 || q.phase = 2

/-- The hart's entries on its core's copy queue; not those of a context displaced from it (R81). -/
def myStreams (s : State) : List CqEntry :=
  ((getCore s (myCore s)).cq.map (·.2)).filter (fun q => q.hart = s.hn && q.frame.isNone && q.live)

/-- The frame filter bit of a physical address (R70). -/
def frameBit (pa : Nat) : Nat :=
  let f := pa / 131072
  Nat.xor (Nat.xor (Nat.xor (fld f 0 6) (fld f 6 6)) (Nat.xor (fld f 12 6) (fld f 18 6))) (Nat.xor (fld f 24 6) (fld f 30 3))

/-! Stores that cover a line -/

/-- Poison of a place ends (R37, R84). -/
def cleanLoc (l : Loc) (s : State) : State :=
  match l with
  | .pa a => cleanLine a s
  | .tile o => { s with tilePois := Tab.set false s.tilePois (tileKey (myCore s) o / 64) false }

/-- What the slot in hand has written of a poisoned unit (a line of 128 bytes, a tile word of 64) with the n bytes at l, which
lie in it: the store that has written all of it, clean, ends its poison (R37, R84; log 40). -/
def coverUnit (l : Loc) (n : Nat) (clean : Bool) (s : State) : State :=
  let unit := match l with | .pa _ => 128 | .tile _ => 64
  let key := 262144 + locKey s l / unit
  let m := coverMaskOf (Tab.get 0 s.hart.iss.cover key) (locKey s l % unit) n clean
  let t := updIss (fun i => { i with cover := Tab.set 0 i.cover key m }) s
  if m = 2 ^ unit - 1 then cleanLoc l t else t

/-- The unit that holds a place is poisoned. -/
def unitPois (s : State) (l : Loc) : Bool :=
  match l with
  | .pa a => linePoisoned s a 1
  | .tile o => tilePoisoned s (myCore s) o 1

/-- A place k bytes on. -/
def Loc.plus (l : Loc) (k : Nat) : Loc :=
  match l with
  | .pa a => .pa (a + k)
  | .tile o => .tile (o + k)

/-- A store of n bytes at l, clean or poisoned, in every unit that it touches and that is poisoned. -/
def coverStore (l : Loc) (n : Nat) (clean : Bool) (s : State) : State :=
  let unit := match l with | .pa _ => 128 | .tile _ => 64
  let first := min n (unit - locKey s l % unit)
  let one (k len : Nat) (t : State) : State :=
    if len != 0 && unitPois t (l.plus k) then coverUnit (l.plus k) len clean t else t
  loop (fun i t => one (first + unit * i) (min unit (n - first - unit * i)) t) 0 (ceilDiv (n - first) unit) (one 0 first s)

/-- n bytes written by a vector, stream, fabric or matrix store, with the poison of the value (R37, R39). -/
def accStore (l : Loc) (n v : Nat) (pois : Bool) (s : State) : State :=
  if isReg l then s else coverStore l n (!pois) (accWrite l n v pois s)

/-- Every earlier store and combined atomic of the hart performs at its home slice: what a release and the drains wait
for, the headlands of streams apart. -/
def performAll (s : State) : State := combFlush (myCore s) (fun _ => true) (drainStores s)

/-- A relaxed read of the whole element at a place, with what the check found; demotion of R376 when it violates. -/
def noteViolation (viol : Bool) (s : State) : State := if viol then demote s else s

end Sys2Proof.Machine
end

