-- ==== Sys2Proof/Machine/FabImage.lean ====
section
/-! DEFINITION. Fabric configuration images (R83, R89, R90, R97, R98, R276 to R282): their words, the graph they describe,
and the first malformed word. -/

namespace Sys2Proof.Machine

/-! The header and the words (R276, R277) -/

def imgHdr (img : List Word) : Word := img.headD 0
def imgBlocks (img : List Word) : Nat := wfld (imgHdr img) 24 16
def imgEdges (img : List Word) : Nat := wfld (imgHdr img) 40 8
/-- The scalar registers that hold the lengths of va and vb; 0: not streamed. -/
def imgLenA (img : List Word) : Nat := wfld (imgHdr img) 11 5
def imgLenB (img : List Word) : Nat := wfld (imgHdr img) 6 5

/-- Words before the routes, and in all, of an image with this header. -/
def imgRoute0 (h : Word) : Nat := 8 + 4 * popcount (wfld h 24 16) 16 + popcount (wfld h 40 8) 8
def imgWords (h : Word) : Nat := imgRoute0 h + wfld h 16 8

/-- Where compute tile n (kind 0), memory tile n (kind 1) or edge tile n (kind 2) lies (R277); edges at x = 100. -/
def fabXY (kind n : Nat) : Nat × Nat :=
  if kind = 2 then (100, n)
  else (2 * (n % 4) + (if kind = 0 then n / 4 % 2 else 1 - n / 4 % 2), n / 4)

/-- The binding block of a position (R83). -/
def blockAt (p : Nat × Nat) : Nat := 4 * (p.2 / 2) + p.1 / 2

/-- The position lies in an occupied block. -/
def inBlocks (img : List Word) (p : Nat × Nat) : Bool := decide (p.1 < 8) && nbit (imgBlocks img) (blockAt p)

/-- The index of the word of a tile or an edge tile; none when the image has none. -/
def fabIdx (img : List Word) (kind n : Nat) : Option Nat :=
  if kind = 2 then
    if n < 8 && nbit (imgEdges img) n then some (8 + 4 * popcount (imgBlocks img) 16 + popcount (imgEdges img) n) else none
  else
    let p := fabXY kind n
    if n < 32 && inBlocks img p then some (8 + 4 * popcount (imgBlocks img) (blockAt p) + 2 * (p.2 % 2) + p.1 % 2) else none

/-- The word of a tile or an edge tile; 0 when the image has none. -/
def fabWord (img : List Word) (kind n : Nat) : Word :=
  match fabIdx img kind n with
  | some i => nth 0 img i
  | none => 0

/-- The tiles, edges or nodes of a kind that the image holds. -/
def fabTiles (img : List Word) (kind : Nat) : List Nat := (range 0 32).filter (fun n => (fabIdx img kind n).isSome)

def imgRoutes (img : List Word) : List Word := (img.drop (imgRoute0 (imgHdr img))).take (wfld (imgHdr img) 16 8)

/-! Compute-tile words (R278) -/

def cOp (w : Word) : Nat := wfld w 58 6
def cFmt (w : Word) : Nat := wfld w 54 4
def cRnd (w : Word) : Nat := wfld w 51 3
def cSat (w : Word) : Bool := wbit w 50
def cFtz (w : Word) : Bool := wbit w 49
def cNout (w : Word) : Nat := wfld w 46 3
def cSrcA (w : Word) : Nat := wfld w 44 2
def cSrcB (w : Word) : Nat := wfld w 42 2
def cFk (w : Word) : Nat := wfld w 39 3
def cUns (w : Word) : Bool := wbit w 38
def cK (w : Word) : Nat := wfld w 0 32

/-- The format is one of floating point. -/
def cFloat (w : Word) : Bool := decide (cFmt w ≤ 3)

/-- Inputs that an operation reads (R283): A 1, B 2, C 4. -/
def opReads (op : Nat) : Nat :=
  if op = 1 ∨ op = 0x18 ∨ op = 0x19 ∨ op = 0x1A ∨ op = 0x1B ∨ op = 0x1C then 1
  else if (2 ≤ op ∧ op ≤ 4) ∨ (6 ≤ op ∧ op ≤ 0xC) ∨ (0x10 ≤ op ∧ op ≤ 0x15) then 3
  else if op = 5 ∨ op = 0x22 then 7
  else if op = 0x1D then 4
  else if op = 0x20 ∨ op = 0x21 ∨ op = 0x23 then 5
  else 0

/-- R278, R282, R283 for a compute-tile word by itself. -/
def badCompute (w : Word) : Bool :=
  let op := cOp w; let f := cFmt w
  (op != 0 && opReads op = 0) || f = 4 || f = 5 || f = 6 || f = 7 || f = 8 || f = 13 || f = 14 || decide (4 < cRnd w)
    || cSrcA w = 3 || cSrcB w = 3 || wfld w 32 6 != 0 || (decide (8 ≤ op ∧ op ≤ 0xC) && cFloat w)
    || (cUns w && (cFloat w || f = 9 || f = 10)) || (cNout w != 0 && op != 0x23)

/-! Memory-tile words (R89, R90) -/

def mMode (w : Word) : Nat := wfld w 60 4
/-- Element width in bytes. -/
def mBytes (w : Word) : Nat := 2 ^ wfld w 57 2
/-- FIFO and reorder: elements of an entry; entries. -/
def mEnt (w : Word) : Nat := 2 ^ wfld w 45 3
def mCap (w : Word) : Nat := wfld w 36 9 + 1
def mTagged (w : Word) : Bool := wbit w 35
/-- Operand store. -/
def mBufs (w : Word) : Nat := wfld w 46 2 + 1
def mBufWords (w : Word) : Nat := wfld w 38 8 + 1
def mRepeat (w : Word) : Nat := wfld w 30 8 + 1
/-- Line buffer. -/
def mRows (w : Word) : Nat := wfld w 44 4 + 1
def mRowLen (w : Word) : Nat := wfld w 32 12 + 1
def mWin (w : Word) : Nat := wfld w 28 4 + 1
def mStepX (w : Word) : Nat := wfld w 26 2 + 1
/-- Fibre store: bytes of a coordinate, UNION, POSV, entries. -/
def mCoord (w : Word) : Nat := if wbit w 47 then 4 else 2
def mUnion (w : Word) : Bool := wbit w 46
def mPosv (w : Word) : Bool := wbit w 45
def mFibres (w : Word) : Nat := wfld w 31 14 + 1
/-- Reorder: the first tag. -/
def mBase (w : Word) : Nat := wfld w 20 16

/-- R89, R90. -/
def badMem (w : Word) : Bool :=
  let eb := mBytes w
  decide (5 < mMode w) || wbit w 59 || wfld w 48 9 != 0 ||
  (match mMode w with
    | 0 => wfld w 0 60 != 0
    | 1 => wfld w 0 30 != 0 || mBufs w = 1 || decide (256 < mBufs w * mBufWords w)
    | 2 => wfld w 0 35 != 0 || decide (16384 < mCap w * mEnt w * eb)
    | 3 => wfld w 0 26 != 0 || decide (mRowLen w < mWin w) || decide (16384 < mRows w * mRowLen w * eb)
    | 4 => wfld w 0 31 != 0 || decide (16384 < mFibres w * (mCoord w + (if mPosv w then 0 else eb)))
    | _ => wfld w 0 20 != 0 || decide (16384 < mCap w * mEnt w * eb))

/-! Edge words (R97, R98) -/

def eXf (w : Word) : Nat := wfld w 61 3
def eOut (w : Word) : Bool := wbit w 60
def ePort (w : Word) : Nat := wfld w 58 2
def eBytes (w : Word) : Nat := 2 ^ wfld w 55 2
def eBase (w : Word) : Nat := wfld w 52 3
/-- Row length and pitch in bytes. -/
def eRow (w : Word) : Nat := (wfld w 32 8 + 1) * 64
def ePitch (w : Word) : Int := if wfld w 40 12 = 0 then (eRow w : Int) else sext (wfld w 40 12) 12 * 64
def kvqWindow (w : Word) : Nat := 64 * (wfld w 26 6 + 1)
def kvqE4m3 (w : Word) : Bool := wbit w 25
def kvqChans (w : Word) : Nat := 8 * (wfld w 16 9 + 1)
def zrpStrict (w : Word) : Bool := wbit w 31
def zrpDecl (w : Word) : Nat := wfld w 0 24
def repBits (w : Word) : Nat := wfld w 28 4 + 1
def repPitch (w : Word) : Nat := wfld w 16 12
def repOff (w : Word) : Nat := wfld w 13 3
def repSext (w : Word) : Bool := wbit w 12

/-- R97, R98 for an edge word by itself. -/
def badEdgeAlone (w : Word) : Bool :=
  let mem := decide (ePort w = 3)
  decide (4 < eXf w) || wbit w 57 || (if mem then decide (5 < eBase w) else eBase w != 0)
    || (decide (eXf w = 1 ∨ eXf w = 2 ∨ eXf w = 3) && (wfld w 32 20 != 0 || !mem)) ||
  (match eXf w with
    | 1 => wfld w 0 16 != 0 || !eOut w || eBytes w != 2 || decide (4 < eBase w)
    | 2 => wfld w 24 7 != 0 || eOut w || zrpDecl w = 0
    | 3 => wfld w 0 12 != 0 || decide (repPitch w < repBits w) || decide (8 * eBytes w < repBits w)
    | _ => wfld w 0 32 != 0)

/-! Route words (R280, R281) -/

def rSk (w : Word) : Nat := wfld w 62 2
def rSrc (w : Word) : Nat := wfld w 57 5
def rSport (w : Word) : Nat := wfld w 54 3
def rDk (w : Word) : Nat := wfld w 52 2
def rDst (w : Word) : Nat := wfld w 47 5
def rDport (w : Word) : Nat := wfld w 45 2
def rYf (w : Word) : Bool := wbit w 44
def rCh (w : Word) : Nat := wfld w 42 2
def rInit (w : Word) : Bool := wbit w 41
def rIval (w : Word) : Nat := wfld w 0 32

/-- The positions after a, one step at a time, up to b along one axis. -/
def stepsTo (a b : Nat) : List Nat := if a ≤ b then range (a + 1) (b - a) else (range b (a - b)).reverse

/-- The positions after p on the way to q, along the row first or the column first. -/
def wayTo (p q : Nat × Nat) (yf : Bool) : List (Nat × Nat) :=
  if yf then (stepsTo p.2 q.2).map (fun y => (p.1, y)) ++ (stepsTo p.1 q.1).map (fun x => (x, q.2))
  else (stepsTo p.1 q.1).map (fun x => (x, p.2)) ++ (stepsTo p.2 q.2).map (fun y => (q.1, y))

/-- The positions of an arc in order; an edge tile is reached through (0, e). -/
def arcPath (w : Word) : List (Nat × Nat) :=
  let p := fabXY (rSk w) (rSrc w); let q := fabXY (rDk w) (rDst w)
  let p' := if rSk w = 2 then (0, p.2) else p; let q' := if rDk w = 2 then (0, q.2) else q
  (if rSk w = 2 then [p] else []) ++ [p'] ++ wayTo p' q' (rYf w) ++ (if rDk w = 2 then [q] else [])

/-- The links of an arc. -/
def arcLinks (w : Word) : List ((Nat × Nat) × (Nat × Nat)) := (arcPath w).zip (arcPath w).tail

/-- The routes that satisfy p, with their numbers. -/
def routesWhere (img : List Word) (p : Word → Bool) : List (Nat × Word) :=
  ((range 0 256).zip (imgRoutes img)).filter (fun r => p r.2)

/-- The arcs into an input port, and out of an output port. -/
def arcsInto (img : List Word) (kind n port : Nat) : List (Nat × Word) :=
  routesWhere img (fun r => rDk r = kind && rDst r = n && rDport r = port)
def arcsFrom (img : List Word) (kind n port : Nat) : List (Nat × Word) :=
  routesWhere img (fun r => rSk r = kind && rSrc r = n && rSport r = port)

/-- The fibre-store tile adjacent to compute tile n that feeds its input port (R93). -/
def fibreAt (img : List Word) (n port : Nat) : Option Nat :=
  let p := fabXY 0 n
  ((arcsInto img 0 n port).find? (fun r =>
    let q := fabXY 1 (rSrc r.2)
    rSk r.2 = 1 && mMode (fabWord img 1 (rSrc r.2)) = 4
      && decide ((max p.1 q.1 - min p.1 q.1) + (max p.2 q.2 - min p.2 q.2) = 1))).map (fun r => rSrc r.2)

/-- The intersection unit of compute tile n is active: the fibres it compares (R93, R286). -/
def unitOf (img : List Word) (n : Nat) : Option (Nat × Nat) :=
  let w := fabWord img 0 n
  if cOp w = 0 || cSrcA w != 0 || cSrcB w != 0 then none
  else match fibreAt img n 0, fibreAt img n 1 with
    | some a, some b => some (a, b)
    | _, _ => none

/-! The first malformed word (R282) -/

/-- The source port is valid for its kind and operation. -/
def goodSource (img : List Word) (r : Word) : Bool :=
  let w := fabWord img (rSk r) (rSrc r)
  match rSk r with
  | 0 => cOp w != 0 && decide (rSport r ≤ if cOp w = 0x23 then cNout w else if cOp w = 0x20 then 1 else 0)
  | 1 => mMode w != 0 && rSport r = 0
  | _ => !eOut w && rSport r = 0

/-- The destination port is valid for its kind and operation. -/
def goodDest (img : List Word) (r : Word) : Bool :=
  let w := fabWord img (rDk r) (rDst r)
  match rDk r with
  | 0 =>
    let u := (unitOf img (rDst r)).isSome
    cOp w != 0 &&
      (match rDport r with
        | 0 => (u || nbit (opReads (cOp w)) 0) && cSrcA w = 0
        | 1 => (u || nbit (opReads (cOp w)) 1) && cSrcB w = 0
        | _ => !u && nbit (opReads (cOp w)) 2)
  | 1 => mMode w != 0 && (rDport r = 0 || (rDport r = 1 && mMode w = 4 && !mPosv w))
  | _ => eOut w && rDport r = 0

/-- The arc shares a link, direction and channel with an earlier one. -/
def sharesLink (img : List Word) (i : Nat) (r : Word) : Bool :=
  (routesWhere img (fun _ => true)).any (fun q =>
    decide (q.1 < i) && rCh q.2 = rCh r && (arcLinks q.2).any (fun l => (arcLinks r).contains l))

/-- Route word i is malformed. -/
def badRoute (img : List Word) (i : Nat) (r : Word) : Bool :=
  rSk r = 3 || rDk r = 3 || wfld r 32 9 != 0 || rDport r = 3
    || (fabIdx img (rSk r) (rSrc r)).isNone || (fabIdx img (rDk r) (rDst r)).isNone
    || !(arcPath r).all (fun p => p.1 = 100 || inBlocks img p)
    || !goodSource img r || !goodDest img r
    || (arcsInto img (rDk r) (rDst r) (rDport r)).any (fun q => decide (q.1 < i))
    || decide (4 ≤ ((arcsFrom img (rSk r) (rSrc r) (rSport r)).filter (fun q => decide (q.1 < i))).length)
    || sharesLink img i r

/-- An input that compute tile n reads from an arc has one. -/
def unfed (img : List Word) (n : Nat) : Bool :=
  let w := fabWord img 0 n
  let none' (p : Nat) : Bool := (arcsInto img 0 n p).isEmpty
  (nbit (opReads (cOp w)) 0 && cSrcA w = 0 && none' 0) || (nbit (opReads (cOp w)) 1 && cSrcB w = 0 && none' 1)
    || (nbit (opReads (cOp w)) 2 && (unitOf img n).isNone && none' 2)

/-- The FIFO tiles at the end of arcs from output port FK of compute tile n. -/
def freeTiles (img : List Word) (n : Nat) : List Nat :=
  ((arcsFrom img 0 n (cFk (fabWord img 0 n))).filter (fun r =>
    rDk r.2 = 1 && mMode (fabWord img 1 (rDst r.2)) = 2)).map (fun r => rDst r.2)

/-- The word of compute tile n is malformed. -/
def badNode (img : List Word) (n : Nat) : Bool :=
  let w := fabWord img 0 n
  badCompute w || unfed img n || ((cSrcA w = 2 || cSrcB w = 2) && (freeTiles img n).isEmpty)

/-- A unit compares memory tile n with a fibre whose UNION differs, and n's word is the first of the pair. -/
def badPair (img : List Word) (n : Nat) : Bool :=
  (fabTiles img 0).any (fun c =>
    match unitOf img c with
    | some (a, b) =>
      mUnion (fabWord img 1 a) != mUnion (fabWord img 1 b)
        && (if (fabIdx img 1 a).getD 0 ≤ (fabIdx img 1 b).getD 0 then n = a else n = b)
    | none => false)

/-- Edge words below edge e that have a port. -/
def portsBelow (img : List Word) (e p : Nat) : Nat :=
  ((fabTiles img 2).filter (fun k => decide (k < e) && ePort (fabWord img 2 k) = p)).length

/-- The word of edge e is malformed. -/
def badEdge (img : List Word) (e : Nat) : Bool :=
  let w := fabWord img 2 e; let p := ePort w
  badEdgeAlone w || decide ((if p = 3 then 2 else 1) ≤ portsBelow img e p) || (decide (p ≤ 1) && eOut w) || (p = 2 && !eOut w)
    || (p = 0 && imgLenA img = 0) || (p = 1 && imgLenB img = 0)

/-- Word i of the image is malformed. -/
def badWord (img : List Word) (i : Nat) : Bool :=
  let w := nth 0 img i
  if i = 0 then wfld w 48 16 != 0x0100 || wfld w 0 6 != 0 || imgBlocks img = 0
  else if i < 8 then w != 0
  else if imgRoute0 (imgHdr img) ≤ i then badRoute img (i - imgRoute0 (imgHdr img)) w
  else
    (fabTiles img 0).any (fun n => fabIdx img 0 n = some i && badNode img n)
      || (fabTiles img 1).any (fun n => fabIdx img 1 n = some i && (badMem w || badPair img n))
      || (fabTiles img 2).any (fun n => fabIdx img 2 n = some i && badEdge img n)

/-- The byte offset of the first malformed word. -/
def malformedAt (img : List Word) : Option Nat := (findFrom (badWord img) 0 img.length).map (fun i => 8 * i)

end Sys2Proof.Machine
end

