-- ==== Sys2Proof/Machine/Locks.lean ====
section
/-! DEFINITION. The interlock table (R70 to R72). The entries of a stream are the two sides of its entry in the copy queue; those of
a vector, matrix or fabric access that has committed and not performed follow from its convoy in the VQ, or its entry in the
MQ. -/

namespace Sys2Proof.Machine

/-! Pages -/

/-- A page of an access, in 128 KiB units: its number and frame, and the leaf that it was translated by. -/
structure PageUse where
  page : Nat
  frame : Nat
  leaf : LeafUse
  deriving DecidableEq, Repr

/-- What each 128 KiB page that [va, va + n) touches outside the window has, as it is translated now (R32). -/
def pageLeaves {α : Type} (d : α) (get : Word → Nat → Word → α) (s : State) (va : Word) (n : Nat) : List α :=
  if n = 0 ∨ inWindow va = true then []
  else (range (va.toNat / 131072) ((va.toNat + n - 1) / 131072 - va.toNat / 131072 + 1)).map (fun f =>
    match translateAs s (wfld s.hart.asid 0 16) s.hart.ptbase (word (f * 131072)) with
    | .leaf e size => get e size (word (f * 131072))
    | _ => d)

/-- The physical addresses of those pages. -/
def pageFrames : State → Word → Nat → List Nat := pageLeaves 0 leafPa

/-- Their leaves. -/
def leafUses : State → Word → Nat → List LeafUse := pageLeaves {} (fun e size _ => { size := size, glob := wbit e 6, mt := wfld e 7 2 })

/-- The pages from va on, whose frames and leaves are given. -/
def pageUses (va : Nat) (frames : List Nat) (leaves : List LeafUse) : List PageUse :=
  (range 0 frames.length).map (fun i => { page := va / 131072 + i, frame := nth 0 frames i, leaf := nth {} leaves i })

/-! Entries -/

/-- One side of an access that is not over: whether it writes, its bytes, its pages (none in the window) and the `asid` of its
space, and whether its bytes are not known yet; plain: its pages are of MT = 0, whatever they are (R229). -/
structure Lock where
  wr : Bool := false
  va : Nat := 0
  bytes : Nat := 0
  pages : List PageUse := []
  asid : Nat := 0
  wild : Bool := false
  plain : Bool := false
  deriving DecidableEq, Repr

/-- The entry's 128-byte hull or its frame filter meets n bytes at va whose frames are given (R70, R72). -/
def Lock.hits (k : Lock) (va n : Nat) (frames : List Nat) : Bool :=
  k.wild || (k.bytes != 0
    && (overlaps (k.va / 128 * 128) ((k.va + k.bytes + 127) / 128 * 128 - k.va / 128 * 128) va n
      || k.pages.any (fun f => frames.any (fun g => frameBit f.frame = frameBit g))))

/-- The access is one to pages of MT = 1 or 2 (R28). -/
def Lock.device (k : Lock) : Bool := !k.plain && (k.wild || k.pages.any (fun p => p.leaf.mt != 0))

/-- Two entries conflict (R72). -/
def Lock.clash (k x : Lock) : Bool :=
  (k.wr || x.wr) && (k.wild || x.wild || k.hits x.va x.bytes (x.pages.map (·.frame)))

/-- The entry of an access to n bytes at va. -/
def lockAt (s : State) (wr : Bool) (va : Word) (n : Nat) : Lock :=
  { wr := wr, va := va.toNat, bytes := n, pages := pageUses va.toNat (pageFrames s va n) (leafUses s va n), asid := wfld s.hart.asid 0 16 }

/-- The entry of an access to n bytes at each of these addresses. -/
def lockOf (s : State) (wr : Bool) (vas : List Word) (n : Nat) : Lock :=
  match vas with
  | [] => { wr := wr }
  | v :: vs =>
    let lo := vs.foldl (fun m a => min m a.toNat) v.toNat
    let hi := vs.foldl (fun m a => max m a.toNat) v.toNat
    { wr := wr, va := lo, bytes := hi - lo + n, asid := wfld s.hart.asid 0 16
      pages := (vas.flatMap (fun a => pageUses a.toNat (pageFrames s a n) (leafUses s a n))).eraseDups }

/-- The frame of a place. -/
def locFrames : Loc → List Nat
  | .pa p => [p]
  | .tile _ => []

/-! Streams -/

/-- Bytes that a zero-run decoder may read for n bytes of output (R225). -/
def zrpBytes (n : Nat) : Nat := 16 * ceilDiv n 8 + 16

/-- Bytes of a stream's source; a compressed one's entry covers all that its decoder may read (R225). -/
def CqEntry.srcBytes (q : CqEntry) : Nat := if q.zrp then 16 * ceilDiv (q.vl * q.ew) 64 + 16 else q.bytes

/-- The entries that a stream holds (R71): its destination until its last headland, its source until its data have moved. -/
def cqLocks (q : CqEntry) : List Lock :=
  { wr := true, va := q.dst.toNat, bytes := q.bytes, pages := pageUses q.dst.toNat q.dstAt q.dstPg, asid := wfld q.asid 0 16 }
    :: (if q.phase = 1 then
          [{ va := q.src.toNat, bytes := q.srcBytes, pages := pageUses q.src.toNat q.srcAt q.srcPg, asid := wfld q.asid 0 16 }]
        else [])

/-- An entry of a stream conflicts with an access to n bytes at va in these frames (R72). -/
def streamHits (q : CqEntry) (va : Word) (n : Nat) (fs : List Nat) (wr : Bool) : Bool :=
  (cqLocks q).any (fun k => (wr || k.wr) && k.hits va.toNat n fs)

/-- A stream of the hart that has still to move its data holds bytes that the access needs (R72). -/
def unmovedHolds (s : State) (va : Word) (n : Nat) (l : Loc) (wr : Bool) : Bool :=
  (myStreams s).any (fun q => q.phase = 1 && streamHits q va n (locFrames l) wr)

/-- The rows of an incoming stream, as the places where their last bytes end. -/
def rowEnds (q : CqEntry) : List Nat := (range 1 q.rows).map (fun i => q.dst.toNat + i * (q.bytes / q.rows))

/-- A load that chains to the last byte of a row of an incoming strict stream meets its headland, which has MISMATCH
(R68, R74). -/
def strictEnd (s : State) (va : Word) (n : Nat) : Bool :=
  (myStreams s).any (fun q =>
    q.phase = 2 && inWindow q.dst && wbit q.status 57 && wbit q.status 59
      && (rowEnds q).any (fun x => decide (va.toNat < x ∧ x ≤ va.toNat + n)))

/-! Slots of the queues -/

/-- The bytes that a strided access of vl elements of eb bytes touches: its lowest address and their extent. -/
def strideSpan (base stride : Word) (vl eb : Nat) : Word × Nat :=
  let d := (vl - 1) * stride.toInt.natAbs
  (if stride.toInt < 0 then base - word d else base, if vl = 0 then 0 else d + eb)

/-- The addresses of the elements of an indexed access, once they are formed (R71): those that its mask governs. -/
def formedAddrs (s : State) (w : Nat) (base : Word) (eb : Nat) : List Word :=
  ((range s.hart.vstart.toNat (s.hart.vl.toNat - s.hart.vstart.toNat)).filter (governs s (fld w 6 3))).map (fun i =>
    base + word (srcElem s (fld w 9 6) i s.hart.sew * eb))

/-- Rows × columns of the matrix slot. -/
def moveExtent (h : Hart) (a : Act) : Nat :=
  (if wfld a.mshape 0 6 = 0 then h.rows else wfld a.mshape 0 6) * (wfld a.mshape 16 11 + 1)

/-- The image of a `fop` has memory edges (R97), so that it makes accesses of its own. -/
def imageReaches (img : List Word) : Bool := (fabTiles img 2).any (fun e => ePort (fabWord img 2 e) = 3)

/-- The entries of a committed slot (R71): two for a stream, one for a vector, matrix or fabric access, with its bytes as its
captured operands tell them, or a wildcard where its addresses are not formed; so for a collective, whose source stands in a
descriptor (R317). sure: `vl` and `vtype` are those that the slot will run under; formed: its index registers are too. -/
def actLocks (s : State) (sure formed : Bool) (a : Act) : List Lock :=
  let w := a.w.toNat
  let m := majOf w
  let fn := fld w 0 3
  let ew := if fld w 3 3 = 7 then s.hart.sew else 8 * 2 ^ fld w 3 3
  let vl := s.hart.vl.toNat
  let span (wr : Bool) (x : Word × Nat) : Lock := if sure then lockAt s wr x.1 x.2 else { wr := wr, wild := true }
  let many (wr : Bool) (eb : Nat) : Lock :=
    if sure && formed then lockOf s wr (formedAddrs s w a.c0 eb) eb else { wr := wr, wild := true }
  let unit := strideSpan a.c0 (word (ew / 8)) vl (ew / 8)
  let o := wfld a.c1 0 32; let p := if wfld a.c1 32 32 = 0 then 64 else wfld a.c1 32 32
  let plane : Word × Nat := (a.c0 + word (o / 8), (o + (vl - 1) / 64 * p + 63) / 8 + 1 - o / 8)
  if m = 0x2F then
    [if fn = 0 ∨ fn = 3 then span false unit
     else if fn = 1 then span false (strideSpan a.c0 a.c1 vl (ew / 8))
     else if fn = 4 then span false plane
     else many false (ew / 8)]
  else if m = 0x30 then
    [if fn = 0 ∨ fn = 4 then span true unit
     else if fn = 1 then span true (strideSpan a.c0 a.c1 vl (ew / 8))
     else if fn = 5 then span true plane
     else many true (ew / 8)]
  else if m = 0x31 then [span (fn = 0) (a.c0, 64 + s.hart.vlmax / 8)]
  else if m = 0x21 ∧ fn ≤ 2 then [{ wild := true }]
  else if m = 0x34 then [{ many true (if fld w 3 1 = 0 then 4 else 8) with plain := true }]
  else if m = 0x36 then (if imageReaches (Tab.get {} (getCore s (myCore s)).slots (fld w 22 4)).image then [{ wr := true, wild := true }] else [])
  else if m = 0x35 ∧ (fld w 0 6 = 3 ∨ fld w 0 6 = 4) then [lockAt s (fld w 0 6 = 3) a.c0 (4 * moveExtent s.hart a)]
  else if m = 0x20 ∧ fn ≤ 3 then
    let n := (if s.hart.plane then ceilDiv vl 8 else vl * (s.hart.sew / 8)) * (if fn = 3 then (myGang s).length else 1)
    [span false (a.c0, if fld w 5 1 = 1 then zrpBytes n else n), span true (a.c1, n)]
  else []

/-- The slots of a convoy that have not completed, with what they need to know: nothing before them sets the length; no slot before
them in the convoy at the head, whose elements they could read, has still to run. -/
def openActs (head : Bool) (e : VqEntry) (sure : Bool) : List (Bool × Bool × Act) :=
  (e.acts.foldl (fun (r : Bool × Bool × List (Bool × Bool × Act)) a =>
    let w := a.w.toNat
    if slotDone e a.slot then r
    else (r.1 && !(setsLen w || isVdecl w), r.2.1 && (destV w).isNone && (destM w).isNone, r.2.2 ++ [(r.1, r.2.1, a)]))
    (sure, head, [])).2.2

/-- No slot of the convoy that has still to run sets the length. -/
def keepsLen (e : VqEntry) : Bool := !e.acts.any (fun a => !slotDone e a.slot && (setsLen a.w.toNat || isVdecl a.w.toNat))

/-- The entries of a hart's convoys in the VQ, after a head or not, in their order. -/
def entryLocks (s : State) : Bool → Bool → List VqEntry → List Lock
  | _, _, [] => []
  | head, sure, e :: es =>
    (openActs head e sure).flatMap (fun x => actLocks (inSpace e.space s) x.1 x.2.1 x.2.2)
      ++ entryLocks s false (sure && keepsLen e) es

/-- The entries of moves that a stop or a fault has left in the MQ (R274). -/
def mqLocks (s : State) : List Lock := s.hart.mq.flatMap (fun e => actLocks (inSpace e.space s) true true e.act)

/-- The entries of the hart's convoys in the VQ and of its MQ (R71). -/
def vqLocks (s : State) : List Lock := mqLocks s ++ entryLocks s true true s.hart.vq

/-- A scalar access waits for an earlier access in the VQ or the MQ that it conflicts with (R47, R72). -/
def queueHolds (s : State) (va : Word) (n : Nat) (l : Loc) (wr : Bool) : Bool :=
  if s.hart.vq.isEmpty && s.hart.mq.isEmpty then false
  else (vqLocks s).any (fun k => (wr || k.wr) && k.hits va.toNat n (locFrames l))

/-- Interlock entries that are taken (R71). -/
def locksTaken (s : State) : Nat := ((myStreams s).map (fun q => (cqLocks q).length)).sum + (vqLocks s).length

end Sys2Proof.Machine
end

