-- ==== Sys2Proof/Machine/Sources.lean ====
section
/-! DEFINITION. What the slots of a convoy read and write of the vector file (R112, R147, R215, R232), as the prefix rule needs
it (R405). -/

namespace Sys2Proof.Machine

/-- g′ of R215 and R232 for elements of w bits. -/
def extent (s : State) (w : Nat) : Nat := max 1 (s.hart.grp * w / s.hart.sew)

/-- The masks that govern a slot (R147) and those that are its operands (R245 to R247). -/
def maskSources (w : Nat) : List Source :=
  let m := majOf w
  let fn := fld w 0 5
  let reg (p : Nat) : Nat := fld w p 3
  let g := if m = 0x22 ∨ (0x26 ≤ m ∧ m ≤ 0x2C) ∨ m = 0x2E then reg 5
    else if m = 0x23 ∨ m = 0x2D ∨ m = 0x2F ∨ m = 0x30 ∨ m = 0x34 then reg 6
    else if m = 0x24 ∨ m = 0x25 then reg 3
    else if m = 0x36 then reg 1
    else 0
  (if g = 0 then [] else [{ v := 64 + g, w := 1 }])
    ++ (if m = 0x2A ∧ 2 ≤ fn ∧ fn ≤ 7 then [{ v := 64 + reg 14, w := 1 }] else [])
    ++ (if m = 0x2A ∧ 2 ≤ fn ∧ fn ≤ 5 then [{ v := 64 + reg 8, w := 1 }] else [])
    ++ (if m = 0x2A ∧ (fn = 9 ∨ fn = 10) then [{ v := 64 + reg 8 }] else [])
    ++ (if m = 0x2A ∧ fn = 11 then [{ v := 64 + reg 14 }] else [])

/-- The sources that a format word describes: A and B at their storage widths, the scale registers (R104, R128). Under BSD = 1 a
conversion reads whole blocks (R242). -/
def formatSources (s : State) (w : Nat) (f : Word) : List Source :=
  let unary := majOf w = 0x29 ∧ fld w 0 2 = 0
  let wa := fmtStore (wfld f 0 4); let wb := fmtStore (wfld f 4 4)
  [{ v := fld w 14 6, n := extent s wa, w := if unary ∧ wfld f 22 2 = 1 then 0 else wa }]
    ++ (if unary then [] else [{ v := fld w 8 6, n := extent s wb, w := wb }])
    ++ (if wfld f 18 2 = 1 then [{ v := wfld f 24 6 }] else [])
    ++ (if wfld f 20 2 = 1 then [{ v := wfld f 24 6 + 1 }] else [])

/-- What the slot reads of the vector file. -/
def sourcesOf (s : State) (a : Act) : List Source :=
  let w := a.w.toNat
  let m := majOf w
  let vd := fld w 20 6; let va := fld w 14 6; let vb := fld w 8 6; let vx := fld w 9 6
  let sew := s.hart.sew
  let fn := fld w 0 5
  let one (v wd : Nat) : Source := { v := v, n := extent s wd, w := wd }
  let all (v wd : Nat) : Source := { v := v, n := extent s wd }
  let narrow := ((m = 0x22 ∨ m = 0x23) ∧ 28 ≤ fn) ∨ (m = 0x25 ∧ 6 ≤ fld w 0 3)
  maskSources w ++
    (if 0x22 ≤ m ∧ m ≤ 0x25 then one va (if narrow then 2 * sew else sew) :: (if m = 0x22 then [one vb sew] else [])
    else if 0x26 ≤ m ∧ m ≤ 0x29 then formatSources s w a.c2
    else if m = 0x2A then
      (if fn ≤ 1 then [one va sew, one vb sew] else if fn = 9 then [one va sew] else if fn = 10 then [all va sew] else [])
    else if m = 0x2B then
      (if fn = 0 then [all va sew, one vb sew] else if fn = 7 then [one va sew, one vb sew]
      else if fn = 3 ∨ fn = 5 then [] else if fn = 6 then [one va sew] else [all va sew])
    else if m = 0x2C then [all va (if fld w 0 2 = 0 then fmtStore (wfld a.c2 0 4) else sew)]
    else if m = 0x2D then
      (if fld w 0 6 = 0 then [{ v := va, n := 8 }] else [{ v := va, n := wfld a.c1 0 4 + 1, w := 1 }])
        ++ (if 2 ≤ fld w 0 6 ∧ fld w 0 6 ≤ 4 then [{ v := wfld a.c1 8 6, n := wfld a.c1 4 4 + 1, w := 1 }] else [])
    else if m = 0x2E then [all va (fmtStore (wfld a.c2 0 4)), all vb (fmtStore (wfld a.c2 4 4))]
    else if m = 0x2F then (if fld w 0 3 = 2 then [one vx sew] else [])
    else if m = 0x30 then
      (if fld w 0 3 = 5 then { v := vd, w := 1 } else one vd (if fld w 3 3 = 7 then sew else 8 * 2 ^ fld w 3 3))
        :: (if fld w 0 3 = 2 ∨ fld w 0 3 = 3 then [one vx sew] else [])
    else if m = 0x31 then (if fld w 0 3 = 0 then [{ v := vd }] else [])
    else if m = 0x34 then [one vd (if fld w 3 1 = 0 then 32 else 64), one vx sew]
    else if m = 0x35 then (matrixReads w a.c2.toNat).map (fun r => { v := r.1, n := r.2 })
    else if m = 0x36 then [all (fld w 10 6) sew, all (fld w 4 6) sew]
    else [])

/-- A source meets a list of groups. -/
def Source.meets (x : Source) (ds : List (Nat × Nat)) : Bool := ds.any (fun d => overlaps x.v x.n d.1 d.2)

/-- The mask that a word writes, as a group. -/
def maskDest (w : Nat) : List (Nat × Nat) := ((destM w).map (fun m => (64 + m, 1))).toList

/-- What slot k has read and written, as the convoy's run has noted it. -/
def Issue.insOf (i : Issue) (k : Nat) : List Source := (i.ins.filter (fun x => x.1 = k)).map (·.2)
def Issue.outsOf (i : Issue) (k : Nat) : List (Nat × Nat) := (i.outs.filter (fun x => x.1 = k)).map (·.2)

end Sys2Proof.Machine
end

