-- ==== Sys2Proof/Machine/Vec.lean ====
section
/-! DEFINITION. The vector side: how a slot is checked at issue, runs, records a fault and retires (R152, R163, R403 to
R408), register groups (R232, R233), and the ring (R75, R76). -/

namespace Sys2Proof.Machine

/-- How a slot takes part in its convoy's prefix (R405): by elements under `vl`; by lane words (R221); all at once; or with
a whole result (R235). -/
inductive SlotKind where
  | elem | words | other | whole
  deriving DecidableEq, Repr

/-- `first(d)` (R163). -/
def firstElem (s : State) : Nat := if s.hart.iss.re then s.hart.iss.cell else s.hart.vstart.toNat

/-- `vl` as a number. -/
def vlN (s : State) : Nat := s.hart.vl.toNat

/-- The slot completes no element at or above this: `vl`, or the element at which another slot has faulted. -/
def limit (s : State) (n : Nat) : Nat := minOpt s.hart.iss.bound n

/-- A fault of the slot in hand at element k: the lowest element counts, and on a tie the lowest slot (R403). -/
def slotFault (k cause : Nat) (tval : Word) (s : State) : State :=
  updIss (fun i =>
    if (match i.bound with | none => true | some b => decide (k < b)) then
      { i with
        bound := some k
        fault := some { slot := i.act.slot, elem := k, cause := cause, tval := tval } }
    else i) s

/-- A trap at issue of the slot in hand (R403). -/
def slotEarly (cause : Nat) (tval : Word) (s : State) : State :=
  updIss (fun i => { i with early := some { slot := i.act.slot, elem := 0, cause := cause, tval := tval } }) s

/-- What the slot w would set is read by the checks of the slots after it. -/
def setsChecked (w : Nat) : Bool := setsLen w || isVdecl w || isAttachWord w || majOf w = 0x37

/-- The convoy waits at the head of the VQ. -/
def slotWait (r : WaitFor) (s : State) : State :=
  updIss (fun i => { i with wait := some r, blind := i.blind || setsChecked i.act.w.toNat }) s

/-- A trap that is taken once the convoy has retired (R290, R227): that of the lowest slot (R403). -/
def slotAfter (cause : Nat) (tval : Word) (s : State) : State :=
  updIss (fun i => { i with after := match i.after with
    | none => some { slot := i.act.slot, elem := 0, cause := cause, tval := tval }
    | some f => some f }) s

/-- A value for the RQ or the BQ, delivered when the convoy retires (R363). -/
def result (d : Deliver) (s : State) : State := updIss (fun i => { i with results := i.results ++ [d] }) s

/-- The same of a slot that gives none when its convoy traps: a whole-result one (R235), or one that is done anew. -/
def resultWhole (d : Deliver) (s : State) : State := updIss (fun i => { i with whole := i.whole ++ [(i.act.slot, d)] }) s

/-- The values captured for the slot (R105): sa, the second scalar register, the format word. -/
def cap0 (s : State) : Word := s.hart.iss.act.c0
def cap1 (s : State) : Word := s.hart.iss.act.c1
def cap2 (s : State) : Word := s.hart.iss.act.c2

/-- The shape of the matrix slot in hand: `mshape` as it stood when its convoy committed (R270). -/
def shapeRows (h : Hart) : Nat := if wfld h.iss.act.mshape 0 6 = 0 then h.rows else wfld h.iss.act.mshape 0 6
def shapeCols (h : Hart) : Nat := wfld h.iss.act.mshape 16 11 + 1

/-- The elements of R274, in ascending r × N + c. -/
def moveCount (h : Hart) : Nat := shapeRows h * shapeCols h

/-- The prefix of the slot in hand once it has completed: the elements under `vl`, the lane words (R221), 0 for a whole result
(R235), the elements of an accumulator move (R274), what a `fop` has given, which is `vl` then (R405). A slot that no count describes
gets a mark above every count. -/
def fullPrefix (k : SlotKind) (s : State) : Nat :=
  let w := s.hart.iss.act.w.toNat
  match k with
  | .elem => vlN s
  | .words => s.hart.vlmax / 64
  | .whole => 0
  | .other =>
    if isStream w || majOf w = 0x36 then vlN s
    else if majOf w = 0x35 ∧ (fld w 0 6 = 3 ∨ fld w 0 6 = 4) then moveCount s.hart
    else complete

/-- The slot has run: its prefix is noted, and whether it has completed. A vector instruction that completes clears `vstart` (R180),
and a trap sets it again (R405). -/
def finishSlot (k : SlotKind) (s : State) : State :=
  let i := s.hart.iss
  if i.early.isSome || i.wait.isSome || i.halted.isSome then s
  else
    let n := fullPrefix k s
    let mine (o : Option SlotFault) : Option Nat := (o.filter (fun f => f.slot = i.act.slot)).map (·.elem)
    let p := match mine i.mqFault, mine i.fault, i.bound with
      | some k, _, _ => k
      | none, some k, _ => k
      | none, none, some b => if k = .other then n else max (firstElem s) (min b n)
      | none, none, none => n
    updH (fun h =>
      { h with
        vstart := if k = .other then h.vstart else 0
        iss := { i with
          cells := Tab.set 0 i.cells i.act.slot p
          done := if (mine i.fault).isNone ∧ (n ≤ p ∨ k = .other) then i.done ++ [i.act.slot] else i.done } }) s

/-- A slot that is not re-issued sets its destination's progress index to zero at issue (R115). -/
def startProgress (s : State) : State :=
  updH (fun h =>
    { h with
      iss := { h.iss with cover := [], win := 0, pages := [] }
      prog := match h.iss.re, destV h.iss.act.w.toNat with
        | false, some d => Tab.set 0 h.prog d 0
        | _, _ => h.prog }) s

/-- Behind a fault the slot in hand completes no element more: it reads what a slot so kept back would have written, or others than
its own elements of what a slot that ended early has written (R405). -/
def keptBack (s : State) : Bool :=
  let i := s.hart.iss
  (i.insOf i.act.slot).any (fun x => i.outs.any (fun o =>
    overlaps x.v x.n o.2.1 o.2.2 && (i.held.contains o.1 || (x.w = 0 && !i.done.contains o.1))))

/-- The slot in hand is kept back: what it writes is not to be read (R405). The slots after one that sets the length wait for it, but
for their checks, which are made when what it sets is known. -/
def keepBack (s : State) : State :=
  updIss (fun i =>
    let sets := setsLen i.act.w.toNat || isVdecl i.act.w.toNat
    { i with
      held := i.held ++ [i.act.slot]
      bound := if sets then some 0 else i.bound
      blind := i.blind || sets }) s

/-- Behind a fault a grant is still made, for the checks of the slots after it, unless it would wait: none of this stays. -/
def grantBehind (act : State → State) (s : State) : State :=
  let t := act s
  if t.hart.iss.wait.isSome then keepBack s else updIss (fun i => { i with bound := some 0 }) t

/-- What the slot in hand reads and writes, and where it starts, noted for its convoy. -/
def noteSlot (d : List (Nat × Nat)) (s : State) : State :=
  updIss (fun i =>
    let k := i.act.slot
    { i with
      dests := i.dests ++ d
      starts := Tab.set 0 i.starts k (firstElem s)
      ins := i.ins ++ (sourcesOf s i.act).map (fun x => (k, { x with v := ringSrc s x.v }))
      outs := i.outs ++ (d ++ maskDest i.act.w.toNat).map (fun g => (k, g)) }) s

/-- One slot: the checks at issue, in the order that chk gives; the overlap of destination groups (R153); the effect. After a wait,
a stop or a fault of the convoy the slots after it are still checked (R129, R403); behind a fault only elements below it are
done (R405). -/
def runSlot (k : SlotKind) (chk : State → Option (Nat × Word)) (dest : State → List (Nat × Nat)) (act : State → State)
    (s : State) : State :=
  let i := s.hart.iss
  if i.early.isSome || i.blind then s
  else match chk s with
    | some (c, t) => slotEarly c t s
    | none =>
      let d := dest s
      if d.any (fun d => i.dests.any (fun e => overlaps d.1 d.2 e.1 e.2)) then slotEarly cOperand (curWord s) s
      else
        let t := noteSlot d s
        if i.wait.isSome || i.halted.isSome then t
        else if i.bound.isSome && isGrantWord i.act.w.toNat then grantBehind act t
        else if (i.bound.isSome || i.mqFault.isSome) && k = .other then keepBack t
        else if i.bound.isSome && (k = .whole || keptBack t) then keepBack t
        else finishSlot k (act (startProgress t))

/-- A value reaches its register or the BQ. -/
def deliver (d : Deliver) (s : State) : State :=
  match d with
  | .reg d v p => deliverS d v p s
  | .cond b p => updH (fun h => { h with bq := h.bq ++ [(b, p)] }) s

/-- The ring's oldest slot is consumed when a convoy that read it retires (R76). -/
def ringConsume (h : Hart) : Hart :=
  match h.ring with
  | none => h
  | some r => { h with ring := some { r with c := (r.c + 1) % r.n, occ := r.occ - 1 } }

/-- The indices and cells that a re-issued convoy used return to zero (R115, R407). -/
def clearProgress (e : VqEntry) (h : Hart) : Hart :=
  if e.re then
    e.acts.foldl (fun h a =>
      if isStoreWord a.w.toNat then { h with cells := Tab.set 0 h.cells a.slot 0 }
      else match destV a.w.toNat with
        | some d => { h with prog := Tab.set 0 h.prog d 0 }
        | none => h) h
  else h

/-- The convoy at the head retires (R364): values are delivered, and VRES clears with the last re-issued one (R115). -/
def retireEntry (e : VqEntry) (young : List VqEntry) (s : State) : State :=
  let i := s.hart.iss
  let s1 := (e.results ++ i.results ++ i.whole.map (·.2)).foldl (fun t d => deliver d t) s
  updH (fun h =>
    let h1 := clearProgress e (if i.ringRead then ringConsume h else h)
    { h1 with
      iss := {}
      vwait := none
      vanswer := none
      hstat := if e.re && !young.any (fun y => y.re) then setBit h1.hstat 7 false else h1.hstat }) s1

/-- What a slot keeps when its convoy stops (R405): it stands where it started, it keeps its elements below the fault, or all that
it has done. -/
inductive Keep where
  | start | below | all
  deriving DecidableEq, Repr

/-- How a convoy has stopped: a fault of a slot, of an `mst` or `mld` (R274), or a stop without a trap (R409). -/
inductive StopKind where
  | fault | matrix | halt
  deriving DecidableEq, Repr

/-- What has stopped the convoy: of two faults that of the lowest element, and on a tie of the lowest slot (R403). -/
def stopOf (i : Issue) : Option (StopKind × SlotFault) :=
  match i.fault, i.mqFault, i.halted with
  | some f, some g, _ => some (if f.elem < g.elem ∨ (f.elem = g.elem ∧ f.slot < g.slot) then (.fault, f) else (.matrix, g))
  | some f, none, _ => some (.fault, f)
  | none, some g, _ => some (.matrix, g)
  | none, none, some k => some (.halt, { slot := k })
  | none, none, none => none

/-- What slot k keeps: as the plan for the convoy's stop says; else slots after the one that stopped it have not run. -/
def keepOf (plan : List (Nat × Keep)) (r : StopKind × SlotFault) (k : Nat) : Keep :=
  match plan.find? (fun x => x.1 = k) with
  | some x => x.2
  | none => if r.2.slot < k then .start else .all

/-- The prefix that a slot keeps which keeps its elements below k: none that it has not completed, and whole blocks of 256 where
the result has a block scale (R235, R242). -/
def keptBelow (i : Issue) (slot k : Nat) : Nat :=
  let p := min k (Tab.get 0 i.cells slot)
  max (Tab.get 0 i.starts slot) (if i.undo.any (fun u => u.slot = slot && u.div = 256) then p / 256 * 256 else p)

/-- A slot whose result is whole records no prefix (R235). -/
def isWholeWord (w : Nat) : Bool :=
  majOf w = 0x2C || (majOf w = 0x2A && (fld w 0 5 = 6 || fld w 0 5 = 7)) || (majOf w = 0x2B && fld w 0 5 = 4)

/-- The prefix that slot a of a stopped convoy records (R405, R407). -/
def keptPrefix (plan : List (Nat × Keep)) (r : StopKind × SlotFault) (i : Issue) (a : Act) : Nat :=
  match keepOf plan r a.slot with
  | .start => if isWholeWord a.w.toNat then 0 else Tab.get 0 i.starts a.slot
  | .below => keptBelow i a.slot r.2.elem
  | .all => Tab.get 0 i.cells a.slot

/-- The slots of a stopped convoy that have completed: not one whose trap was to follow the convoy, which is done anew. -/
def stoppedDone (plan : List (Nat × Keep)) (r : StopKind × SlotFault) (i : Issue) : List Nat :=
  i.done.filter (fun k => keepOf plan r k = .all && (i.after.map (·.slot)) != some k)

/-- What a stopped convoy carries to the shadow VQ, or back to the VQ: each slot's prefix, the slots that have completed and their
values, and what its streams have met. -/
def stoppedEntry (plan : List (Nat × Keep)) (r : StopKind × SlotFault) (e : VqEntry) (i : Issue) : VqEntry :=
  { e with
    cells := e.acts.foldl (fun c a =>
      if e.done.contains a.slot then c else Tab.set 0 c a.slot (keptPrefix plan r i a)) e.cells
    done := e.done ++ stoppedDone plan r i
    results := e.results ++ i.results ++ (i.whole.filter (fun x => (stoppedDone plan r i).contains x.1)).map (·.2)
    flags := i.flags }

/-- A whole-result slot that is to be done anew leaves its destination as it was (R235). -/
def undoWhole (plan : List (Nat × Keep)) (r : StopKind × SlotFault) (snap s : State) : State :=
  let vs := (s.hart.iss.undoV.filter (fun x => keepOf plan r x.1 != .all)).map (·.2)
  updH (fun h =>
    { h with
      vregs := vs.foldl (fun t v => Tab.set 0 t v (Tab.get 0 snap.hart.vregs v)) h.vregs
      vpois := vs.foldl (fun t v => Tab.set false t (v * 1024) (Tab.get false snap.hart.vpois (v * 1024))) h.vpois }) s

/-- The poison of a word of which an element has been taken back: the old one, and, where elements below it stay, theirs
too. -/
def undoPois (old now : Tab Bool) (key : Nat) (whole : Bool) : Tab Bool :=
  Tab.set false now key (Tab.get false old key || (!whole && Tab.get false now key))

/-- One element at or above the prefix keeps its old value and poison (R405). -/
def undoElem (old : Hart) (v w i : Nat) (h : Hart) : Hart :=
  if 64 ≤ v then
    { h with
      mregs := Tab.set 0 h.mregs (v - 64) (BitVec.ofNat 8192
        (putFld (Tab.get 0 h.mregs (v - 64)).toNat i 1 (b2n ((Tab.get 0 old.mregs (v - 64)).getLsbD i))))
      mpois := undoPois old.mpois h.mpois ((v - 64) * 128 + i / 64) (i % 64 = 0) }
  else
    { h with
      vregs := setElemOf h.vregs h.vlmax v i w (elemOf old.vregs old.vlmax v i w)
      vpois := undoPois old.vpois h.vpois (wordKey h.vlmax v i w) (i * w % 64 = 0) }

/-- The first entry of a destination that a slot of prefix k has not written, mul entries to div elements; `vcompress`
packs them under the mask that it had (R247). -/
def undoFrom (u : Written) (k : Nat) : Nat :=
  match u.pack with
  | some m => popcount m k
  | none => k * u.mul / u.div

/-- What the slots of a stopped convoy have written at or above the prefix that they keep is discarded (R405, R235). -/
def takeBack (plan : List (Nat × Keep)) (r : StopKind × SlotFault) (e : VqEntry) (snap s : State) : State :=
  let i := s.hart.iss
  let top := max (max snap.hart.vl.toNat s.hart.vl.toNat) (s.hart.vlmax / 64)
  let us := i.undo.filter (fun u => keepOf plan r u.slot != .all)
  undoWhole plan r snap (updH (fun h => us.foldl (fun g u =>
    let k := ((e.acts.find? (fun a => a.slot = u.slot)).map (keptPrefix plan r i)).getD u.first
    let lo := undoFrom u (max u.first k)
    loop (undoElem snap.hart u.v u.w) lo (ceilDiv (top * u.mul) u.div - lo) g) h) s)

/-- A negotiation that waits has changed lane tables all the same, and stands where it is (R365, R211). -/
def keepLanes (snap s : State) : State :=
  let s1 := s.cores.foldl (fun t c => modCore c.1 (fun k => { k with owners := c.2.owners, marks := c.2.marks }) t) snap
  let s2 := s.parked.foldl (fun t p => modHart p.1 (fun h => { h with neg := p.2.neg }) t) s1
  updH (fun h => { h with req := s.hart.req, neg := s.hart.neg }) s2

/-- Every slot of the convoy has completed. -/
def allDone (e : VqEntry) : Bool := e.acts.all (fun a => isSetCtl a || slotDone e a.slot)

/-- The convoy has stopped with its slots as s has left them, snap being the state before it issued. After a fault of an `mst` or
`mld`, whose MQ entry holds what is left of it, a convoy all of whose slots are over retires (R274). -/
def stopConvoy (plan : List (Nat × Keep)) (r : StopKind × SlotFault) (resume : State → Word) (e : VqEntry) (young : List VqEntry)
    (snap s : State) : State :=
  let s1 := takeBack plan r e snap s
  let e1 := stoppedEntry plan r e s1.hart.iss
  let f := r.2
  match r.1 with
  | .halt => updH (fun h => { h with vq := { e1 with re := true } :: young, iss := {}, vwait := none, vanswer := none }) s1
  | .matrix =>
    if allDone { e with done := e.done ++ s.hart.iss.done } && s.hart.iss.after.isNone then
      let s2 := retireEntry e young s
      scalarTrap (word f.cause) f.tval (resume s2) s2
    else scalarTrap (word f.cause) f.tval (resume s) (updH (fun h => { h with vq := { e1 with re := true } :: young, iss := {} }) s1)
  | .fault =>
    let s2 := if s.hart.shadow.isEmpty then
        updH (fun h => setProgress e1 { h with vstart := BitVec.ofNat 17 f.elem }) s1
      else s1
    vectorTrap f.cause f.tval (resume s) e1 young s2

/-- What becomes of a convoy once its slots have run: a trap at issue, a wait, a stop by the plan, or its retirement (R403 to R405,
R409). snap is the state before it issued; resume is where the scalar side goes on after a trap. -/
def settle (plan : List (Nat × Keep)) (resume : State → Word) (e : VqEntry) (young : List VqEntry) (snap s : State) : State :=
  let i := s.hart.iss
  match i.early, i.wait, stopOf i with
  | some f, _, _ =>
    vectorTrap f.cause f.tval (resume snap) e young
      (if snap.hart.shadow.isEmpty then updH (fun h => setProgress e { h with vstart := 0, iss := {} }) snap
       else updH (fun h => { h with iss := {} }) snap)
  | none, some r, _ => waitHere r (if r = .lanes ∨ r = .gang then keepLanes snap s else snap)
  | none, none, some r => stopConvoy plan r resume e young snap s
  | none, none, none =>
    let s1 := retireEntry e young s
    match i.after with
    | some f => scalarTrap (word f.cause) f.tval (resume s1) s1
    | none => s1

/-- A slot that waited has gone on. -/
def wake (s : State) : State :=
  updH (fun h => { h with status := match h.status with | .waiting _ => .running | x => x }) s

/-- The convoy of one slot that exec runs by itself. -/
def soloEntry (s : State) (a : Act) : VqEntry :=
  { pc := s.hart.pc, words := s.hart.cv.words, acts := [a] }

/-- The slot in hand with its captured values. -/
def soloAct (s : State) (c0 c1 c2 : Word) : Act :=
  { slot := s.hart.cv.slot % 4, w := nth 0 s.hart.cv.words s.hart.cv.slot, c0 := c0, c1 := c1, c2 := c2
    mshape := s.hart.mshape }

/-- A non-scalar slot: inside a convoy at the head of the VQ it only runs; by itself it is a convoy of one slot. -/
def vslot (c0 c1 c2 : Word) (run : State → State) (s : State) : State :=
  if s.hart.iss.group then run s
  else
    let a := soloAct s c0 c1 c2
    let t := run (updIss (fun _ => { group := true, act := a }) s)
    let u := settle [(a.slot, .all)] resumePoint (soloEntry s a) s.hart.vq s t
    if t.hart.iss.wait.isSome then u else wake u

/-- `fmt(fs)` for a slot that exec runs by itself (R104). -/
def fmtReg {n : Nat} (s : State) (fs : BitVec n) : Word := getS s (BitVec.ofNat 5 (24 + fs.toNat))

/-! Register groups and the ring -/

/-- R232: the group of v with elements of w bits lies where it may. -/
def groupOk (s : State) (v w : Nat) : Bool :=
  let g := extent s w
  decide (g ≤ 8 ∧ v % g = 0 ∧ v + g ≤ s.hart.vnreg)

/-- R233: disjoint, or the same base, extent and width. -/
def overlapOk (s : State) (d wd v wv : Nat) : Bool :=
  !overlaps d (extent s wd) v (extent s wv) || (d = v && wd = wv)

def disjoint (s : State) (d wd v wv : Nat) : Bool := !overlaps d (extent s wd) v (extent s wv)

/-- The k registers from v, all of which a group names (R112), touch the ring. -/
def inRing (s : State) (v k : Nat) : Bool :=
  match s.hart.ring with
  | none => false
  | some r => overlaps v k r.vb (r.n * r.g)

/-- R76: a source may name ring registers only as the group vb. -/
def ringOkSrc (s : State) (v k : Nat) : Bool :=
  match s.hart.ring with
  | none => true
  | some r => !inRing s v k || (v = r.vb && decide (k ≤ r.g))

/-- A source group of elements of w bits, as R232 and R76 allow it. -/
def srcOk (s : State) (v w : Nat) : Bool := groupOk s v w && ringOkSrc s v (extent s w)

/-- A destination group: it names no ring register (R76). -/
def dstOk (s : State) (v w : Nat) : Bool := groupOk s v w && !inRing s v (extent s w)

/-- The slot names vb as a source: its convoy consumes the ring's slot C when it retires. -/
def ringNote (vs : List Nat) (s : State) : State :=
  match s.hart.ring with
  | none => s
  | some r => if vs.any (· = r.vb) then updIss (fun i => { i with ringRead := true }) s else s

/-- The word is a load that fills the ring whose base is vb (R76). -/
def fillsRing (vb w : Nat) : Bool := majOf w = 0x2F && decide (fld w 0 3 ≤ 2) && fld w 20 6 = vb

/-- Loads of a ring among the slots of a convoy. -/
def ringLoads (ring : Option Ring) (acts : List Act) : Nat :=
  match ring with
  | none => 0
  | some r => (acts.filter (fun a => fillsRing r.vb a.w.toNat)).length

/-- Loads of the ring whose base is vb in these convoys, up to a `vdecl` or `vdecl.buf`. -/
def queuedLoads (vb : Nat) (es : List VqEntry) : Nat :=
  (((es.flatMap (·.acts)).takeWhile (fun a => !isVdecl a.w.toNat)).filter (fun a => fillsRing vb a.w.toNat)).length

/-- The ring as the hart's program order has it (R76, R212, R213): a `vdecl` or `vdecl.buf` still in the VQ counts. -/
def programRing (h : Hart) : Option Ring :=
  match (h.vq.flatMap (·.acts)).reverse.find? (fun a => isVdecl a.w.toNat) with
  | none => h.ring
  | some a =>
    let w := a.w.toNat
    if fld w 8 3 = 4 then none
    else
      let after := (h.vq.flatMap (·.acts)).reverse.takeWhile (fun a => !isVdecl a.w.toNat)
      some { vb := fld w 2 6, g := 2 ^ fld w 0 2, n := fld w 11 5 + 1
             occ := (after.filter (fun a => fillsRing (fld w 2 6) a.w.toNat)).length }

/-- The ring has no slot for k more loads: the address processor stalls (R76). -/
def ringStalls (ring : Option Ring) (k : Nat) : Bool :=
  match ring with
  | none => false
  | some r => decide (0 < k ∧ r.n < r.occ + k)

/-- While a ring is declared, a convoy that holds `vsetvl`, `vsetvli` or `gsetvl` commits once every earlier one has retired,
and none commits until it has executed (R77). -/
def ringWaits (h : Hart) (acts : List Act) : Bool :=
  let sets (as : List Act) : Bool := as.any (fun a => isGrantWord a.w.toNat)
  (programRing h).isSome && !h.vq.isEmpty && (sets acts || h.vq.any (fun e => sets e.acts))

/-- k ring loads commit: P moves on and the occupancy grows (R76). Those behind a `vdecl.buf` in the VQ count when it declares
the ring. -/
def ringCommit (k : Nat) (h : Hart) : Hart :=
  match h.ring with
  | none => h
  | some r => { h with ring := some { r with p := (r.p + k) % r.n, occ := r.occ + k } }

/-- The register that a load to vd writes: for the ring's base its slot, counted back from P over the loads that have
committed after it. -/
def loadDest (s : State) (d : Nat) : Nat :=
  match s.hart.ring with
  | none => d
  | some r =>
    if d = r.vb then
      let later := queuedLoads r.vb s.hart.vq
      r.vb + (r.p + r.n * (later + 1) - 1 - later) % r.n * r.g
    else d

/-! Element loops -/

/-- The loop is over: an element has faulted, the slot waits, or the machine stops. -/
def stopsAt (s : State) (i : Nat) : Bool :=
  (match s.hart.iss.bound with | some b => decide (b ≤ i) | none => false) || s.hart.iss.wait.isSome || s.stop.isSome

/-- The skeleton of R163 over elements [first, lim) that the mask m governs. -/
def overElems (m first lim : Nat) (body : Nat → State → State) (s : State) : State :=
  loop (fun i t => if governs t m i then body i t else t) first (lim - first) s

/-- A stop without a trap has come while the slot in hand was at work; its prefix is p (R409). kept: what is left of it is kept
elsewhere (R274). -/
def slotHalt (kept : Bool) (p : Nat) (s : State) : State :=
  updH (fun h =>
    { h with
      cut := none
      iss := { h.iss with
        halted := some h.iss.act.slot
        cells := Tab.set 0 h.iss.cells h.iss.act.slot p
        done := if kept then h.iss.done ++ [h.iss.act.slot] else h.iss.done } }) s

/-- The slot in hand writes group v (64 + mask) of width w, mul entries for div elements. -/
def noteUndo (v w mul div : Nat) (s : State) : State :=
  let p := firstElem s
  updIss (fun i =>
    { i with undo := i.undo ++ [{ slot := i.act.slot, v := v, w := w, mul := mul, div := div, first := p }] }) s

/-- Element-wise writes of op(i) to the group d of width w, with the poison of what was read (R163, R39). -/
def mapElems (m d w : Nat) (op : State → Nat → Nat) (pois : State → Nat → Bool) (s : State) : State :=
  overElems m (firstElem s) (limit s (vlN s))
    (fun i t => setElem d i w (op t i) (governPois t m i || pois t i) t) (noteUndo d w 1 1 s)

/-- The same for the bits of mask register d. -/
def mapBits (m d : Nat) (op : State → Nat → Bool) (pois : State → Nat → Bool) (s : State) : State :=
  overElems m (firstElem s) (limit s (vlN s))
    (fun i t => setMask d i (op t i) (governPois t m i || pois t i) t) (noteUndo (64 + d) 1 1 1 s)

/-- A list of checks at issue: the first that fails gives its cause and `tval`. -/
def firstTrap : List (Bool × Nat × Word) → Option (Nat × Word)
  | [] => none
  | (bad, c, t) :: l => if bad then some (c, t) else firstTrap l

/-- R156: `vill` stops what depends on `vtype`. -/
def badVtype (s : State) : Bool × Nat × Word := (s.hart.vill, cVtype, s.hart.vtype)

/-- An illegal operand, with `tval` the word. -/
def badOperand (b : Bool) (s : State) : Bool × Nat × Word := (b, cOperand, curWord s)

/-- The format word of the slot breaks R129. -/
def badFormat (b : Bool) (s : State) : Bool × Nat × Word := (b, cFormat, cap2 s)

end Sys2Proof.Machine
end

