-- ==== Sys2Proof/Machine/Lanes.lean ====
section
/-! DEFINITION. Lane allocation and the vector length (R106 to R111, R365). -/

namespace Sys2Proof.Machine

/-- A hart's priority (R365). -/
def prioOf (s : State) (n : Nat) : Nat :=
  let h := getHart s n
  if h.bound.isSome then wfld h.tflags 2 3 else 0

/-- Hart n is in a lane negotiation that has not completed. -/
def negotiating (s : State) (n : Nat) : Bool :=
  match (getHart s n).neg with
  | some g => g.stage != 3
  | none => false

def marked (s : State) (c g : Nat) : Bool := Tab.get false (getCore s c).marks g
def groupLanes (s : State) (c g : Nat) : Nat := activeLanes (2 ^ g) (getCore s c).lanefal.toNat

def setMark (c g : Nat) (s : State) : State :=
  modCore c (fun k => { k with marks := Tab.set false k.marks g true }) s

/-- The negotiation of hart k wants more groups than it owns and has marked, or any group that has a lane (R365). -/
def wantsMore (s : State) (k : Nat) : Bool :=
  match (getHart s k).neg with
  | some g => g.stage = 2 || (g.stage != 3 && decide ((ownedList s k).length + g.claims.length < g.want))
  | none => false

/-- When hart n's negotiation began to wait; one that begins now comes after all others. -/
def negSince (s : State) (n : Nat) : Nat :=
  match (getHart s n).neg with
  | some g => g.since
  | none => s.order + 1

/-- The negotiation of hart k goes before that of hart n: higher priority, or as high and waiting longer (R365). -/
def goesBefore (s : State) (k n : Nat) : Bool :=
  decide (prioOf s n < prioOf s k) || (prioOf s n = prioOf s k && decide (negSince s k < negSince s n))

/-- A waiting negotiation that wants more goes before hart n. -/
def outranked (s : State) (n : Nat) : Bool :=
  (range (n / 8 * 8) 8).any (fun k => k != n && wantsMore s k && goesBefore s k n)

/-- Another negotiation has marked the group and waits to take it; one that hart n goes before does not keep it from n. -/
def claimed (s : State) (n g : Nat) : Bool :=
  (range (n / 8 * 8) 8).any (fun k => k != n && !goesBefore s n k && (match (getHart s k).neg with
    | some x => x.stage = 1 && x.claims.contains g
    | none => false))

/-- Hart n may take group g now: nobody owns it, it has an active lane, and no other negotiation goes before n for it. -/
def groupFree (s : State) (n g : Nat) : Bool :=
  ownerOf s (coreOf n) g = 0 && decide (0 < groupLanes s (coreOf n) g) && !claimed s n g && !outranked s n

/-- Takes unowned groups, lowest first, until hart n owns want. -/
def takeGroups (n want : Nat) (s : State) : State :=
  (range 0 16).foldl (fun t g =>
    if (ownedList t n).length < want ∧ groupFree t n g = true then setOwner (coreOf n) g (n % 8 + 1) t else t) s

/-- Owned groups that may be marked for hart n, in the order of R365: lowest priority, highest hart, highest group. -/
def victims (s : State) (n : Nat) : List Nat :=
  let c := coreOf n
  (range 0 8).flatMap (fun p =>
    if p < prioOf s n then
      (range 0 8).flatMap (fun j =>
        let v := c * 8 + (7 - j)
        if v != n && prioOf s v = p then ((ownedList s v).reverse.filter (fun g => !marked s c g)) else [])
    else [])

/-- The default share of R365: 16 groups among the harts that own a group or negotiate. -/
def wantOf (s : State) (n req : Nat) : Nat :=
  let a := ((range (n / 8 * 8) 8).filter (fun k => k = n || !(ownedList s k).isEmpty || negotiating s k)).length
  min 16 (if req ≠ 0 then req else pow2Floor (16 / a))

/-- Where the negotiation of hart n stands. -/
def putNeg (n : Nat) (g : Neg) (s : State) : State := modHart n (fun h => { h with neg := some g }) s

/-- The negotiation of hart n is over. -/
def endNeg (n : Nat) (s : State) : State := modHart n (fun h => { h with neg := none }) s

/-- Hart n takes group g of its core. -/
def takeGroup (n g : Nat) (s : State) : State := setOwner (coreOf n) g (n % 8 + 1) s

/-- The last part of R365: while the owned groups hold fewer than 4 active lanes, one more group is taken, or marked and
waited for, or waited for. -/
def topStage (n : Nat) (g : Neg) : Nat → State → State × Bool
  | 0, s => (putNeg n { g with stage := 2 } s, false)
  | k + 1, s =>
    if 4 ≤ lanesOwned s n then (putNeg n { g with stage := 3 } s, true)
    else match findFrom (groupFree s n) 0 16 with
      | some j => topStage n g k (takeGroup n j s)
      | none => match victims s n with
        | v :: _ => (putNeg n { g with stage := 1, claims := [v] } (setMark (coreOf n) v s), false)
        | [] => (putNeg n { g with stage := 2 } s, false)

/-- The groups that hart n has marked are its own once every one of them has been released, but for those that a negotiation before
its own has taken or is still to take (log 69); of others that are released meanwhile it takes what it still wants. -/
def claimStage (n : Nat) (g : Neg) (s : State) : State × Bool :=
  let s1 := takeGroups n (g.want - g.claims.length) s
  if g.claims.any (fun j => marked s1 (coreOf n) j || (ownerOf s1 (coreOf n) j = 0 && outranked s1 n)) then (s1, false)
  else
    topStage n { g with claims := [] } 17
      (g.claims.foldl (fun t j => if ownerOf t (coreOf n) j = 0 then takeGroup n j t else t) s1)

/-- Unowned groups are taken, and groups of lower priority marked, until hart n has what it wants. -/
def takeStage (n : Nat) (g : Neg) (s : State) : State × Bool :=
  let s1 := takeGroups n g.want s
  match (victims s1 n).take (g.want - (ownedList s1 n).length) with
  | [] => topStage n g 17 s1
  | vs => (putNeg n { g with stage := 1, claims := vs } (vs.foldl (fun t j => setMark (coreOf n) j t) s1), false)

/-- The negotiation of R365 for hart n as far as it goes now; true when it has completed. -/
def negotiate (n req : Nat) (s : State) : State × Bool :=
  let c := coreOf n
  match (getHart s n).neg with
  | none =>
    let want := wantOf s n req
    let s1 := (ownedList s n).foldl (fun t g => if marked t c g then setOwner c g 0 t else t) s
    takeStage n { want := want, since := s.order } (((ownedList s1 n).drop want).reverse.foldl (fun t g => setOwner c g 0 t) s1)
  | some g => match g.stage with
    | 0 => takeStage n g s
    | 1 => claimStage n g s
    | 2 => topStage n g 17 s
    | _ => (s, true)

/-- The type that `vsetvl` asks for (R210): its low five bits, with bits outside [12:8] and [4:0]. -/
def typeBad (w : Word) : Bool := wfld w 5 3 != 0 || wfld w 13 51 != 0

/-- The new length (R210), once the grant stands: `vtype`, `vl`, `vstart`, and the value for sd. -/
def setLength (ty : Nat) (bad : Bool) (aIs0 : Bool) (a : Word) (d : BitVec 5) (s : State) : State :=
  let s1 := updH (fun h =>
    let h1 := { h with vtype := mkVtype ty bad, vstart := 0 }
    let l := h1.maxVl
    { h1 with vl := if h1.vill then 0 else BitVec.ofNat 17 (if aIs0 then l else min a.toNat l) }) s
  result (.reg d.toNat (s1.hart.vl.setWidth 64) 0) s1

/-- R210: renegotiation of the grant with REQ, then f; the convoy waits while the grant is not complete. -/
def withGrant (req : Nat) (f : State → State) (s : State) : State :=
  let r := negotiate s.hn req (updH (fun h => { h with req := req }) s)
  if r.2 then f (updH (setLanes (lanesOwned r.1 r.1.hn)) (endNeg s.hn r.1)) else slotWait .lanes r.1

/-- R210: `vsetvl`. -/
def execVsetvl (d a b : BitVec 5) (s : State) : Host.Outcome State Fault Refusal :=
  done (vslot (getS s a) (getS s b) 0
    (runSlot .other (fun _ => none) (fun _ => []) (fun t =>
      withGrant (wfld (cap1 t) 8 5)
        (fun u => setLength (wfld (cap1 u) 0 5) (typeBad (cap1 u)) (a = 0) (cap0 u) d u) t)) s)

/-- R210: `vsetvli`, with REQ = 0. -/
def execVsetvli (d a : BitVec 5) (t : BitVec 5) (s : State) : Host.Outcome State Fault Refusal :=
  done (vslot (getS s a) 0 0
    (runSlot .other (fun _ => none) (fun _ => []) (fun u =>
      withGrant 0 (fun v => setLength t.toNat false (a = 0) (cap0 v) d v) u)) s)

/-- The harts on which the other members of the gang are, in the order of their seats; none when one is displaced. -/
def gangMates (s : State) : Option (List Nat) :=
  ((myGang s).filter (· != mySeat s)).mapM (fun n => match holderOf s (.hart s.hn) n with
    | some (.hart h) => some h
    | _ => none)

/-- Every other member of the gang waits in `gsetvl` at the head of its VQ. -/
def gangReady (s : State) : Bool := (gangMates s).any (fun hs => hs.all (fun n => (getHart s n).waitsFor .gang))

/-- The members' grants, each negotiated on its own core; none while one of them waits (R211). -/
def gangNegotiate (ns : List Nat) (s : State) : State × Bool :=
  ns.foldl (fun r n => let q := negotiate n (getHart r.1 n).req r.1; (q.1, r.2 && q.2)) (s, true)

/-- R211: a member takes the common M_g, and vill when the members' declarations differ. -/
def gangTake (mg : Nat) (differ : Bool) (aIs0 : Bool) (d : BitVec 5) (s : State) : State :=
  setLength (wfld (cap1 s) 0 5) (typeBad (cap1 s) || differ) aIs0 (cap0 s) d (updH (setLanes mg) s)

/-- R211: `gsetvl`. The member that finds all the others waiting negotiates for the gang and tells them M_g. -/
def gsetvlRun (aIs0 : Bool) (d : BitVec 5) (s : State) : State :=
  let s0 := updH (fun h => { h with req := wfld (cap1 s) 8 5 }) s
  match s0.hart.vanswer with
  | some (m, e) => gangTake m.toNat (e != 0) aIs0 d (updH (fun h => { h with vanswer := none }) s0)
  | none =>
    if gangReady s0 then
      let g := s0.hn :: (gangMates s0).getD []
      let r := gangNegotiate g s0
      if r.2 then
        let mg := (g.map (lanesOwned r.1)).foldl min 64
        let differ := g.any (fun n => (getHart r.1 n).vnreg != s0.hart.vnreg)
        let s2 := (g.filter (· != s0.hn)).foldl (fun t n =>
          modHart n (Hart.answered .gang (word mg, boolToWord differ)) t)
          (g.foldl (fun t n => endNeg n t) r.1)
        gangTake mg differ aIs0 d s2
      else slotWait .gang r.1
    else slotWait .gang s0
where
  /-- 1 or 0. -/
  boolToWord (b : Bool) : Word := if b then 1 else 0

/-- R211: `gsetvl`. -/
def execGsetvl (d a b : BitVec 5) (s : State) : Host.Outcome State Fault Refusal :=
  done (vslot (getS s a) (getS s b) 0 (runSlot .other (fun _ => none) (fun _ => []) (gsetvlRun (a = 0) d)) s)

/-- R212: n registers are declared. -/
def declare (n : Nat) (h : Hart) : Hart :=
  let h1 := { h with vnreg := n, ring := none, vstart := 0 }
  let h2 := if h.vnreg = n then h1 else clearVectors h1
  { h2 with vl := BitVec.ofNat 17 (min h2.vl.toNat h2.maxVl) }

/-- R212: `vdecl`. -/
def execVdecl (n : BitVec 2) (s : State) : Host.Outcome State Fault Refusal :=
  done (vslot 0 0 0 (runSlot .other (fun _ => none) (fun _ => []) (updH (declare (8 * 2 ^ n.toNat)))) s)

/-- R213, R75: a ring of n slots of g registers from vb; vill when it does not fit. Loads of it that have committed behind it
have taken their slots (R76). -/
def declareRing (vb g n : Nat) (h : Hart) : Hart :=
  if vb % g = 0 ∧ vb + n * g ≤ h.vnreg then
    ringCommit (queuedLoads vb h.vq) { h with ring := some { vb := vb, g := g, n := n } }
  else { h with vtype := setBit h.vtype 63 true, ring := none }

/-- R213: `vdecl.buf`. -/
def execVdeclBuf (n : BitVec 5) (v : BitVec 6) (g : BitVec 2) (s : State) : Host.Outcome State Fault Refusal :=
  done (vslot 0 0 0
    (runSlot .other (fun _ => none) (fun _ => []) (updH (declareRing v.toNat (2 ^ g.toNat) (n.toNat + 1)))) s)

end Sys2Proof.Machine
end

