-- ==== Sys2Proof/Machine/Engine.lean ====
section
/-! DEFINITION. The stream engine: the entries of the copy queues, and the data of streams that move after their instruction
has retired, by the translations taken at issue (R32, R58 to R67, R71 to R73). -/

namespace Sys2Proof.Machine

/-! Places -/

/-- The tile of a window address. -/
def tileOf (va : Word) : Nat := (va.toNat - 0xFFFFFFFF80000) / 16384

/-- [va, va + n) touches the window. -/
def touchesWindow (va : Word) (n : Nat) : Bool := overlaps va.toNat n 0xFFFFFFFF80000 0x80000

/-- The place carries poison. -/
def locPois (s : State) (l : Loc) (n : Nat) : Bool :=
  match l with
  | .pa a => linePoisoned s a n
  | .tile o => tilePoisoned s (myCore s) o n

/-- Byte o of a side that starts at va and whose pages lie at the frames given. -/
def sidePlace (va : Word) (frames : List Nat) (o : Nat) : Loc :=
  if inWindow va then .tile (va.toNat - 0xFFFFFFFF80000 + o)
  else .pa (nth 0 frames ((va.toNat + o) / 131072 - va.toNat / 131072) + (va.toNat + o) % 131072)

/-- The place lies in second-tier or host memory. -/
def farLoc : Loc → Bool
  | .pa a => decide (cxlBase ≤ a ∧ a < regBase)
  | .tile _ => false

/-- A transfer between two places returns an error other than poison (R67; log 76). -/
def xferFails (s : State) (l m : Loc) : Bool := (farLoc l || farLoc m) && Config.xferError s.free

/-- One such transfer has taken place. -/
def pastXfer (l m : Loc) (s : State) : State := if farLoc l || farLoc m then takeFree s else s

/-! Entries -/

/-- Entry e of core c. -/
def getCq (s : State) (c e : Nat) : CqEntry := Tab.get {} (getCore s c).cq e
def setCq (c e : Nat) (q : CqEntry) (s : State) : State := modCore c (fun k => { k with cq := Tab.set {} k.cq e q }) s

/-- Two streams write one tile of a core (R73). -/
def sameTile (q x : CqEntry) : Bool :=
  touchesWindow q.dst q.bytes && touchesWindow x.dst x.bytes && tileOf q.dst = tileOf x.dst

/-- A side of the stream lies on pages of MT = 1 (R28). -/
def CqEntry.device (q : CqEntry) : Bool := (q.srcPg ++ q.dstPg).any (fun p => p.mt != 0)

/-- Entry x keeps entry q of its core from moving data: a conflicting earlier stream of the same context (R72), one that comes before
it on pages of MT = 1 (R28), an earlier stream into the same tile, or one of another hart that is arriving there (R73). -/
def keeps (x q : CqEntry) : Bool :=
  x.live &&
    ((decide (x.seq < q.seq) &&
        (sameTile q x || (x.owner = q.owner &&
          ((x.phase = 1 && x.device && q.device)
            || streamHits x q.src q.srcBytes q.srcAt false || streamHits x q.dst q.bytes q.dstAt true))))
      || (x.phase = 2 && x.owner != q.owner && sameTile q x))

/-- The places of a side, page by page. -/
def sidePieces (va : Word) (frames : List Nat) (n : Nat) : List (Loc × Nat) :=
  if n = 0 then []
  else if inWindow va then [(.tile (va.toNat - 0xFFFFFFFF80000), n)]
  else (range 0 frames.length).map (fun i =>
    let p := (va.toNat / 131072 + i) * 131072
    let lo := max va.toNat p
    (.pa (nth 0 frames i + (lo - p)), min (va.toNat + n) (p + 131072) - lo))

/-- Bytes at two places meet. -/
def locsMeet (l : Loc) (n : Nat) (m : Loc) (k : Nat) : Bool :=
  match l, m with
  | .pa a, .pa b => overlaps a n b k
  | .tile a, .tile b => overlaps a n b k
  | _, _ => false

/-- Earlier stores of the context of entry q that have not performed come before it: at bytes of a side (R46), or on pages of
MT = 1 and 2 (R28). -/
def storesKeep (s : State) (q : CqEntry) : Bool :=
  (storesOf s q.owner).any (fun e => (e.dev && q.device)
    || (sidePieces q.src q.srcAt q.srcBytes ++ sidePieces q.dst q.dstAt q.bytes).any (fun p => locsMeet p.1 p.2 e.loc e.n))

/-- The stores of the context in frame f of cluster k that wait perform, oldest first, up to one that still has to (R172). -/
def drainFrame (k f : Nat) (s : State) : State :=
  loop (fun _ t => match (frameOf t k f).stores with
    | [] => t
    | e :: es =>
      if isReg e.loc || e.seq.any (fun n => !(olderOf t (.frame k f) n).isEmpty || convoysOf t (.frame k f) n) then t
      else modFrame k f (fun x => { x with stores := es })
        (asHart (8 * (frameOf t k f).home) (asWriter (.frame k f, e.made) (writeLoc e.loc e.n e.val)) t))
    0 (frameOf s k f).stores.length s

/-- The stores of a context perform, up to one that waits. -/
def drainFor (m : Member) (s : State) : State :=
  match m with
  | .hart n => asHart n drainStores s
  | .frame k f => drainFrame k f s

/-- Entry e of core c waits in the copy queue before it reads or writes; a retired core's engine moves nothing (R14). -/
def entryBlocked (s : State) (c e : Nat) : Bool :=
  (getCore s c).retired || storesKeep s (getCq s c e) || (getCore s c).cq.any (fun x => keeps x.2 (getCq s c e))

/-- A headland's status word (R67). -/
def statusWord (kind : Nat) (pois mism xfer strict bar : Bool) (e count : Nat) : Word :=
  word (kind * 2 ^ 62 + b2n (pois || mism || xfer) * 2 ^ 61 + b2n pois * 2 ^ 60 + b2n mism * 2 ^ 59 + b2n xfer * 2 ^ 58
    + b2n strict * 2 ^ 57 + b2n bar * 2 ^ 56 + e * 2 ^ 52 + count % 2 ^ 32)

/-! Moving data by the frames taken at issue -/

/-- What a stream has met so far: poison 1, a transfer error 2; and the lines and tile words that it has written poisoned. -/
structure Moved where
  flags : Nat := 0
  bad : List Loc := []
  deriving DecidableEq, Repr

/-- The line or tile word of a place. -/
def unitLoc : Loc → Loc
  | .pa a => .pa (a / 128 * 128)
  | .tile o => .tile (o / 64 * 64)

/-- Does f on the hart of an entry, whose vector side it leaves alone. -/
def asOwner (q : CqEntry) (f : State → State) (s : State) : State :=
  asHart q.hart (fun t => updH (fun h => { h with iss := t.hart.iss }) (asWriter (q.owner, q.seq) f t)) s

/-- n bytes at l, on a page of type mt, as entry q reads them: the earlier stores of its context have performed (R46). -/
def sideRead (q : CqEntry) (mt : Nat) (l : Loc) (n : Nat) (s : State) : Nat :=
  let t := switchTo q.hart s
  readPast mt (updH (fun h => { h with storeBuf := [] }) t) l n

/-- n bytes from offset a of the source of entry p reach offset b of the destination of entry q. -/
def movePiece (p q : CqEntry) (a b n : Nat) (r : State × Moved) : State × Moved :=
  let l := sidePlace p.src p.srcAt a
  let m := sidePlace q.dst q.dstAt b
  let s := asHart p.hart (combBefore l n) r.1
  let po := locPois (switchTo p.hart s) l n
  let x := xferFails s l m
  (asOwner q (accWrite m n (sideRead p (nth {} p.srcPg ((p.src.toNat + a) / 131072 - p.src.toNat / 131072)).mt l n s) (po || x)) (pastXfer l m s),
    { flags := Nat.lor r.2.flags (b2n po + 2 * b2n x)
      bad := if po || x then unitLoc m :: unitLoc (m.plus (n - 1)) :: r.2.bad else r.2.bad })

/-- n bytes, in pieces that lie in one line on either side. -/
def moveSpan (p q : CqEntry) : Nat → Nat → Nat → Nat → State × Moved → State × Moved
  | 0, _, _, _, r => r
  | f + 1, a, b, n, r =>
    if n = 0 then r
    else
      let k := min n (min (128 - (p.src.toNat + a) % 128) (128 - (q.dst.toNat + b) % 128))
      moveSpan p q f (a + k) (b + k) (n - k) (movePiece p q a b k r)

/-- Lines and tile words that [b, b + n) of the destination of entry q covers, and that were written clean, carry poison no
longer (R37, R84). -/
def cleanSpan (q : CqEntry) (bad : List Loc) (b n : Nat) (s : State) : State :=
  let u := if inWindow q.dst then 64 else 128
  let lo := ceilDiv (q.dst.toNat + b) u
  (range lo ((q.dst.toNat + b + n) / u - lo)).foldl (fun t k =>
    let m := sidePlace q.dst q.dstAt (k * u - q.dst.toNat)
    if bad.contains m then t else asHart q.hart (cleanLoc m) t) s

/-- A plain stream moves its data: entry e of core c (R64). -/
def moveEntry (c e : Nat) (s : State) : State :=
  let q := getCq s c e
  let r := moveSpan q q (2 * (q.bytes / 128) + 3) q.gone q.gone (q.bytes - q.gone) (s, { flags := q.met })
  setCq c e { q with
      phase := 2
      status := statusWord 0 (nbit r.2.flags 0) false (nbit r.2.flags 1) (wbit q.status 57) q.bar e q.vl }
    (cleanSpan q r.2.bad q.gone (q.bytes - q.gone) r.1)

/-! The exchange (R58 to R60, R226) -/

/-- The entry of the earliest exchange of seat n that waits to start. -/
def xchEntry (s : State) (n : Nat) : Option Nat :=
  ((range 0 16).foldl (fun (o : Option (Nat × Nat)) e =>
    let q := getCq s (coreOf n) e
    if q.phase = 1 && q.xch && q.seat = n then
      (match o with
        | some x => if x.1 ≤ q.seq then some x else some (q.seq, e)
        | none => some (q.seq, e))
    else o) none).map (·.2)

/-- The parts of the gang of seat n in the exchange: member, entry and what the entry holds. -/
def xchParts (s : State) (n : Nat) : List (Nat × Nat × CqEntry) :=
  (gangOf s n).filterMap (fun m => (xchEntry s m).map (fun e => (m, e, getCq s (coreOf m) e)))

/-- Every member has issued its part, and none waits behind another stream (R59, R72, R73). -/
def xchReady (s : State) (n : Nat) : Bool :=
  (xchParts s n).length = (gangOf s n).length && !(gangOf s n).isEmpty
    && (xchParts s n).all (fun x => !entryBlocked s (coreOf x.1) x.2.1)

/-- Round r of the exchange of rows of b bytes: each member sends one row (R59); what each has met as a receiver. -/
def xchRound (ms : List (Nat × Nat × CqEntry)) (b r : Nat) (z : State × Tab Moved × Tab (List Nat)) :
    State × Tab Moved × Tab (List Nat) :=
  let n := ms.length
  (range 0 n).foldl (fun z i =>
    let j := (i + r) % n
    let p := (nth (0, 0, {}) ms i).2.2
    let q := (nth (0, 0, {}) ms j).2.2
    let old := Tab.get {} z.2.1 j
    let x := moveSpan p q (2 * (b / 128) + 3) (j * (p.bytes / n)) (i * (q.bytes / n)) b (z.1, { old with flags := 0 })
    (x.1, Tab.set {} z.2.1 j { x.2 with flags := Nat.lor old.flags x.2.flags },
      Tab.set [] z.2.2 j (Tab.get [] z.2.2 j ++ [x.2.flags]))) z

/-- A member's part ends: its rows' headlands are to come. The last one's status word, which the entry leaves, has COUNT of one
row, and POISON and XFERERR of any row: the spec does not say of which rows (DESIGN CHOICE, log 80). -/
def xchEnd (b n : Nat) (mism : Bool) (m : Moved) (rows : List Nat) (e : Nat) (q : CqEntry) (c : Nat) (s : State) : State :=
  let st (f : Nat) : Word :=
    statusWord 1 (nbit f 0) mism (nbit f 1) (wbit q.status 57) q.bar e (b / (q.ew / 8))
  let s1 := if mism then (range 0 n).foldl (fun t i => cleanSpan q m.bad (i * (q.bytes / n)) b t) s
    else cleanSpan q m.bad 0 q.bytes s
  setCq c e { q with phase := 2, status := st m.flags, heads := rows.dropLast.map st } s1

/-- The exchange of the gang of seat n runs, in rounds (R59). -/
def runExchange (n : Nat) (s : State) : State :=
  let ms := xchParts s n
  let k := ms.length
  let bs := ms.map (fun x => x.2.2.bytes / k)
  let b := bs.foldl min 65536
  let z := (range 0 k).foldl (fun z r => xchRound ms b r z) (s, [], [])
  (range 0 k).foldl (fun t j =>
    let x := nth (0, 0, {}) ms j
    xchEnd b k (bs.any (· != b)) (Tab.get {} z.2.1 j) (Tab.get [] z.2.2 j) x.2.1 x.2.2 (coreOf x.1) t) z.1

/-- The exchange starts once it can (R59), after the earlier stores of the members (R46). -/
def startExchange (n : Nat) (s : State) : State :=
  let t := (xchParts s n).foldl (fun t x => if storesKeep t x.2.2 then drainFor x.2.2.owner t else t) s
  if xchReady t n then runExchange n t else t

/-- Entry e of core c moves its data, if nothing keeps it from that. -/
def moveNow (c e : Nat) (s : State) : State :=
  let q := getCq s c e
  if q.phase ≠ 1 then s
  else if q.xch then startExchange q.seat s
  else
    let t := if storesKeep s q then drainFor q.owner s else s
    if entryBlocked t c e then t else moveEntry c e t

end Sys2Proof.Machine
end

