-- ==== Sys2Proof/Machine/Sync.lean ====
section
/-! DEFINITION. Headlands (R66 to R69), the gang barrier (R78 to R80, R205, R206), and what a release waits for
(R342). -/

namespace Sys2Proof.Machine

/-! The barrier -/

/-- Every member of the gang has arrived in the current phase, also one that is displaced (R206). -/
def allArrived (s : State) (m : Member) : Bool :=
  (gangOf s (memberSeat s m)).all (fun n => (holderOf s m n).any (fun x => (barrierOf s x).arrived))

/-- The error status that the waiters of a phase get (R80). Where several arrivals of one phase carry errors, the spec does not
say which: it is that of the member with the lowest number (DESIGN CHOICE, log 93). -/
def phaseError (s : State) (g : List Member) : Word :=
  ((g.map (fun x => (barrierOf s x).arriveErr)).find? (fun w => w != 0)).getD 0

/-- A phase completes for one member: PHASE, ERR, and the next held arrival counts (R78, R205). -/
def phaseDone (err : Word) (h : Hart) : Hart :=
  { h with
    phase := h.phase + 1
    gerr := err != 0
    gerrWord := err
    arrived := !h.heldArrivals.isEmpty
    arriveErr := h.heldArrivals.headD 0
    heldArrivals := h.heldArrivals.tail }

/-- Phases of the gang of m complete as long as every member has arrived. -/
def completePhases (m : Member) : Nat → State → State
  | 0, s => s
  | k + 1, s =>
    if allArrived s m then
      let g := gangHolders s m
      let err := phaseError s g
      completePhases m k (g.foldl (fun t x => modBarrier x (phaseDone err) t) s)
    else s

/-- The context m arrives at its gang barrier, with the error status of a headland or 0 (R78, R80, R205). -/
def arrive (m : Member) (err : Word) (s : State) : State :=
  let s1 := modBarrier m (fun h =>
    if h.arrived then
      { h with
        heldArrivals := h.heldArrivals ++ [err]
        joined := some (h.phase + BitVec.ofNat 32 (h.heldArrivals.length + 2)) }
    else { h with arrived := true, arriveErr := err, joined := some (h.phase + 1) }) s
  completePhases m (1 + ((gangHolders s1 m).map (fun x => (barrierOf s1 x).heldArrivals.length)).sum) s1

/-! Headlands -/

/-- What makes a phase carry an error (R80): poison, a transfer error, or a mismatch of a strict stream; a mismatch of
another stream raises nothing (R68; log 25). -/
def statusErr (w : Word) : Bool := wbit w 60 || wbit w 58 || (wbit w 57 && wbit w 59)

/-- The error that a barrier-bound headland brings to its phase (R80). -/
def arrivalErr (w : Word) : Word := if statusErr w then w else 0

/-- Frame f of cluster k lies here (R411). -/
def frameAddr (s : State) (k f : Nat) : Nat := wfld (getCluster s k).ctxbase 12 38 * 4096 + f * 0x108000

/-- Every earlier store and combined atomic of the context of m performs at its home slice, as far as they can: what a release
waits for, the convoys and the headlands of streams apart. -/
def performAllOf (m : Member) (s : State) : State :=
  match m with
  | .hart n => asHart n performAll s
  | .frame k f => combFlush (frameOf s k f).home (fun _ => true) (drainFrame k f s)

/-- The last headland of an entry is sent: the status word reaches the issuing hart, or the save area of its displaced context
(R69, R81); the entry frees. -/
def freeEntry (core e : Nat) (s : State) : State :=
  let q := Tab.get {} (getCore s core).cq e
  let s1 := modCore core (fun c => { c with cq := Tab.set {} c.cq e {} }) s
  match q.frame with
  | none => modHart q.hart (fun h => { h with strStat := Tab.set 0 h.strStat e q.status }) s1
  | some kf =>
    let a := frameAddr s1 (kf / 256) (kf % 256)
    putBytesBy none (a + 0xB00) (toBytes (putFld (getMem s1 (a + 0xB00) 8) e 1 0) 8)
      (putBytesBy none (a + 0xA80 + 8 * e) (toBytes q.status.toNat 8) s1)

/-- Entries of hart n on its core that are still in flight. -/
def inFlight (s : State) (n : Nat) : List Nat :=
  (range 0 16).filter (fun e =>
    let q := Tab.get {} (getCore s (coreOf n)).cq e
    q.live && q.hart = n && q.frame.isNone)

/-- An access that the context of m made before time k is not over: a stream up to its last headland, a slot of a convoy, a
store. -/
def owesAt (s : State) (m : Member) (k : Nat) : Bool := !(olderOf s m k).isEmpty || convoysOf s m k || storesLeft s m k

/-- The headland of a retired stream that is not barrier-bound; a retired core's engine sends none (R14). -/
def sendPlain (core e : Nat) (s : State) : State :=
  let q := Tab.get {} (getCore s core).cq e
  if q.phase ≠ 2 ∨ q.bar = true ∨ (getCore s core).retired = true then s else freeEntry core e s

/-- The last headland of a retired stream. That of a barrier-bound one is an arrival with release semantics (R78): the earlier
accesses of its context, on its hart or displaced, have performed and its earlier plain streams have sent their headlands; it is
not sent before. -/
def sendHeadland (core e : Nat) (s : State) : State :=
  let q := Tab.get {} (getCore s core).cq e
  if q.phase ≠ 2 ∨ (getCore s core).retired = true then s
  else if !q.bar then freeEntry core e s
  else
    let s1 := (olderOf s q.owner q.seq).foldl (fun t x => sendPlain core x t) (performAllOf q.owner s)
    if owesAt s1 q.owner q.seq then s1 else arrive q.owner (arrivalErr q.status) (freeEntry core e s1)

/-- x joins a list that the key orders. -/
def insertBy (key : Nat → Nat) (x : Nat) : List Nat → List Nat
  | [] => [x]
  | y :: ys => if key y ≤ key x then y :: insertBy key x ys else x :: y :: ys

/-- A list in the order of a key; equals stay in their order. -/
def sortBy (key : Nat → Nat) (l : List Nat) : List Nat := l.foldl (fun r x => insertBy key x r) []

/-- Entries in the order in which they were issued. -/
def bySeq (s : State) (core : Nat) (es : List Nat) : List Nat := sortBy (fun a => (Tab.get {} (getCore s core).cq a).seq) es

/-- A retired stream goes on as far as it can: its data move, and its last headland is sent. -/
def finishStream (core e : Nat) (s : State) : State := sendHeadland core e (moveNow core e s)

/-- Every retired stream of hart n goes on as far as it can, in the order of issue. -/
def sendAll (n : Nat) (s : State) : State :=
  (bySeq s (coreOf n) (inFlight s n)).foldl (fun t e => finishStream (coreOf n) e t) s

/-- Retired streams that conflict with an access of the hart end before it (R72): n bytes at va in these frames. -/
def meetRange (va : Word) (n : Nat) (fs : List Nat) (wr : Bool) (s : State) : State :=
  let hit (e : Nat) : Bool := streamHits (Tab.get {} (getCore s (myCore s)).cq e) va n fs wr
  if (myStreams s).isEmpty then s
  else (bySeq s (myCore s) ((inFlight s s.hn).filter hit)).foldl (fun t e => finishStream (myCore s) e t) s

/-- The same for one element at a place. -/
def meetStreams (va : Word) (n : Nat) (l : Loc) (wr : Bool) (s : State) : State := meetRange va n (locFrames l) wr s

/-- A stream that an access conflicts with is not over even so: the access waits (R72). -/
def streamHolds (s : State) (va : Word) (n : Nat) (l : Loc) (wr : Bool) : Bool :=
  (myStreams (meetStreams va n l wr s)).any (fun q => streamHits q va n (locFrames l) wr)

/-! Accesses to pages of MT = 1 and 2 are made in the order of the program (R28) -/

/-- Streams of the hart have data to move from or to such pages. -/
def deviceStreams (s : State) : Bool := (myStreams s).any (fun q => q.phase = 1 && q.device)

/-- Stores of the hart to such pages have not performed; for a convoy at the head of the VQ, stores made before it. -/
def deviceStores (s : State) : Bool :=
  let i := s.hart.iss
  s.hart.storeBuf.any (fun e => e.dev && (!i.group || i.seq = 0 || decide (e.made < i.seq)))

/-- Such an access of the hart, outside its queues, is not over. -/
def deviceLeft (s : State) : Bool := deviceStreams s || deviceStores s

/-- Before an access to a page of type mt, those go on as far as they can. -/
def deviceFirst (mt : Nat) (s : State) : State := if mt != 0 && deviceLeft s then drainStores (sendAll s.hn s) else s

/-- It waits for those that cannot. -/
def deviceHolds (mt : Nat) (s : State) : Bool := mt != 0 && deviceLeft (deviceFirst mt s)

/-- A scalar access waits for those, and for the ones in its hart's queues; a store queues behind other stores, and one that comes
after all accesses of its hart (R172) waits in the store buffer. -/
def deviceWaits (need : Need) (mt : Nat) (s : State) : Bool :=
  mt != 0 && !need.late &&
    (deviceStreams (deviceFirst mt s) || (!need.wr && deviceStores (deviceFirst mt s)) || (vqLocks (deviceFirst mt s)).any Lock.device)

/-- What an access of n bytes at va, on a page of type mt, comes after goes on as far as it can. -/
def accessFirst (mt : Nat) (va : Word) (n : Nat) (l : Loc) (wr : Bool) (s : State) : State :=
  combBefore l n (meetStreams va n l wr (deviceFirst mt s))

/-- A vector, fabric or matrix access waits for an earlier stream, and for an earlier scalar store of its bytes (R46, R72), and for
earlier accesses to such pages as its own (R28). -/
def exchangeHolds (s : State) (mt : Nat) (va : Word) (n : Nat) (l : Loc) (wr : Bool) : Bool :=
  streamHolds s va n l wr || storeKept s l n || deviceHolds mt s

/-- A scalar access waits for an earlier stream, or for an earlier access in the VQ (R47, R72). -/
def scalarHolds (s : State) (va : Word) (n : Nat) (l : Loc) (wr : Bool) : Bool :=
  streamHolds s va n l wr || queueHolds s va n l wr

/-- A vector or matrix access that has committed is still in the VQ or the MQ. -/
def queuedAccess (h : Hart) : Bool := !h.vq.isEmpty || !h.mq.isEmpty

/-- Earlier accesses of the hart of every kind go on as far as they can: stores, combined atomics, streams. -/
def performNow (s : State) : State := drainStores (sendAll s.hn (performAll s))

/-- Some of them are not over. -/
def unperformed (s : State) : Bool :=
  !(inFlight s s.hn).isEmpty || queuedAccess s.hart || !s.hart.storeBuf.isEmpty

/-- What every release at which the address processor stands waits for (R342): earlier accesses of every kind have performed,
streams up to their last headland; the slot waits while an exchange is not complete, or a convoy has not retired. -/
def released (f : State → State) (s : State) : State :=
  let s1 := performNow s
  if unperformed s1 then waitHere .stream s1 else f s1

/-- A `.rl` store does not wait there (R172): f gets the time at which it was made when earlier accesses are not over. -/
def releasing (f : Option Nat → State → State) (s : State) : State :=
  let s1 := performNow s
  if unperformed s1 then f (some s1.order) { s1 with order := s1.order + 1 } else f none s1

/-- Arrivals that wait for earlier accesses of their context (R205) count once those have performed, in their order. -/
def flushArrivals (m : Member) (s : State) : State :=
  match (barrierOf s m).pendArrivals with
  | [] => s
  | ks =>
    loop (fun _ t => match (barrierOf t m).pendArrivals with
      | [] => t
      | k :: rest => if owesAt t m k then t else arrive m 0 (modBarrier m (fun h => { h with pendArrivals := rest }) t))
      0 ks.length (performAllOf m s)

/-- What the displaced context in frame f of cluster k has still to perform without its hart goes on as far as it can (R81, R172,
R205). -/
def settleFrame (k f : Nat) (s : State) : State := flushArrivals (.frame k f) (drainFrame k f s)

/-- The trap of a poisoned or mismatched arrival (R80): its cause. -/
def arrivalCause (w : Word) : Nat := if wbit w 57 && wbit w 59 then cStreamLength else cPoisonArrival

end Sys2Proof.Machine
end

