-- ==== Sys2Proof/Machine/Context.lean ====
section
/-! DEFINITION. Context frames: displacement and resume (R366, R367, R369, R409, R411 to R416, R447). -/

namespace Sys2Proof.Machine

/-! The image of a context (R411 to R413) -/

/-- R413: a shadow VQ entry as 256 bytes. -/
def entryBytes (e : VqEntry) : List Byte :=
  let act (k : Nat) : Option Act := e.acts.find? (fun a => a.slot = k)
  let holds (w : Nat) : Bool := !isScalarWord w || isLenCtl w || isStripGrant w
  let queued := (range 0 4).foldl (fun n k =>
    match act k with
    | some a => if isScalarWord a.w.toNat then n else n + 2 ^ k
    | none => n) 0
  toBytes e.pc.toNat 8
    ++ (range 0 4).flatMap (fun k => toBytes (nth 0 e.words k).toNat 4)
    ++ toBytes queued 8
    ++ (range 0 4).flatMap (fun k =>
        match (act k).filter (fun a => holds a.w.toNat) with
        | some a => toBytes a.c0.toNat 8 ++ toBytes a.c1.toNat 8 ++ toBytes a.c2.toNat 8
        | none => toBytes 0 24)
    ++ (range 0 4).flatMap (fun k => toBytes (Tab.get 0 e.cells k) 4)
    ++ toBytes 0 112

/-- R411: an MQ entry as 64 bytes. -/
def mqBytes (e : MqEntry) : List Byte :=
  toBytes e.act.w.toNat 8 ++ toBytes e.act.c0.toNat 8 ++ toBytes e.act.c2.toNat 8 ++ toBytes e.act.mshape.toNat 8
    ++ toBytes e.prog 8 ++ toBytes 0 24

/-- The ring word (R411). -/
def ringWord : Option Ring → Nat
  | none => 0
  | some r => r.vb * 4 + log2 r.g + (r.n - 1) * 2 ^ 8 + r.p * 2 ^ 16 + r.c * 2 ^ 20 + r.occ * 2 ^ 24 + 2 ^ 31

def ringOf (w : Nat) : Option Ring :=
  if nbit w 31 then
    some { vb := fld w 2 6, g := 2 ^ fld w 0 2, n := fld w 8 3 + 1, p := fld w 16 3, c := fld w 20 3, occ := fld w 24 4 }
  else none

/-- Registers that the shadow VQ still owes the scalar side (R363). -/
def pendingRegs (h : Hart) : Nat :=
  (h.shadow.flatMap (·.acts) ++ h.cv.acts.filter (fun a => isCtlRead a.w.toNat)).foldl (fun n a =>
    match producesReg a.w.toNat with
    | some r => if r = 0 then n else Nat.lor n (2 ^ r)
    | none => n) 0

/-- Conditions that the shadow VQ still owes (R178). -/
def pendingConds (h : Hart) : Nat :=
  h.shadow.foldl (fun n e => n + (e.acts.filter (fun a => producesCond a.w.toNat)).length) 0

/-- The BQ word (R411). -/
def bqWord (h : Hart) : Nat :=
  (h.bq.foldr (fun c n => b2n c.1 + 2 * n) 0) + h.bq.length * 2 ^ 16 + pendingConds h * 2 ^ 21

/-- A context with no work to take up again (R412). -/
def quiet (h : Hart) (fabs : Bool) : Bool :=
  h.shadow.isEmpty && h.mq.isEmpty && h.smq.isEmpty && !h.vres && !fabs

/-- Fabric state of the hart is suspended on its core (R412 FABS). -/
def hasSuspended (s : State) (n : Nat) : Bool :=
  (getCore s (coreOf n)).slots.any (fun e => e.2.owner = some n)

/-- Header words 0 to 4 (R412) of the current hart's context, with rows of its attachment, saved when accs. -/
def headerWords (s : State) (accs : Bool) (rows pc slot : Nat) : List Nat :=
  let h := s.hart
  let fabs := hasSuspended s s.hn
  [2 ^ 63 + b2n (quiet h fabs) * 2 ^ 62 + b2n accs * 2 ^ 61 + b2n fabs * 2 ^ 60 + rows * 2 ^ 54 + h.vnreg % 128 * 2 ^ 47
      + h.lanemod % 128 * 2 ^ 40 + h.vlmax * 2 ^ 23 + coreOf s.hn * 2 ^ 15 + s.hn % 8 * 2 ^ 12,
    h.req % 32 * 2 ^ 17 + h.vlmax,
    wfld h.asid 0 16 * 2 ^ 32 + min 32 h.shadow.length * 2 ^ 24 + (h.smq ++ h.mq).length % 32 * 2 ^ 16,
    pc / 16 * 16 + slot % 4 * 4,
    match h.bound with
    | some b => 2 ^ 63 + b.queue * 2 ^ 48 + b.tid % 65536
    | none => 0]

/-- The frame's content as pieces at their offsets (R411); the image of a mask is followed by zeros up to the next one's
(DESIGN CHOICE, log 83). accs: its accumulator rows too. -/
def framePieces (s : State) (accs : Bool) (head : List Nat) : List (Nat × List Byte) :=
  let h := s.hart
  let vb := h.vlmax / 8
  let fly := inFlight s s.hn
  [(0, head.flatMap (fun w => toBytes w 8) ++ toBytes 0 216),
    (0x100, (range 0 32).flatMap (fun r => toBytes (getS s (BitVec.ofNat 5 r)).toNat 8)),
    (0x200, (range 0 0x4A).flatMap (fun n => toBytes (ctlValue s n).toNat 8)),
    (0x800, (range 0 64).flatMap (fun v => toBytes (Tab.get 0 h.prog v) 4)),
    (0x900, (range 0 4).flatMap (fun k => toBytes (Tab.get 0 h.cells k) 4)),
    (0x910, toBytes (ringWord h.ring) 8 ++ toBytes (b2n h.arrived + 2 * b2n (!h.heldArrivals.isEmpty)) 8),
    (0xA00, toBytes (pendingRegs h) 8 ++ toBytes (bqWord h) 8),
    (0xA80, (range 0 16).flatMap (fun e => toBytes (Tab.get 0 h.strStat e).toNat 8)),
    (0xB00, toBytes (fly.foldl (fun n e => n + 2 ^ e) 0) 8),
    (0x1000, (h.shadow.take 32).flatMap entryBytes),
    (0x3000, (h.smq ++ h.mq).flatMap mqBytes)]
  ++ (range 0 8).map (fun m => (0x4000 + 1024 * m, toBytes (getM s m).toNat 1024))
  ++ (range 0 (min h.vnreg 64)).map (fun v => (0x6000 + v * vb, toBytes ((getV s v).toNat % 2 ^ h.vlmax) vb))
  ++ (if accs then
        (range 0 4).flatMap (fun t => (range 0 h.rows).map (fun r =>
          (0x46000 + 4096 * (48 * t + r), toBytes (Tab.get 0 h.acc (48 * t + r)).toNat 4096)))
      else [])

/-- The poisoned words of the registers, as offsets in the frame (R39). -/
def framePoison (s : State) (accs : Bool) : List Nat :=
  let h := s.hart
  (h.vpois.map (fun e => 0x6000 + e.1 / 1024 * (h.vlmax / 8) + e.1 % 1024 * 8))
    ++ (h.mpois.map (fun e => 0x4000 + e.1 / 128 * 1024 + e.1 % 128 * 8))
    ++ (if accs then h.accPois.map (fun e => 0x46000 + e.1 / 512 * 4096 + e.1 % 512 * 8) else [])

/-- The current hart's context is written to frame f of cluster k. -/
def writeFrame (k f : Nat) (accs : Bool) (head : List Nat) (s : State) : State :=
  let base := frameAddr s k f
  let s1 := (framePieces s accs head).foldl (fun t p => putLines none (base + p.1) p.2 t) s
  (framePoison s accs).foldl (fun t o => spoilLine (base + o) t) s1

/-! Displacement -/

/-- CTXN.N (R372). -/
def frameCount (s : State) (k : Nat) : Nat := wfld (getCluster s k).ctxn 0 8

/-- The lowest free frame of cluster k. -/
def freeFrame (s : State) (k : Nat) : Option Nat :=
  findFrom (fun f => (Tab.get {} (getCluster s k).frames f).use = .free) 0 (frameCount s k)

/-- A hart that holds no context, with what belongs to the hart itself: its gang's barrier, its interrupts, its debug
control (R360). -/
def emptyHart (h : Hart) : Hart :=
  { phase := h.phase, gerr := h.gerr, gerrWord := h.gerrWord, arrived := h.arrived, arriveErr := h.arriveErr
    heldArrivals := h.heldArrivals, pendArrivals := h.pendArrivals, joined := h.joined, pend := h.pend
    brkHalt := h.brkHalt, takeMask := h.takeMask, ranTask := h.ranTask }

/-- The gang barrier as hart b has it. -/
def withBarrier (b h : Hart) : Hart :=
  { h with
    phase := b.phase, gerr := b.gerr, gerrWord := b.gerrWord, arrived := b.arrived, arriveErr := b.arriveErr
    heldArrivals := b.heldArrivals, pendArrivals := b.pendArrivals, joined := b.joined }

/-- A barrier at which nobody has arrived (R361, R447). -/
def freshBarrier (h : Hart) : Hart := withBarrier {} h

/-- A member of a bound task is elsewhere. -/
def moveMember (m m' : Member) (s : State) : State :=
  { s with
    tasks := s.tasks.map (fun e => (e.1, { e.2 with
      members := e.2.members.map (fun x => if x = m then m' else x)
      owing := e.2.owing.map (fun x => if x.1 = m then (m', x.2) else x) })) }

/-- A slot of the convoy in hand has read `vgrant`, and another sets the length: both are to meet one grant (R419). -/
def readsGrant (c : Conv) : Bool :=
  (range 0 (min c.slot 4)).any (fun k =>
    let w := (nth 0 c.words k).toNat
    majOf w = 0x1D && fld w 0 12 = 4)
    && c.words.any (fun w => isGrantWord w.toNat)

/-- A hart that waits so is displaced where it stands (R360, R206). -/
def isLongWait : WaitFor → Bool
  | .task | .gwait | .wait | .ingress | .pcwait | .future | .attach | .lanes | .gang => true
  | .egress | .stream | .fabric | .register => false

/-- The hart is inside a convoy of which a slot has executed, and is in none of R360's waits, or has read a grant there: its
address processor comes to the end of the convoy before it stops (R419; log 94). -/
def insideConvoy (h : Hart) : Bool :=
  h.cv.live && h.cv.slot != 0
    && (readsGrant h.cv || (match h.status with | .waiting r => !isLongWait r | .running => true | _ => false))
    && !(h.waitsFor .lanes || h.waitsFor .gang || h.waitsFor .attach)

/-- The hart has a context that can be displaced now: it holds one and is not in debug halt (R360), its live queues are empty when
its shadow VQ or its frozen MQ is occupied (R409), it has taken up what it was waiting for, and it stands between two convoys or
waits (R419). -/
def canStop (h : Hart) : Bool :=
  h.status != .noContext && h.status != .halted && ((h.shadow.isEmpty && h.smq.isEmpty) || (h.vq.isEmpty && h.mq.isEmpty))
    && h.answer.isNone && h.vanswer.isNone && !insideConvoy h

/-- Nothing that the hart has committed is left to run, and nothing that it has made is left to perform. -/
def restful (h : Hart) : Bool :=
  h.vq.isEmpty && h.mq.isEmpty && h.shadow.isEmpty && h.smq.isEmpty && h.storeBuf.isEmpty && h.pendArrivals.isEmpty

/-- A hart that waits in `task.take` and has run no task since its reset holds no context (R360), once its queues have run
empty (log 39). -/
def idleTaker (h : Hart) : Bool := h.status = .waiting .task && !h.ranTask && h.bound.isNone && restful h

/-- A hart that is displaced in `wait` resumes after it (R184). -/
def pastWait (h : Hart) : Hart :=
  if h.status ≠ .waiting .wait then h
  else if h.cv.slot = 3 ∧ h.cv.acts = [] ∧ h.cv.after = .go then { h with pc := h.cv.npc, cv := {} }
  else { h with cv := { h.cv with slot := h.cv.slot + 1 } }

/-- What the slots of the entries of a shadow VQ hold beside R413, at 4 × entry + slot. -/
def shadowTab {α : Type} [DecidableEq α] (d : α) (g : VqEntry → Nat → α) (es : List VqEntry) : Tab α :=
  (range 0 es.length).foldl (fun t j => (range 0 4).foldl (fun t k => Tab.set d t (4 * j + k) (g (nth {} es j) k)) t) []

/-- What the scalar slots of the entries of a shadow VQ have left for the slots after them. -/
def leftsOf (es : List VqEntry) : Tab (Option Word) :=
  shadowTab none (fun e k => (e.acts.find? (fun a => a.slot = k && isScalarAct a)).map (·.c0)) es

/-- Where the context goes on (R404, R419): at the slot in hand; at the next convoy, where the one in hand is only still to be
committed. -/
def standsAt (h : Hart) : Nat × Nat :=
  if commitWaits h.cv then (h.cv.npc.toNat, 0) else (h.pc.toNat, h.cv.slot)

/-- Displacement of the current hart into frame f of its cluster (R366, R409): accs also saves its accumulator rows
(R369). The frame of a hart that waits for the rows of its context has them already. What the context has still to perform without
a hart goes on. -/
def displaceCur (f : Nat) (use : FrameUse) (accs : Bool) (s : State) : State :=
  let k := clusterOf s.hn
  let n := s.hn
  let due := s.hart.rowsDue
  let inHandler := !(s.hart.shadow.isEmpty && s.hart.smq.isEmpty)
  let s1 := toShadow (dropHeld (performAll (updH pastWait { s with deferred := s.deferred.filter (fun d => d.hart != n) })))
  let at' := standsAt s1.hart
  let s2 := writeFrame k f accs (headerWords s1 (accs || due.isSome) ((due.map (·.2)).getD s1.hart.rows) at'.1 at'.2) s1
  let h := s2.hart
  let s3 := modFrame k f (fun _ =>
    { use := use
      prio := prioOf s2 n
      home := coreOf n
      queue := (h.bound.map (·.queue)).getD 0
      tid := (h.bound.map (·.tid)).getD 0
      bound := h.bound.isSome
      rows := if accs then 0 else h.rows
      acc := if accs then [] else h.acc
      accPois := if accs then [] else h.accPois
      inHandler := inHandler
      taking := h.status = .waiting .task
      conv := h.cv
      saved := h.saved
      shapes := shadowTab 0 (fun e k => ((e.acts.find? (fun a => a.slot = k)).map (·.mshape)).getD 0) h.shadow
      flags := shadowTab 0 (fun e k => Tab.get 0 e.flags k) h.shadow
      owed := h.shadow.map (·.results)
      dones := h.shadow.map (·.done)
      seqs := h.shadow.map (·.seq)
      mqs := h.smq ++ h.mq
      opens := h.shadow.filterMap VqEntry.openAt
      frozenAt := if inHandler then h.frozenAt else s2.order
      lefts := some (leftsOf h.shadow)
      pasts := shadowTab false (fun e k => ((e.acts.find? (fun a => a.slot = k)).map (·.past)).getD false) h.shadow
      more := h.shadow.drop 32
      fops := some h.fopStop
      trem := some (tremOf s2)
      since := s2.order
      barrier := some (withBarrier h {})
      seat := some (mySeat s2)
      stores := h.storeBuf
      marks := h.spois
      condMarks := h.bq.map (·.2) }) s2
  let s4 := modCore (coreOf n) (fun c =>
    { c with cq := c.cq.map (fun e => if e.2.hart = n ∧ e.2.frame = none then (e.1, { e.2 with frame := some (k * 256 + f) }) else e) }) s3
  let s5 := releaseGroups n (moveMember (.hart n) (.frame k f) s4)
  let s6 := if use = .listed then modCluster k (fun c => { c with resumeList := c.resumeList ++ [f] }) s5 else s5
  let s7 := if accs then { s6 with quads := Tab.set 0 s6.quads (quadOf n) (Tab.get 0 s6.quads (quadOf n) - h.rows) } else s6
  settleFrame k f (updH (fun h => freshBarrier (emptyHart h)) { s7 with order := s7.order + 1 })

/-- The frame that a displacement of hart n takes: the one that keeps the rows of its context, else the first free one. -/
def frameFor (s : State) (n : Nat) : Option Nat :=
  match (getHart s n).rowsDue with
  | some d => some d.1
  | none => freeFrame s (clusterOf n)

/-- Hart n commits no more, so that it can be displaced (R409): why, as in Hart.stopFor. -/
def stopHart (n : Nat) (why : Option Nat) (s : State) : State :=
  let h := getHart s n
  if h.status = .noContext ∨ h.status = .halted then s else modHart n (fun h => { h with stopFor := some why }) s

/-- Displacement of hart n into a free frame, listed for resume, at once or as soon as it can stop; nothing when no frame is free
(R366). -/
def displaceHart (n : Nat) (s : State) : State :=
  match frameFor s n with
  | none => s
  | some f => if canStop (getHart s n) then asHart n (displaceCur f .listed false) s else stopHart n none s

/-! Resume -/

def frameWord (s : State) (k f off : Nat) : Nat := getMem s (frameAddr s k f + off) 8

/-- The scalar slot k stands in a part of its convoy before the one of which the slots of mask q are (R190): what it has left has been
applied. -/
def pastPart (words : List (BitVec 32)) (q k : Nat) : Bool :=
  (range (k + 1) (3 - k)).any (fun f =>
    isFenceWord (nth 0 words f).toNat && q % 16 != 0 && (range 0 4).all (fun j => !nbit q j || decide (f < j)))

/-- R413 back to an entry; a re-issued slot uses what the entry holds. left: whether a scalar slot has left a value in the entry,
and for a register that R413 has no place for, which (R7); none: as the words, and the registers rq that values are due to, have it. -/
def entryOf (s : State) (a rq : Nat) (left : Option (Nat → Option Word)) : VqEntry :=
  let words := (range 0 4).map (fun k => BitVec.ofNat 32 (getMem s (a + 8 + 4 * k) 4))
  let q := getMem s (a + 24) 1
  { pc := word (getMem s a 8)
    words := words
    acts := (range 0 4).filterMap (fun k =>
      let w := nth 0 words k
      let sets := match left with
        | some g => (g k).isSome
        | none => isLenCtl w.toNat || isStripGrant w.toNat || (isCtlRead w.toNat && nbit rq (fld w.toNat 21 5))
      let c0 := match left.bind (fun g => g k) with
        | some v => if isLenCtl w.toNat || isStripGrant w.toNat then word (getMem s (a + 32 + 24 * k) 8) else v
        | none => word (getMem s (a + 32 + 24 * k) 8)
      if nbit q k || sets then
        some { slot := k, w := w, past := isScalarWord w.toNat && pastPart words q k, c0 := c0, c1 := word (getMem s (a + 40 + 24 * k) 8)
               c2 := word (getMem s (a + 48 + 24 * k) 8) }
      else none)
    cells := (range 0 4).foldl (fun t k => Tab.set 0 t k (fld (getMem s (a + 128 + 4 * k) 4) 0 17)) []
    re := true }

def mqOf (s : State) (a : Nat) : MqEntry :=
  { act :=
      { slot := 0, w := BitVec.ofNat 32 (getMem s a 4), c0 := word (getMem s (a + 8) 8), c2 := word (getMem s (a + 16) 8)
        mshape := word (getMem s (a + 24) 8) }
    prog := fld (getMem s (a + 32) 8) 0 17 }

/-- Words of a frame image that are poisoned (R39). -/
def poisonedWords (s : State) (a n key : Nat) : Tab Bool :=
  (range 0 n).foldl (fun t w => if linePoisoned s (a + 8 * w) 8 then Tab.set false t (key + w) true else t) []

/-- The barrier word of a frame that software has written (R411, R415). -/
def arrivalsOf (w : Nat) (h : Hart) : Hart :=
  { h with arrived := nbit w 0, arriveErr := 0, heldArrivals := if nbit w 1 then [0] else [], pendArrivals := [], joined := none }

/-- The restored hart (R414, R416), hart n. -/
def contextOf (s : State) (k f n : Nat) (old : Hart) : Hart :=
  let b := frameAddr s k f
  let w0 := frameWord s k f 0; let w1 := frameWord s k f 8
  let w2 := frameWord s k f 16; let w3 := frameWord s k f 24; let w4 := frameWord s k f 32
  let vl' := fld w0 23 17; let sv := fld w1 0 17; let nreg := fld w0 47 7
  let same := vl' = sv
  let keep := min vl' sv
  let ctl (n : Nat) : Word := word (frameWord s k f (0x200 + 8 * n))
  let fr := Tab.get {} (getCluster s k).frames f
  let entries := (range 0 (fld w2 24 6)).map (fun j =>
    let e := entryOf s (b + 0x1000 + 256 * j) (frameWord s k f 0xA00) (fr.lefts.map (fun t i => Tab.get none t (4 * j + i)))
    { e with
      acts := e.acts.map (fun a =>
        { a with
          mshape := Tab.get 0 fr.shapes (4 * j + a.slot)
          past := if fr.lefts.isSome then Tab.get false fr.pasts (4 * j + a.slot) else a.past })
      flags := (range 0 4).foldl (fun t k => Tab.set 0 t k (Tab.get 0 fr.flags (4 * j + k))) []
      results := nth [] fr.owed j
      done := nth [] fr.dones j
      seq := nth 0 fr.seqs j }) ++ fr.more
  let moves := (range 0 (fld w2 16 5)).map (fun j =>
    let x := nth {} fr.mqs j
    { mqOf s (b + 0x3000 + 64 * j) with seq := x.seq, space := x.space })
  let bqw := frameWord s k f 0xA08
  let h : Hart :=
    { goOnAt (takeUp fr.conv (word (w3 / 16 * 16)) (fld w3 2 2)) (word (w3 / 16 * 16)) (emptyHart old) with
      status := .running
      sregs := (range 1 31).foldl (fun t r => Tab.set 0 t r (word (frameWord s k f (0x100 + 8 * r)))) []
      spois := fr.marks
      vregs := (range 0 nreg).foldl (fun t v =>
        Tab.set 0 t v (BitVec.ofNat 65536 (getMem s (b + 0x6000 + v * (sv / 8)) (keep / 8)))) []
      mregs := (range 0 8).foldl (fun t m =>
        Tab.set 0 t m (BitVec.ofNat 8192 (getMem s (b + 0x4000 + 1024 * m) (keep / 64)))) []
      vpois := (range 0 nreg).flatMap (fun v => poisonedWords s (b + 0x6000 + v * (sv / 8)) (keep / 64) (1024 * v))
      mpois := (range 0 8).flatMap (fun m => poisonedWords s (b + 0x4000 + 1024 * m) (keep / 512) (128 * m))
      prog := if same then (range 0 64).foldl (fun t v => Tab.set 0 t v (fld (getMem s (b + 0x800 + 4 * v) 4) 0 17)) [] else []
      cells := if same then (range 0 4).foldl (fun t v => Tab.set 0 t v (fld (getMem s (b + 0x900 + 4 * v) 4) 0 17)) [] else []
      saved := fr.saved
      vtype := mkVtype (wfld (ctl 1) 0 5) (wbit (ctl 1) 63)
      vl := (ctl 0).setWidth 17
      vstart := if same then (ctl 2).setWidth 17 else 0
      vnreg := nreg
      req := fld w1 17 5
      fsidx := (range 0 4).foldl (fun t j => Tab.set 0 t j ((ctl (8 + j)).setWidth 32)) []
      fstat := ctl 0xC &&& 0xFFFFFFFF0000001F
      mshape := ctl 0x11 &&& 0x3FF07FF003F
      rows := fr.rows
      acc := fr.acc
      accPois := fr.accPois
      trem := (ctl 0x20).setWidth 48
      tb := (range 0 6).foldl (fun t j => Tab.set 0 t j (ctl (0x21 + j))) []
      tflags := ctl 0x27 &&& 0x3F
      hstat := setBit (ctl 0x40 &&& 0x9D) 5 (wbit (ctl 0x40) 5)
      cause := ctl 0x41 &&& 0x80000000000000FF
      epc := ctl 0x42 &&& 0xFFFFFFFFFFFFFFFC
      tval := ctl 0x43
      vqpos := ctl 0x44 &&& 0x9F
      tvec := ctl 0x45 &&& 0xFFFFFFFFFFFFFFF0
      tscratch := ctl 0x46
      asid := ctl 0x48 &&& 0xFFFF
      ptbase := ctl 0x49 &&& 0x3FFFFFFFFE000
      ring := (ringOf (frameWord s k f 0x910)).map (fun r => if same then r else { r with p := 0, c := 0, occ := 0 })
      strStat := (range 0 16).foldl (fun t e => Tab.set 0 t e (word (frameWord s k f (0xA80 + 8 * e)))) []
      bq := (range 0 (fld bqw 16 5)).map (fun i => (nbit bqw i, nth 0 fr.condMarks i))
      shadow := if fr.inHandler then entries else []
      smq := if fr.inHandler then moves else []
      mq := if fr.inHandler then [] else moves
      fopStop := fr.fops.getD (if nbit w0 60 then [wfld (ctl 0xC) 1 4] else [])
      frozenAt := fr.frozenAt
      storeBuf := fr.stores
      seat := let home := fr.seat.getD (fld w0 15 8 * 8 + fld w0 12 3)
        if home = n ∨ coreOf home ≠ coreOf n then none else some home
      bound := if nbit w4 63 then some { queue := fld w4 48 10, tid := fld w4 0 16 } else none }
  let h' := if fr.inHandler then h else { h with vq := reissued { h with shadow := entries } }
  match fr.barrier with
  | some b => withBarrier b h'
  | none => arrivalsOf (frameWord s k f 0x918) h'

/-- Rows come back from the frame (R369). -/
def restoreRows (s : State) (k f rows : Nat) (h : Hart) : Hart :=
  let b := frameAddr s k f + 0x46000
  { h with
    rows := rows
    acc := (range 0 4).foldl (fun t tl => (range 0 rows).foldl (fun t r =>
      Tab.set 0 t (48 * tl + r) (BitVec.ofNat 32768 (getMem s (b + 4096 * (48 * tl + r)) 4096))) t) []
    accPois := (range 0 4).flatMap (fun tl => (range 0 rows).flatMap (fun r =>
      poisonedWords s (b + 4096 * (48 * tl + r)) 512 (512 * (48 * tl + r)))) }

/-- Rows granted in a quad (R269). -/
def rowsUsed (s : State) (quad : Nat) : Nat := Tab.get 0 s.quads quad

/-- The stream status words that the context waits for have been written (R82). -/
def streamsWritten (s : State) (k f : Nat) : Bool := frameWord s k f 0xB00 % 65536 = 0

/-- The task's remaining count, where software has changed the frame's word for it (R414). -/
def restoreTrem (k f : Nat) (s : State) : State :=
  let v := frameWord s k f (0x200 + 8 * 0x20)
  match s.hart.bound, (frameOf s k f).trem with
  | some b, some w => if w.toNat = v then s else modTask b.queue b.tid (fun t => { t with trem := v % 2 ^ 48 }) s
  | some b, none => modTask b.queue b.tid (fun t => { t with trem := v % 2 ^ 48 }) s
  | none, _ => s

/-- The context in frame f of cluster k resumes on the current hart, which is free and of the right core: the negotiation
yields the header's VLMAX (R367, R415), and the stream words have arrived (R414); else nothing. One that held no lanes asks for
none. It needs as many lanes as it recorded, also where `gsetvl` had given it fewer than its groups have: R111 and R367 do not say
whether more will do (DESIGN CHOICE, log 99). Rows saved under R369 are waited for on the hart, and the frame holds them until then. -/
def resumeCur (k f : Nat) (s : State) : State :=
  let w0 := frameWord s k f 0
  let accs := nbit w0 61
  let rows := fld w0 54 6
  let fr := Tab.get {} (getCluster s k).frames f
  let old := s.hart
  let s0 := updH (fun _ =>
    { contextOf s k f s.hn old with
      status := .running, came := true, rowsDue := if accs && decide (0 < rows) then some (f, rows) else none }) s
  let bare := fld w0 23 17 = 0
  let r := if bare then (s0, true) else negotiate s0.hn (fld (frameWord s k f 8) 17 5) s0
  let r := (endNeg s0.hn r.1, r.2)
  let m := if bare then 0 else lanesOwned r.1 r.1.hn
  let long := fld w0 23 17 != fld (frameWord s k f 8) 0 17
  if !streamsWritten s k f then s
  else if bare ∨ (r.2 ∧ vlmaxOf m s0.hart.vnreg = fld w0 23 17 ∧ (fr.target.isSome ∨ m = fld w0 40 7)) then
    let s1 := updH (fun h =>
      let h1 := { h with lanemod := m }
      { h1 with vl := if long then BitVec.ofNat 17 (min h1.vl.toNat h1.maxVl) else h1.vl }) r.1
    let s3 := moveMember (.frame k f) (.hart s.hn) (restoreTrem k f s1)
    let s4 := modCore (coreOf s.hn) (fun c =>
      { c with slots := c.slots.map (fun e =>
        if e.2.owner = some (fld w0 15 8 * 8 + fld w0 12 3) && fld w0 15 8 = coreOf s.hn
        then (e.1, { e.2 with owner := some s.hn }) else e) }) s3
    modCluster k (fun c =>
      { c with
        frames := Tab.set {} c.frames f (if s0.hart.rowsDue.isSome then { use := .resuming } else {})
        resumeList := c.resumeList.filter (· != f) }) s4
  else s

/-- A hart is free: it waits in `task.take` with no task bound, or holds no context, on a core in service (R367, R14). -/
def isFree (s : State) (n : Nat) : Bool :=
  let h := getHart s n
  !(getCore s (coreOf n)).retired && h.bound.isNone && (h.status = .waiting .task || h.status = .noContext)

/-- The resume list in its order: priority, then time of displacement (R367). -/
def resumeOrder (s : State) (k : Nat) : List Nat :=
  sortBy (fun f => (7 - (frameOf s k f).prio) * 2 ^ 64 + (frameOf s k f).since) (getCluster s k).resumeList

/-- The hart whose context frame f of cluster k holds (R412). -/
def frameHart (s : State) (k f : Nat) : Nat :=
  let w := frameWord s k f 0
  fld w 15 8 * 8 + fld w 12 3

/-- Frame f of cluster k has been given up: its context has resumed. -/
def wasResumed (k f : Nat) (s : State) : Bool := (Tab.get {} (getCluster s k).frames f).use != .listed

/-- The context in frame f resumes on free hart n if it can. A hart that waits in `task.take` is displaced first: the
context it holds is listed in its turn, and waits again when it resumes (R196); one that waits so does not take the
place of another (DESIGN CHOICE, log 39). A hart that has run no task holds none (R360). -/
def resumeAt (k f n : Nat) (s : State) : State :=
  let fr := Tab.get {} (getCluster s k).frames f
  if (getHart s n).status = .noContext then asHart n (resumeCur k f) s
  else if idleTaker (getHart s n) && (inFlight s n).isEmpty then
    let t := asHart n (fun u => resumeCur k f (updH emptyHart (releaseGroups u.hn u))) s
    if wasResumed k f t then t else s
  else if fr.taking || !canStop (getHart s n) then s
  else match freeFrame s k with
    | none => s
    | some g =>
      let t := asHart n (fun u => resumeCur k f (displaceCur g .listed false u)) s
      if wasResumed k f t then t else s

/-- The first context of the list that can resume on free hart n does so (R367); only those of priority p or more. -/
def resumeOn (n p : Nat) (s : State) : State :=
  let k := clusterOf n
  (resumeOrder s k).foldl (fun t f =>
    let fr := Tab.get {} (getCluster t k).frames f
    if isFree t n && fr.use = .listed && decide (p ≤ fr.prio) && fr.target.getD fr.home = coreOf n then
      resumeAt k f n t
    else t) s

/-- Free harts of cluster k resume contexts of priority p or more. -/
def resumeAll (k p : Nat) (s : State) : State :=
  if (getCluster s k).resumeList.isEmpty then s
  else (range (128 * k) 128).foldl (fun t n => resumeOn n p t) s

end Sys2Proof.Machine
end

