-- ==== Sys2Proof/Machine/Future.lean ====
section
/-! DEFINITION. Futures (R34, R49 to R53, R201, R202), fences and drains (R203, R204), the gang barrier's instructions
(R205, R206), and waiting for a sheaf (R208). -/

namespace Sys2Proof.Machine

/-! One access of a scalar slot -/

/-- n bytes at va for a scalar slot (R165): a failed check traps; an earlier stream or vector access that conflicts is waited for
(R28, R47, R72); f gets the place and its memory type. -/
def scalarAt (need : Need) (va : Word) (n : Nat) (f : Loc → Nat → State → State) (s : State) : State :=
  match check s va n need with
  | .trap c => trap c va s
  | .hole pa => halt pa s
  | .ok l mt viol =>
    if scalarHolds s va n l need.wr || deviceWaits need mt s then waitHere .stream s
    else pastL2 mt l n need.wr (f l mt) (noteViolation viol (accessFirst mt va n l need.wr (resumeHere s)))

/-- The physical address of a place outside the window. -/
def paOf : Loc → Nat
  | .pa a => a
  | .tile _ => 0

/-! The home slice (R41, R49 to R53) -/

/-- The home slice of a physical address (R41). -/
def homeOf (pa : Nat) : Nat :=
  let line := fld pa 7 43
  Nat.xor (Nat.xor (fld line 0 16) (fld line 16 16)) (fld line 32 11) * 160 / 65536

/-- The future word at pa is full. -/
def isFull (s : State) (pa : Nat) : Bool := Tab.get false s.full (pa / 8)

def setFull (pa : Nat) (b : Bool) (s : State) : State := { s with full := Tab.set false s.full (pa / 8) b }

/-- Entries taken in the deferral buffer of a slice (R50). -/
def deferredAt (s : State) (slice : Nat) : Nat := (s.deferred.filter (fun d => homeOf d.pa = slice)).length

/-- The answer to a `fut.ld`, or its deferral (R49 to R51). -/
def sliceLd (n pa d b : Nat) (s : State) : State × Option (Word × Word) :=
  if isFull s pa then (s, some (word (getMem s pa 8), 0))
  else if deferredAt s (homeOf pa) < 256 then
    ({ s with deferred := s.deferred ++ [{ hart := n, pa := pa, d := d, b := b }] }, none)
  else (s, some (0, 1))

/-- A `fut.st` of who at the slice; true: the word was occupied (R49, R52). -/
def sliceSt (who : Option (Member × Nat)) (pa : Nat) (v : Word) (s : State) : State × Bool :=
  if isFull s pa then (s, true)
  else (answerAll pa v 0 (setFull pa true (putBytesBy who pa (toBytes v.toNat 8) s)), false)

/-! The instructions on futures -/

/-- What the future instructions need (R191); each is a violation wherever it points (R375). -/
def needFut (rd wr : Bool) : Need :=
  { rd := rd, wr := wr, mtMax := 0, window := false, future := true, always := true, align := 8 }

/-- The answer of a `fut.ld` reaches its registers: the status last when both name one register (R189, R201). -/
def futAnswer (d b a : BitVec 5) (v st : Word) (s : State) : State :=
  if st = 2 then trap cPoison (getS s a) (resumeHere s)
  else setS b st (if st = 0 then setS d v (resumeHere s) else resumeHere s)

/-- R201, R202: `fut.ld`. The request is made once; while it is deferred the slot waits. -/
def futLd (d a b : BitVec 5) (s : State) : State :=
  match s.hart.answer with
  | some (v, st) => futAnswer d b a v st s
  | none =>
    if s.deferred.any (fun x => x.hart = s.hn) then waitHere .future s
    else reads [a] (scalarAt (needFut true false) (getS s a) 8 (fun l _ t =>
      (if buffered t l 8 then afterStores else id) (fun u =>
        let r := sliceLd u.hn (paOf l) d.toNat b.toNat u
        match r.2 with
        | some (v, st) => futAnswer d b a v st r.1
        | none => waitHere .future r.1) t)) s

def execFutLd (d a b : BitVec 5) (s : State) : Host.Outcome State Fault Refusal :=
  done (futLd d a b s)

/-- R201, R202: `fut.st`, a release. -/
def execFutSt (d a b : BitVec 5) (s : State) : Host.Outcome State Fault Refusal :=
  done (reads [a, b] (fun s0 =>
    scalarAt (needFut false true) (getS s0 a) 8 (fun l _ s1 => released (fun t =>
      let r := sliceSt (some (writerOf t)) (paOf l) (getS t b) t
      setS d (if r.2 then 1 else 0) (resumeHere r.1)) s1) s0) s)

/-- R201, R202: `fut.clr`, after the hart's earlier scalar stores. The page permission that it needs, and whether it meets
poison, the spec does not say: W as a write, and no test of poison (DESIGN CHOICE, log 82). -/
def execFutClr (d a : BitVec 5) (s : State) : Host.Outcome State Fault Refusal :=
  done (reads [a] (fun s0 =>
    scalarAt (needFut false true) (getS s0 a) 8 (fun l _ s1 => afterStores (fun t =>
      setS d (if isFull t (paOf l) then 1 else 0) (setFull (paOf l) false (resumeHere t))) s1) s0) s)

/-! Fences and drains -/

/-- A convoy in the VQ, or a matrix slot in the MQ, has still to make an access of one of these kinds. -/
def queuedKinds (h : Hart) (kinds : Nat) : Bool :=
  h.vq.any (fun e => e.acts.any (fun a => Nat.land (accessKinds a.w.toNat) kinds != 0)) || (nbit kinds 4 && !h.mq.isEmpty)

/-- Every earlier access of the kinds that `fence` names has performed (R203): buffered stores, the combining entries with loads
or stores (R230), streams up to their headlands, and what waits in the VQ and the MQ. Other kinds are left alone. -/
def fenceRun (kinds : Nat) (s : State) : State :=
  let s1 := if nbit kinds 1 then drainStores s else s
  let s2 := if nbit kinds 0 || nbit kinds 1 then combFlush (myCore s1) (fun _ => true) s1 else s1
  let s3 := if nbit kinds 2 then sendAll s2.hn s2 else s2
  if (nbit kinds 1 && !s3.hart.storeBuf.isEmpty) || (nbit kinds 2 && !(inFlight s3 s3.hn).isEmpty)
      || queuedKinds s3.hart kinds then waitHere .stream s3
  else resumeHere s3

/-- R203: `fence`. The scope adds nothing to what one device holds (log 9). -/
def execFence (k : BitVec 5) (_c : BitVec 4) (s : State) : Host.Outcome State Fault Refusal := done (fenceRun k.toNat s)

/-- A slot of the hart's VQ that has not completed is one of these. -/
def queuedSlot (h : Hart) (p : Nat → Bool) : Bool :=
  h.vq.any (fun e => e.acts.any (fun a => !slotDone e a.slot && p a.w.toNat))

/-- R204: what `drain` waits for: that convoys committed before it have retired; that their matrix instructions have completed; that
their streams have sent their headlands; that the values and the conditions of them that are due have been delivered, as they are
when a convoy retires. -/
def drainDone (s : State) (q : Nat) : Bool :=
  if q = 1 then s.hart.mq.isEmpty && !queuedSlot s.hart (fun w => majOf w = 0x35)
  else if q = 2 then (inFlight s s.hn).isEmpty && !queuedSlot s.hart isStream
  else if q = 3 then !s.hart.vq.any (fun e => e.acts.any (fun a => (producesReg a.w.toNat).any (· != 0)))
  else if q = 4 then !s.hart.vq.any (fun e => e.acts.any (fun a => producesCond a.w.toNat))
  else s.hart.vq.isEmpty

/-- R204; a `drain` of VQ retires the combining entries of the core (R230). -/
def drainRun (q : Nat) (s : State) : State :=
  let s1 := if q = 0 then combFlush (myCore s) (fun _ => true) s else s
  let s2 := if q = 2 then sendAll s1.hn s1 else s1
  if drainDone s2 q then resumeHere s2 else waitHere .stream s2

/-- R204: `drain`. -/
def execDrain (q : BitVec 5) (s : State) : Host.Outcome State Fault Refusal := done (drainRun q.toNat s)

/-! The barrier -/

/-- R205: the arrival counts once the hart's earlier accesses have performed; the slot does not wait for one that takes
longer, whose end counts it. -/
def execGarrive (s : State) : Host.Outcome State Fault Refusal :=
  let s1 := performNow s
  done (flushArrivals (.hart s1.hn)
    { updH (fun h => { h with pendArrivals := h.pendArrivals ++ [s1.order] }) s1 with order := s1.order + 1 })

/-- The phase of the hart's latest arrival has completed; a hart that has not arrived waits for nothing (R206). -/
def phasePassed (h : Hart) : Bool :=
  h.pendArrivals.isEmpty && (match h.joined with | none => true | some j => decide (0 ≤ (h.phase - j).toInt))

/-- R206: `gwait`. An error of the phase traps after sd is written (R80). -/
def gwaitRun (d : BitVec 5) (s : State) : State :=
  let s1 := flushArrivals (.hart s.hn) s
  if !phasePassed s1.hart then waitHere .gwait s1
  else
    let s2 := setS d (s1.hart.phase.setWidth 64) (resumeHere s1)
    if s2.hart.joined.isSome && s2.hart.gerr then trap (arrivalCause s2.hart.gerrWord) s2.hart.gerrWord s2 else s2

def execGwait (d : BitVec 5) (s : State) : Host.Outcome State Fault Refusal := done (gwaitRun d s)

/-! Sheaves -/

/-- The header has reached the target, or its cancelled or its completed bit is set (R208, R312). -/
def headerReached (w target : Word) : Bool :=
  decide (wfld target 0 8 ≤ wfld w 0 8) || wbit w 9 || wbit w 10

/-- R208: `pcwait`. -/
def execPcwait (d a b : BitVec 5) (_c : BitVec 4) (s : State) : Host.Outcome State Fault Refusal :=
  done (reads [a, b] (fun s0 =>
    scalarAt { rd := true, mtMax := 0, window := false, always := true, align := 8 } (getS s0 a) 8 (fun l _ t =>
      let u := if partlyBuffered t l 8 then drainStores t else t
      let w := word (ownRead u l 8)
      if partlyBuffered u l 8 then waitHere .stream u
      else if headerReached w (getS u b) then setS d w u
      else waitHere .pcwait { u with hart := { u.hart with status := s0.hart.status, since := s0.hart.since } }) s0) s)

end Sys2Proof.Machine
end

