-- ==== Sys2Proof/Machine/Sm3.lean ====
section
/-! DEFINITION. SM3 as GB/T 32905-2016 gives it, which R378, R379 and R442 name, and the CRC-64 of a Kraha flit (R324). -/

namespace Sys2Proof.Machine

/-! SM3 -/

/-- The eight words of the state. -/
structure Sm3 where
  a : BitVec 32
  b : BitVec 32
  c : BitVec 32
  d : BitVec 32
  e : BitVec 32
  f : BitVec 32
  g : BitVec 32
  h : BitVec 32
  deriving DecidableEq, Repr

def sm3Init : Sm3 :=
  { a := 0x7380166F, b := 0x4914B2B9, c := 0x172442D7, d := 0xDA8A0600
    e := 0xA96F30BC, f := 0x163138AA, g := 0xE38DEE4D, h := 0xB0FB0E4E }

def rot (x : BitVec 32) (n : Nat) : BitVec 32 := x.rotateLeft n
def p0 (x : BitVec 32) : BitVec 32 := x ^^^ rot x 9 ^^^ rot x 17
def p1 (x : BitVec 32) : BitVec 32 := x ^^^ rot x 15 ^^^ rot x 23

/-- A big-endian word of a block. -/
def beWord (bs : List Byte) (k : Nat) : BitVec 32 := BitVec.ofNat 32 (ofBytes ((bs.drop (4 * k)).take 4).reverse)

/-- W_0 to W_67 of a block, latest first. -/
def sm3Expand (bs : List Byte) : List (BitVec 32) :=
  loop (fun _ w =>
    let x := p1 (nth 0 w 15 ^^^ nth 0 w 8 ^^^ rot (nth 0 w 2) 15) ^^^ rot (nth 0 w 12) 7 ^^^ nth 0 w 5
    x :: w) 0 52 ((range 0 16).map (beWord bs)).reverse

/-- Round j, with W_j and W_j xor W_(j+4). -/
def sm3Round (j : Nat) (w w' : BitVec 32) (s : Sm3) : Sm3 :=
  let t : BitVec 32 := if j < 16 then 0x79CC4519 else 0x7A879D8A
  let ss1 := rot (rot s.a 12 + s.e + rot t (j % 32)) 7
  let ss2 := ss1 ^^^ rot s.a 12
  let ff := if j < 16 then s.a ^^^ s.b ^^^ s.c else (s.a &&& s.b) ||| (s.a &&& s.c) ||| (s.b &&& s.c)
  let gg := if j < 16 then s.e ^^^ s.f ^^^ s.g else (s.e &&& s.f) ||| (~~~ s.e &&& s.g)
  let tt1 := ff + s.d + ss2 + w'
  let tt2 := gg + s.h + ss1 + w
  { a := tt1, b := s.a, c := rot s.b 9, d := s.c, e := p0 tt2, f := s.e, g := rot s.f 19, h := s.g }

/-- Rounds j, j + 1, … over W from j on. -/
def sm3Rounds : Nat → Nat → List (BitVec 32) → Sm3 → Sm3
  | _, 0, _, s => s
  | j, n + 1, w, s => sm3Rounds (j + 1) n w.tail (sm3Round j (nth 0 w 0) (nth 0 w 0 ^^^ nth 0 w 4) s)

/-- The compression of one 64-byte block. -/
def sm3Block (bs : List Byte) (s : Sm3) : Sm3 :=
  let t := sm3Rounds 0 64 (sm3Expand bs).reverse s
  { a := t.a ^^^ s.a, b := t.b ^^^ s.b, c := t.c ^^^ s.c, d := t.d ^^^ s.d
    e := t.e ^^^ s.e, f := t.f ^^^ s.f, g := t.g ^^^ s.g, h := t.h ^^^ s.h }

/-- n blocks. -/
def sm3Blocks : Nat → List Byte → Sm3 → Sm3
  | 0, _, s => s
  | n + 1, bs, s => sm3Blocks n (bs.drop 64) (sm3Block (bs.take 64) s)

/-- A big-endian number as bytes. -/
def beBytes (x n : Nat) : List Byte := (toBytes x n).reverse

/-- The SM3 digest of a message, in the order in which SM3 delivers its bytes. -/
def sm3 (msg : List Byte) : List Byte :=
  let z := (119 - msg.length % 64) % 64
  let padded := msg ++ [0x80#8] ++ List.replicate z 0 ++ beBytes (8 * msg.length) 8
  let s := sm3Blocks (padded.length / 64) padded sm3Init
  [s.a, s.b, s.c, s.d, s.e, s.f, s.g, s.h].flatMap (fun x => beBytes x.toNat 4)

end Sys2Proof.Machine
end

