-- ==== Sys2Proof/Machine/Reuse.lean ====
section
/-! DEFINITION. The reuse table: tenants, keys, lookup, hits and insertion (R375 to R386). -/

namespace Sys2Proof.Machine

/-! Tenants (R377, R386) -/

def modTenant (t : Nat) (f : Tenant → Tenant) (s : State) : State :=
  { s with reuse := { s.reuse with tenants := Tab.modify {} s.reuse.tenants t f } }

def getTenant (s : State) (t : Nat) : Tenant := Tab.get {} s.reuse.tenants t

/-- RCTL.EN. -/
def reuseOn (s : State) : Bool := wbit s.reuse.ctl 63

/-- The entries that a tenant holds, on both dies (R384). -/
def tenantUsed (s : State) (t : Nat) : Nat := (s.reuse.entries.filter (fun e => e.tenant = t)).length

/-- Entries of tenant t go (R385). -/
def flushTenant (t : Nat) (s : State) : State :=
  { s with reuse := { s.reuse with entries := s.reuse.entries.filter (fun e => e.tenant != t) } }

/-- The tenant map's entry for an `asid` (R377); none when the read faults or meets poison. -/
def mapTenant (s : State) (asid : Nat) : Option Nat :=
  let a := wfld s.reuse.ctl 17 33 * 131072 + 2 * asid
  if !populated s a 2 || linePoisoned s a 2 then none
  else
    let w := getMem s a 2
    some (if w / 1024 ≠ 0 then 0 else w)

/-- A counter of RCOUNT, saturating. -/
def bump32 (n : Nat) : Nat := min (2 ^ 32 - 1) (n + 1)

def countMiss (t : Nat) (s : State) : State := modTenant t (fun x => { x with misses := bump32 x.misses }) s
def countHit (t : Nat) (s : State) : State := modTenant t (fun x => { x with hits := bump32 x.hits }) s

/-! Ranges and their spans (R380, R381) -/

/-- [a, a + len) cut at the page boundaries. -/
def pieces : Nat → Nat → Nat → List (Nat × Nat)
  | 0, _, _ => []
  | k + 1, a, len =>
    if len = 0 then []
    else
      let n := min len (131072 - a % 131072)
      (a, n) :: pieces k (a + n) (len - n)

/-- Adjacent spans as one. -/
def joinSpans : List (Nat × Nat) → List (Nat × Nat)
  | [] => []
  | (a, n) :: l =>
    match joinSpans l with
    | (b, m) :: r => if a + n = b then (a, n + m) :: r else (a, n) :: (b, m) :: r
    | [] => [(a, n)]

/-- The physical spans of a range on MT = 0 pages of HBM, by the queue's `asid` and span table with SUP = 0; none on a
translation fault, a permission failure or another kind of page (R381). -/
def rangeSpans (s : State) (ptb : Word) (need : Need) (a len : Nat) : Option (List (Nat × Nat)) :=
  let one (p : Nat × Nat) : Option (Nat × Nat) :=
    match checkCtl s ptb (word p.1) p.2 false { need with test := false, window := false } with
    | .ok (.pa pa) mt _ => if mt = 0 ∧ inHbm pa then some (pa, p.2) else none
    | _ => none
  ((pieces (len / 131072 + 2) a len).mapM one).map joinSpans

/-- Some line of the spans is poisoned. -/
def spansPoisoned (s : State) (l : List (Nat × Nat)) : Bool :=
  s.linePois.any (fun e => l.any (fun sp => overlaps (128 * e.1) 128 sp.1 sp.2))

/-- The bytes of spans, in order. -/
def spanBytes (s : State) (l : List (Nat × Nat)) : List Byte := l.flatMap (fun sp => getBytes s sp.1 sp.2)

/-- The ranges of a record that r accepts by its ROLE: the number of the base, its address and its length (R192). -/
def recRanges (bs : List Byte) (r : Nat → Bool) : List (Nat × Nat × Nat) :=
  ((range 0 6).filter (fun j => r (roleOf bs j))).map (fun j =>
    (j, recField bs (32 + 8 * j) 8, 128 * recField bs (80 + 4 * j) 4))

/-- What a lookup finds out before it probes the table. -/
structure Look where
  code : List (Nat × Nat) := []
  args : List (List (Nat × Nat)) := []
  outs : List (Nat × List (Nat × Nat)) := []
  deriving DecidableEq, Repr

/-- The record's ranges as spans; none when the lookup must miss (R381). -/
def lookRanges (s : State) (ptb : Word) (bs : List Byte) : Option Look := do
  let code ← rangeSpans s ptb { ex := true } (recField bs 0 8) (16 * recField bs 20 4)
  let args ← (recRanges bs (fun r => r % 2 = 1)).mapM (fun x => rangeSpans s ptb { rd := true } x.2.1 x.2.2)
  let outs ← (recRanges bs (fun r => decide (2 ≤ r))).mapM (fun x =>
    (rangeSpans s ptb { wr := true } x.2.1 x.2.2).map (fun l => (x.1, l)))
  if spansPoisoned s code || args.any (spansPoisoned s) then none else some { code := code, args := args, outs := outs }

/-- The first n bytes of spans, and what follows them. -/
def takeSpans : Nat → List (Nat × Nat) → List (Nat × Nat)
  | _, [] => []
  | n, (a, m) :: l => if n = 0 then [] else if m ≤ n then (a, m) :: takeSpans (n - m) l else [(a, n)]
def dropSpanBytes : Nat → List (Nat × Nat) → List (Nat × Nat)
  | _, [] => []
  | n, (a, m) :: l => if m ≤ n then dropSpanBytes (n - m) l else (a + n, m - n) :: l

/-- The leaves of a range (R378), as spans. -/
def cutLeaves : Nat → List (Nat × Nat) → List (List (Nat × Nat))
  | 0, _ => []
  | k + 1, l => takeSpans 4096 l :: cutLeaves k (dropSpanBytes 4096 l)

/-- A leaf's digest enters the cache of a die, which holds 16,384 (R380); which one makes room is the model's choice: the
oldest (log 78). -/
def cacheLeaf (d : LeafDigest) (s : State) : State :=
  let l := s.reuse.leaves
  let l := if 16384 ≤ (l.filter (fun x => x.die = d.die)).length then
      (match l.find? (fun x => x.die = d.die) with | some x => l.erase x | none => l)
    else l
  { s with reuse := { s.reuse with leaves := l ++ [d] } }

/-- The digest of one leaf: cached when the leaf lies in one page (R380). -/
def leafDigest (l : List (Nat × Nat)) (s : State) : State × List Byte :=
  match l with
  | [(pa, n)] =>
    if pa / 131072 ≠ (pa + n - 1) / 131072 then (s, sm3 (spanBytes s l))
    else match s.reuse.leaves.find? (fun d => d.pa = pa && d.len = n) with
      | some d => (s, toBytes d.digest 32)
      | none =>
        let d := sm3 (spanBytes s l)
        (cacheLeaf { die := homeOf pa / 80, pa := pa, len := n, digest := ofBytes d } s, d)
  | _ => (s, sm3 (spanBytes s l))

def spanLen (l : List (Nat × Nat)) : Nat := (l.map (·.2)).sum

/-- The digest of a range (R378). -/
def rangeDigest (l : List (Nat × Nat)) (s : State) : State × List Byte :=
  let r := (cutLeaves (ceilDiv (spanLen l) 4096) l).foldl (fun (p : State × List Byte) x =>
    let d := leafDigest x p.1
    (d.1, p.2 ++ d.2)) (s, [])
  (r.1, sm3 (r.2 ++ toBytes (spanLen l) 8))

/-- The reuse key of a record (R379), as a number (R381). -/
def reuseKey (salt : List Word) (bs : List Byte) (l : Look) (s : State) : State × Nat :=
  let flags := Nat.land (recField bs 16 4) 0xF03
  let code := rangeDigest l.code s
  let args := l.args.foldl (fun (p : State × List Byte) sp =>
    let d := rangeDigest sp p.1
    (d.1, p.2 ++ d.2)) (code.1, [])
  (args.1, ofBytes (sm3
    (salt.flatMap (fun w => toBytes w.toNat 8) ++ code.2
      ++ (bs.drop 8).take 8 ++ (bs.drop 24).take 8 ++ toBytes flags 4 ++ (bs.drop 80).take 24 ++ (bs.drop 112).take 16
      ++ args.2)))

/-! The table (R382 to R385) -/

/-- The entry of a tenant and key. -/
def findEntry (s : State) (t key : Nat) : Option ReuseEntry :=
  s.reuse.entries.find? (fun e => e.tenant = t && e.key = key)

/-- The entry has been hit: it is the most recently used. -/
def touchEntry (t key : Nat) (s : State) : State :=
  { s with reuse := { s.reuse with
      clock := s.reuse.clock + 1
      entries := s.reuse.entries.map (fun e => if e.tenant = t && e.key = key then { e with age := s.reuse.clock } else e) } }

/-- An entry goes. -/
def dropEntry (t key : Nat) (s : State) : State :=
  { s with reuse := { s.reuse with entries := s.reuse.entries.filter (fun e => !(e.tenant = t && e.key = key)) } }

/-- Two entries lie in one set of one die (R384). -/
def sameSet (k j : Nat) : Bool := k % 4096 = j % 4096

/-- R384: an entry is put in the table, in place of the same one, in a free way, or of the least recently hit one. -/
def putEntry (e : ReuseEntry) (s : State) : State :=
  let r := s.reuse
  let mine := r.entries.filter (fun x => !(x.tenant = e.tenant && x.key = e.key))
  let ways := mine.filter (fun x => sameSet x.key e.key)
  let oldest := ways.foldl (fun (o : Option ReuseEntry) x => match o with
    | none => some x
    | some y => some (if x.age < y.age then x else y)) none
  let kept := match decide (ways.length < 16), oldest with
    | false, some y => mine.filter (fun x => !(x = y))
    | _, _ => mine
  { s with reuse := { r with clock := r.clock + 1, entries := kept ++ [{ e with age := r.clock }] } }

/-- Step 2 of R199 for a completed task: its entry, if R383 allows one. -/
def reuseInsert (t : Task) (value : Word) (s : State) : State :=
  let r := t.rc
  if reuseOn s && r.looked && r.insertable && !t.demoted && decide (tenantUsed s r.tenant < (getTenant s r.tenant).quota) then
    let d := r.outs.foldl (fun (p : State × List (Nat × Nat)) o =>
      let x := rangeDigest o.2 p.1
      (x.1, p.2 ++ [(o.1, ofBytes x.2)])) (s, [])
    putEntry { tenant := r.tenant, key := r.key, spans := r.outs, value := value, age := 0, digests := d.2 } d.1
  else s

/-- The units of a copy: pairs of source and destination of at most 128 bytes, in ascending order. -/
def copyUnits : Nat → List (Nat × Nat) → List (Nat × Nat) → List (Nat × Nat × Nat)
  | 0, _, _ => []
  | _, [], _ => []
  | _, _, [] => []
  | k + 1, (a, n) :: l, (b, m) :: r =>
    let u := min (min n m) (128 - a % 128)
    if u = 0 then copyUnits k (if n = 0 then l else (a, n) :: l) (if m = 0 then r else (b, m) :: r)
    else (a, b, u) :: copyUnits k (if n = u then l else (a + u, n - u) :: l) (if m = u then r else (b + u, m - u) :: r)

/-- The lines that a copy which began at lo completes with n bytes at b carry poison no longer (R37). -/
def copiedLines (lo b n : Nat) (s : State) : State :=
  ((wholeLines lo (b + n - lo)).filter (fun l => decide (b < 128 * (l + 1)))).foldl (fun t l => cleanLine (128 * l) t) s

/-- The copy of a hit (R382): the second component tells that it has been abandoned. A write to the entry's spans, the
copy's own included, ends the entry and the hit (R385). -/
def copyHit (t key : Nat) (units : List (Nat × Nat × Nat)) (s : State) : State × Bool :=
  let r := units.foldl (fun (p : State × Bool × Nat × Nat) u =>
    if p.2.1 then p
    else if (findEntry p.1 t key).isNone then (p.1, true, p.2.2)
    else if linePoisoned p.1 u.1 u.2.2 then (dropEntry t key p.1, true, p.2.2)
    else
      let lo := if u.2.1 = p.2.2.2 then p.2.2.1 else u.2.1
      (copiedLines lo u.2.1 u.2.2 (putBytesBy none u.2.1 (getBytes p.1 u.1 u.2.2) p.1), false, lo, u.2.1 + u.2.2)) (s, false, 0, 0)
  (r.1, r.2.1)

/-- A hit (R382): the completion value when the task completes by it. Whether core 16k, whose stream engine R382 names, has been
retired (R14) makes no difference: the spec says nothing of that, and the copy is made all the same (DESIGN CHOICE, log 79). -/
def takeHit (e : ReuseEntry) (l : Look) (s : State) : State × Option Word :=
  let s1 := touchEntry e.tenant e.key (countHit e.tenant s)
  if e.spans = l.outs then (s1, some e.value)
  else
    let units := l.outs.flatMap (fun o =>
      match e.spans.find? (fun x => x.1 = o.1) with
      | some src => copyUnits (2 * (spanLen src.2 / 128 + 2) * (src.2.length + o.2.length + 2)) src.2 o.2
      | none => [])
    let r := copyHit e.tenant e.key units s1
    if r.2 || (units != [] && (findEntry r.1 e.tenant e.key).isNone) then (r.1, none) else (r.1, some e.value)

/-- What a lookup leaves in the record, and the completion value of a hit (R381). -/
def reuseLook (asid : Nat) (ptb : Word) (r : QRec) (s : State) : State × QRec × Option Word :=
  let miss := { r with looked := true, insertable := false }
  match mapTenant s asid with
  | none => (countMiss 0 s, miss, none)
  | some 0 => (s, miss, none)
  | some t =>
    match lookRanges s ptb r.bytes with
    | none => (countMiss t s, miss, none)
    | some l =>
      let x := reuseKey (getTenant s t).salt r.bytes l s
      let s := x.1
      let key := x.2
      let rec' := { r with
        looked := true, insertable := true, tenant := t, key := key, spans := l.code ++ l.args.flatten, outs := l.outs }
      match findEntry s t key with
      | none => (countMiss t s, rec', none)
      | some e =>
        let h := takeHit e l s
        match h.2 with
        | some v => (h.1, rec', some v)
        | none => (h.1, { rec' with insertable := false }, none)

end Sys2Proof.Machine
end

