-- ==== Sys2Proof/Machine/Tasks.lean ====
section
/-! DEFINITION. Task queues: posting and the spill ring, dispatch, strips, completion and yield (R192 to R200, R370,
R372 to R374, R447). -/

namespace Sys2Proof.Machine

/-! Queues -/

/-- Fields of QCTL. -/
def Queue.en (q : Queue) : Bool := wbit q.ctl 63
def Queue.rsz (q : Queue) : Nat := wfld q.ctl 52 4
def Queue.qasid (q : Queue) : Nat := wfld q.ctl 32 16
/-- Records that the ring holds when full (R373). -/
def Queue.room (q : Queue) : Nat := 2 ^ q.rsz * 1024
/-- ONCHIP: the reserve slot included. -/
def Queue.onchipCount (q : Queue) : Nat := q.onchip.length + b2n q.reserve.isSome

def clusterOfQueue (q : Nat) : Nat := q / 64

/-- An interrupt for hart CIRQ.HART of cluster k, while CIRQ.EN = 1 (R372). -/
def clusterIrq (k code : Nat) (tval : Word) (s : State) : State :=
  let c := (getCluster s k).cirq
  if wbit c 63 && decide (wfld c 0 11 < nHarts) then raiseIrq (wfld c 0 11) code tval s else s

/-- The virtual address of a ring slot. -/
def ringVa (q : Queue) (i : Nat) : Word := word (wfld q.ring 17 35 * 131072 + 128 * (i % q.room))

/-- SPF and FVA are set, and the supervisor is told (R374). -/
def spillFault (j : Nat) (va : Word) (s : State) : State :=
  clusterIrq (clusterOfQueue j) 1 (word j)
    (modQueue j (fun q => { q with spf := true, fva := word (va.toNat / 131072 * 131072) }) s)

/-- A record is written to the ring slot after the last spilled one; false: the page faults (R373, R374). -/
def ringWrite (j : Nat) (r : QRec) (s : State) : State × Bool :=
  let q := getQueue s j
  let va := ringVa q (q.head + q.spilled)
  match checkCtl s q.ptb va 128 true { wr := true, mtMax := 1, window := false, align := 128 } with
  | .ok (.pa pa) _ _ =>
    (modQueue j (fun q => { q with spilled := q.spilled + 1, addrs := q.addrs ++ [r.addr] })
      (putLines none pa r.bytes s), true)
  | _ => (spillFault j va s, false)

/-- Spilled records return on chip, in order, while there is room (R373); a fault stops that (R374). -/
def refill (j : Nat) : Nat → State → State
  | 0, s => s
  | k + 1, s =>
    let q := getQueue s j
    if q.spf || q.spilled = 0 || decide (32 ≤ q.onchip.length) then s
    else
      let va := ringVa q q.head
      match checkCtl s q.ptb va 128 true { rd := true, mtMax := 1, window := false, align := 128 } with
      | .ok (.pa pa) mt _ =>
        refill j k (modQueue j (fun q =>
          { q with
            onchip := q.onchip ++ [{ addr := q.addrs.headD 0, bytes := bytesPast mt s pa 128 }]
            head := (q.head + 1) % q.room
            spilled := q.spilled - 1
            addrs := q.addrs.tail }) s)
      | _ => spillFault j va s

/-- A write of RESUME = 1 (R374): the reserve slot is tried again, then the refill. -/
def queueResume (j : Nat) (s : State) : State :=
  let q := getQueue s j
  if !q.spf then s
  else match q.reserve with
    | none => refill j 33 (modQueue j (fun q => { q with spf := false }) s)
    | some r =>
      let w := ringWrite j r s
      if w.2 then refill j 33 (modQueue j (fun q => { q with spf := false, reserve := none }) w.1) else w.1

/-- R194: a reserved bit, ENTRY[3:0], or a pure record without code. -/
def malformed (bs : List Byte) : Bool :=
  recField bs 14 2 != 0 || fld (recField bs 16 4) 6 2 != 0 || fld (recField bs 16 4) 12 20 != 0
    || fld (recField bs 28 4) 30 2 != 0 || recField bs 0 8 % 16 != 0
    || (recField bs 16 4 % 2 = 1 && recField bs 20 4 = 0)

/-- A controller judges a post and queues a copy of the record (R194, R373, R374); the status. -/
def post (j : Nat) (addr : Word) (bs : List Byte) (s : State) : State × Nat :=
  let q := getQueue s j
  let r : QRec := { addr := addr, bytes := bs }
  if !q.en then (s, 2)
  else if malformed bs then (s, 3)
  else if q.spf then (s, 1)
  else if q.onchip.length < 32 ∧ q.spilled = 0 then
    (modQueue j (fun q => { q with onchip := q.onchip ++ [r] }) s, 0)
  else if q.room ≤ q.spilled then (s, 1)
  else
    let w := ringWrite j r s
    (if w.2 then w.1 else modQueue j (fun q => { q with reserve := some r }) w.1, 0)

/-- R194: `task.post`. -/
def execTaskPost (d a b : BitVec 5) (s : State) : Host.Outcome State Fault Refusal :=
  done (reads [a, b] (fun s0 =>
    if 640 ≤ (getS s0 b).toNat then pureOnly true (fun t => setS d 2 (resumeHere t)) s0
    else released (fun t =>
      scalarAt { rd := true, mtMax := 0, window := false, always := true, align := 128 } (getS t a) 128 (fun l _ u =>
        let r := post (getS u b).toNat (getS u a) (getBytes u (paOf l) 128) u
        setS d (word r.2) r.1) t) s0) s)

/-! Binding (R196, R447) -/

/-- FLAGS of a record (R193). -/
def flagsOf (r : QRec) : Nat := recField r.bytes 16 4
def recPrio (r : QRec) : Nat := fld (flagsOf r) 2 3
def recGang (r : QRec) : Nat := fld (flagsOf r) 8 4 + 1

/-- `tflags`, `tb0` to `tb5`, PMODE and the binding itself (R196, R119). -/
def bindHart (j tid : Nat) (r : QRec) (h : Hart) : Hart :=
  { h with
    bound := some { queue := j, tid := tid }
    ranTask := true
    tflags := word (fld (flagsOf r) 0 6)
    hstat := setBit h.hstat 5 (nbit (flagsOf r) 0)
    tb := (range 0 6).foldl (fun t i => Tab.set 0 t i (word (recField r.bytes (32 + 8 * i) 8))) [] }

/-- A hart that waited in `task.take` has its task: the slot gives the record's address. -/
def wakeTaker (r : QRec) (h : Hart) : Hart := { h with status := .running, answer := some (r.addr, 0) }

/-- A freed hart as it starts the task, its barrier fresh like every control register (R447). -/
def freshHart (q : Queue) (dentry : Word) (r : QRec) (h : Hart) : Hart :=
  { freshBarrier (emptyHart h) with
    status := .running
    sregs := Tab.set 0 [] 3 r.addr
    asid := word q.qasid
    ptbase := q.ptb
    tvec := dentry &&& 0xFFFFFFFFFFFFFFF0
    hstat := setBit 0x8 0 (wbit dentry 0)
    pc := word (recField r.bytes 0 8) }

/-- The lowest handle at or after the queue's next one that no task of it carries. -/
def freshTid (s : State) (j : Nat) : Nat :=
  let n := (getQueue s j).nextTid
  ((findFrom (fun t => !s.tasks.any (fun e => e.1 = taskKey j (t % 65536))) n 65536).getD n) % 65536

/-- The head record of queue j is bound to the harts ns; freed ones start afresh. -/
def bindHead (j : Nat) (r : QRec) (ns freed : List Nat) (s : State) : State :=
  let tid := match r.yielded with | some t => t | none => freshTid s j
  let ms := ns.map Member.hart
  let s1 := match r.yielded with
    | some t => modTask j t (fun x => { x with members := ms }) s
    | none =>
      modQueue j (fun q => { q with nextTid := (tid + 1) % 65536 })
        (modTask j tid (fun _ => { rc := r, trem := recField r.bytes 8 6, members := ms }) s)
  let q := getQueue s j
  let de := (getCluster s (clusterOfQueue j)).dentry
  let s2 := ns.foldl (fun t n =>
    modHart n (fun h => bindHart j tid r (if freed.contains n then freshHart q de r h else wakeTaker r h)) t) s1
  refill j 33 (modQueue j (fun q => { q with onchip := q.onchip.tail }) s2)

/-! Dispatch (R370) -/

/-- Bit j of a take mask, 0 offering every queue (R196). -/
def offers (mask : Word) (j : Nat) : Bool := mask = 0 || wbit mask (j % 64)

/-- Queue j is eligible for hart n, which waits in `task.take`, as far as n itself goes. -/
def takes (s : State) (j n : Nat) : Bool :=
  let h := getHart s n
  h.status = .waiting .task && h.bound.isNone && offers h.takeMask j && wfld h.asid 0 16 = (getQueue s j).qasid
    && !(getCore s (coreOf n)).retired

/-- Tasks of queue j that have started and not completed. -/
def startedOf (s : State) (j : Nat) : Nat := (s.tasks.filter (fun e => e.1 / 65536 = j)).length

/-- The BARRIER condition of a head record (R197); a yielded task has started already. -/
def barrierOk (s : State) (j : Nat) (r : QRec) : Bool :=
  r.yielded.isSome || !nbit (flagsOf r) 1 || startedOf s j = 0

/-- The harts or gangs that wait for queue j, as the record needs them (R196), with when the last of them began. -/
def waiters (s : State) (j : Nat) (r : QRec) : List (Nat × List Nat) :=
  let k := clusterOfQueue j
  ((range (128 * k) 128).filter (takes s j)).filterMap (fun n =>
    let g := gangOf s n
    if g.length = recGang r && g.all (takes s j) then some ((g.map (fun x => (getHart s x).since)).foldl max 0, g)
    else none)

/-- The longest-waiting of them. -/
def bestWaiter (s : State) (j : Nat) (r : QRec) : Option (List Nat) :=
  ((waiters s j r).foldl (fun (o : Option (Nat × List Nat)) x => match o with
    | none => some x
    | some y => some (if x.1 < y.1 then x else y)) none).map (·.2)

/-- The head of an enabled queue whose BARRIER condition holds. -/
def readyHead (s : State) (j : Nat) : Option QRec :=
  let q := getQueue s j
  if !q.en then none else q.onchip.head?.bind (fun r => if barrierOk s j r then some r else none)

/-- Fills the SIGNAL word of a task that a hit has completed (R382); a fault is an interrupt, a walk that meets no memory too
(log 15). -/
def hitSignal (j : Nat) (r : QRec) (v : Word) (s : State) : State :=
  let a := recField r.bytes 104 8
  if a = 0 then s
  else match checkCtl s (getQueue s j).ptb (word a) 8 false (needFut false true) with
    | .ok (.pa pa) _ _ => (sliceSt none pa v s).1
    | _ => clusterIrq (clusterOfQueue j) 4 (word a) s

/-- The head of queue j is bindable (R370): a gang of its size waits with the queue offered. -/
def bindable (s : State) (j : Nat) : Bool :=
  match readyHead s j with
  | none => false
  | some r => (bestWaiter s j r).isSome

/-- The head of queue j must be looked up before it binds (R381). -/
def wantsLookup (s : State) (r : QRec) : Bool :=
  reuseOn s && nbit (flagsOf r) 0 && !r.looked && r.yielded.isNone

/-- The lookup of the head of queue j (R381, R382). -/
def lookupHead (j : Nat) (s : State) : State :=
  match readyHead s j with
  | none => s
  | some r =>
    if !wantsLookup s r then s
    else
      let q := getQueue s j
      let x := reuseLook q.qasid q.ptb r s
      let s1 := modQueue j (fun q => { q with onchip := x.2.1 :: q.onchip.tail }) x.1
      match x.2.2 with
      | none => s1
      | some v => refill j 33 (modQueue j (fun q => { q with onchip := q.onchip.tail }) (hitSignal j r v s1))

/-- The queues of cluster k from the round-robin pointer of priority p on. -/
def queuesFrom (s : State) (k p : Nat) : List Nat :=
  let o := Tab.get 0 (getCluster s k).rr p
  (range 0 64).map (fun i => 64 * k + (o + i) % 64)

/-- The head to bind next: the highest priority, then the round-robin order (R370). -/
def chooseHead (s : State) (k : Nat) : Option (Nat × QRec × List Nat) :=
  ((range 0 8).map (fun i => 7 - i)).findSome? (fun p =>
    (queuesFrom s k p).findSome? (fun j =>
      match readyHead s j with
      | none => none
      | some r => if recPrio r = p then (bestWaiter s j r).map (fun g => (j, r, g)) else none))

/-- A record of priority p has been bound from queue j. -/
def advanceRr (k j p : Nat) (s : State) : State :=
  modCluster k (fun c => { c with rr := Tab.set 0 c.rr p ((j + 1) % 64) }) s

/-- A context of priority p or more is still listed though a hart of its core is free for it: what it needs cannot be granted
yet, and no task of its priority or less binds before it (R367). -/
def resumePending (k p : Nat) (s : State) : Bool :=
  (getCluster s k).resumeList.any (fun f =>
    let fr := Tab.get {} (getCluster s k).frames f
    fr.use = .listed && decide (p ≤ fr.prio) && !fr.taking
      && (range (8 * fr.target.getD fr.home) 8).any (isFree s))

/-- Binds heads as long as one finds its harts; contexts of at least its priority resume first (R370, R367). -/
def dispatch (k : Nat) : Nat → State → State
  | 0, s => s
  | f + 1, s =>
    match chooseHead s k with
    | none => s
    | some (j, r, g) =>
      if wantsLookup s r then dispatch k f (lookupHead j s)
      else
        let s1 := resumeAll k (recPrio r) s
        if resumePending k (recPrio r) s1 then s1
        else if g.all (takes s1 j) then
          dispatch k f (advanceRr k j (recPrio r) (bindHead j r g [] s1))
        else dispatch k f s1

/-- What the controller of cluster k does when a hart waits. -/
def serve (k : Nat) (s : State) : State := if s.queues.isEmpty then resumeAll k 0 s else resumeAll k 0 (dispatch k 4096 s)

/-! Displacement for dispatch (R370) -/

/-- A bound hart that is to give way to a head of priority p of queue j. -/
def yields (s : State) (j p n : Nat) : Bool :=
  let h := getHart s n
  h.bound.isSome && decide (prioOf s n < p) && offers h.takeMask j && !(getCore s (coreOf n)).retired

/-- The gang, with its bound members, that gives way: its highest bound priority is lowest, then its rank-0 member has the
highest number. For GANG = 0 that is the hart of lowest priority and highest number. -/
def victimsFor (s : State) (j : Nat) (r : QRec) : Option (List Nat × List Nat) :=
  let k := clusterOfQueue j
  let gangs := ((range (128 * k) 128).filter (fun n => rankOf s n = 0)).map (gangOf s)
  let able := gangs.filterMap (fun g =>
    let bs := g.filter (fun n => yields s j (recPrio r) n)
    if g.length = recGang r && !bs.isEmpty && g.all (fun n => takes s j n || bs.contains n) then
      some ((bs.map (prioOf s)).foldl max 0, g, bs)
    else none)
  (able.foldl (fun (o : Option (Nat × List Nat × List Nat)) x => match o with
    | none => some x
    | some y => some (if x.1 ≤ y.1 then x else y)) none).map (·.2)

/-- The harts are displaced for the head of queue j, if there are frames for all of them (R366). Where one of them cannot stop yet,
none is, and they commit no more until all can (R409). -/
def displaceAll (ns : List Nat) (j : Nat) (s : State) : State × Bool :=
  let t := ns.foldl (fun t n => if canStop (getHart t n) then displaceHart n t else t) s
  if ns.all (fun n => (getHart t n).status = .noContext) then (t, true)
  else if ns.all (fun n => (getHart t n).status = .noContext || !canStop (getHart t n)) then
    (ns.foldl (fun u n => stopHart n (some j) u) s, false)
  else (s, false)

/-- The head of queue j is looked up while a gang waits for it (R381). -/
def lookDue (s : State) (j : Nat) (r : QRec) : Bool := wantsLookup s r && bindable s j

/-- The head of queue j starts on the harts g, of which those of bs have been freed for it; it is looked up first (R381). -/
def startFreed (j : Nat) (g bs : List Nat) (s : State) : State :=
  let go (r : QRec) (t : State) : State := advanceRr (clusterOfQueue j) j (recPrio r) (bindHead j r g bs t)
  match readyHead s j with
  | none => s
  | some r =>
    if wantsLookup s r then
      (let t := lookupHead j s
       match readyHead t j with
       | some x => if x.looked && x.addr = r.addr then go x t else t
       | none => t)
    else go r s

/-- A ready head that finds no waiting hart displaces bound ones of lower priority and starts on them (R370, R447). A context of at
least its priority that can resume on a freed hart does so instead; while one is listed that cannot, none is displaced (R367). -/
def displaceFor (j : Nat) (s : State) : State :=
  match readyHead s j with
  | none => s
  | some r =>
    if (bestWaiter s j r).isSome then s
    else match victimsFor s j r with
      | none => s
      | some (g, bs) =>
        let k := clusterOfQueue j
        let d := displaceAll bs j s
        if !d.2 then d.1
        else
          let u := resumeAll k (recPrio r) d.1
          if bs.any (fun n => (getHart u n).status != .noContext) then u
          else if resumePending k (recPrio r) u then s
          else startFreed j g bs u

/-- The heads of cluster k in the order of priority, then of number. -/
def headOrder (s : State) (k : Nat) : List Nat :=
  (range 0 8).flatMap (fun i => (range (64 * k) 64).filter (fun j =>
    match readyHead s j with | some r => recPrio r = 7 - i | none => false))

/-- Everything that the controller of cluster k does when it acts (R370). -/
def control (k : Nat) (s : State) : State :=
  let s1 := serve k s
  (headOrder s1 k).foldl (fun t j => displaceFor j t) s1

/-- R196: `task.take`. A waiting hart takes what it was bound to; else it offers itself and the controller acts. -/
def execTaskTake (d a : BitVec 5) (s : State) : Host.Outcome State Fault Refusal :=
  done (match s.hart.answer with
    | some (v, _) => setS d v (resumeHere s)
    | none =>
      pureOnly true (fun s0 =>
        if s0.hart.bound.isSome then trapWord cTaskState s0
        else reads [a] (fun s1 =>
          let m := getS s1 a
          let s2 := serve (clusterOf s1.hn) (waitHere .task (updH (ownSeat m) s1))
          match s2.hart.answer with
          | some (v, _) => setS d v (resumeHere s2)
          | none => if idleTaker s2.hart then updH (setLanes 0) (releaseGroups s2.hn s2) else s2) s0) s)
where
  /-- A hart that offers itself takes its own place among the gangs (log 39). -/
  ownSeat (m : Word) (h : Hart) : Hart :=
    let h1 := { h with takeMask := m }
    if h.seat.isNone then h1 else freshBarrier { h1 with seat := none }

/-! Strips (R198) -/

/-- An earlier convoy that is still queued sets the length or the type of registers (R198). -/
def typePending (h : Hart) : Bool :=
  h.vq.any (fun e => e.acts.any (fun a => majOf a.w.toNat = 0x1E || (isLenCtl a.w.toNat && fld a.w.toNat 0 12 = 1)))

/-- `step_bytes(j)` of the bound record (R163). -/
def stepBytes (bs : List Byte) (j : Nat) : Nat :=
  let k := fld (recField bs 28 4) (5 * j + 2) 3
  if k = 0 then 0 else 2 ^ (k - 1)

/-- The grant itself: n elements from e. -/
def takeStrip (d : BitVec 5) (b : BoundTask) (t : Task) (n : Nat) (s : State) : State :=
  let s1 := leaveCtl (word n) (fun u => updH (fun h => { h with vstart := 0 }) (ctlStore 0 (word n) u)) s
  let s2 := updH (fun h => { h with
    tb := (range 0 6).foldl (fun x j =>
      Tab.set 0 x j (word (recField t.rc.bytes (32 + 8 * j) 8 + t.e * stepBytes t.rc.bytes j))) [] }) s1
  setS d (word t.e) (modTask b.queue b.tid (fun x => { x with e := t.e + n, trem := t.trem - n }) s2)

def stripRun (d a : BitVec 5) (s : State) : State :=
  match s.hart.bound with
  | none => trap cTaskState 0 s
  | some b =>
    if s.hart.vill then trap cVtype s.hart.vtype s
    else
      let t := getTask s b.queue b.tid
      let c := (getS s a).toNat
      let cap := recField t.rc.bytes 24 4
      let n := min (min t.trem s.hart.maxVl) (min (if cap = 0 then t.trem else cap) (if c = 0 then t.trem else c))
      let s1 := resumeHere s
      if n = 0 then setS d (-1) (leaveCtl 0 (ctlStore 0 0) s1) else takeStrip d b t n s1

/-- R198: `strip.grant`. -/
def execStripGrant (d a : BitVec 5) (s : State) : Host.Outcome State Fault Refusal :=
  done (if typePending s.hart then waitHere .stream s else reads [a] (stripRun d a) s)

/-! Completion and yield (R199, R200) -/

/-- The hart no longer has a task. -/
def unbindHart (h : Hart) : Hart :=
  { h with bound := none, tflags := 0, trem := 0, tb := [], hstat := setBit h.hstat 5 false }

/-- The members that are left when the current hart goes. -/
def otherMembers (s : State) (t : Task) : List Member := t.members.filter (· != Member.hart s.hn)

/-- The current hart leaves its task. -/
def leaveTask (b : BoundTask) (s : State) : State :=
  modTask b.queue b.tid (fun t => { t with members := otherMembers s t }) (updH unbindHart s)

/-- The task is over (R197). -/
def endTask (j tid : Nat) (s : State) : State := { s with tasks := Tab.erase s.tasks (taskKey j tid) }

/-- Accesses of a member that has ended its part at time k are not over: on its hart, or of its frame (R199). -/
def stillOwes (s : State) (x : Member × Nat) : Bool := owesAt s x.1 x.2

/-- They go on as far as they can. -/
def settleOwing (t : Task) (s : State) : State :=
  t.owing.foldl (fun u x => match x.1 with
    | .hart n => asHart n performNow u
    | .frame k f => settleFrame k f
        ((bySeq u (memberCore u x.1) (olderOf u x.1 x.2)).foldl (fun v e => finishStream (memberCore u x.1) e v) u)) s

/-- The current hart ends its part; what it has not performed is waited for when the task completes. -/
def endPart (b : BoundTask) (s : State) : State :=
  let s1 := performNow s
  let s2 := if unperformed s1 then
      { modTask b.queue b.tid (fun t => { t with owing := t.owing ++ [(.hart s1.hn, s1.order + 1)] }) s1 with order := s1.order + 2 }
    else s1
  leaveTask b s2

/-- Steps 2 and 3 of R199 for the last member. -/
def finishTask (d : BitVec 5) (b : BoundTask) (v : Word) (s : State) : State :=
  let t := getTask s b.queue b.tid
  let s1 := endTask b.queue b.tid (updH unbindHart (reuseInsert t v s))
  let a := word (recField t.rc.bytes 104 8)
  if a = 0 then setS d 2 (resumeHere s1)
  else match check s1 a 8 (needFut false true) with
    | .trap c => trap c a (resumeHere s1)
    | .hole pa => halt pa s1
    | .ok l _ _ =>
      let r := sliceSt (some (writerOf s1)) (paOf l) v s1
      setS d (if r.2 then 1 else 0) (resumeHere r.1)

/-- Step 1 of R199 for the last member: it waits for its own accesses and for those of the members before it. -/
def completeTask (d : BitVec 5) (b : BoundTask) (v : Word) (f : State → State) (s : State) : State :=
  released (fun t =>
    let u := settleOwing (getTask t b.queue b.tid) t
    if (getTask u b.queue b.tid).owing.any (stillOwes u) then waitHere .stream u else f (finishTask d b v u)) s

/-- R199: `task.done`. -/
def execTaskDone (d a : BitVec 5) (s : State) : Host.Outcome State Fault Refusal :=
  done (match s.hart.bound with
    | none => trapWord cTaskState s
    | some b =>
      reads [a] (fun s0 =>
        if (otherMembers s0 (getTask s0 b.queue b.tid)).isEmpty then completeTask d b (getS s0 a) id s0
        else setS d 2 (endPart b s0)) s)

/-- A record that left the chip last goes back to the ring, before those that are there; none where the ring cannot take it
(log 90). -/
def unspill (j : Nat) (r : QRec) (s : State) : Option State :=
  let q := getQueue s j
  let i := (q.head + q.room - 1) % q.room
  if q.room ≤ q.spilled ∨ r.yielded.isSome = true then none
  else match checkCtl s q.ptb (ringVa q i) 128 true { wr := true, mtMax := 1, window := false, align := 128 } with
    | .ok (.pa pa) _ _ =>
      some (modQueue j (fun q => { q with head := i, spilled := q.spilled + 1, addrs := r.addr :: q.addrs }) (putLines none pa r.bytes s))
    | _ => none

/-- A record returns to the head of queue j; when 32 are on chip, the youngest of them goes to the ring before those that have
spilled (R372, R373); none while the ring cannot take it (log 90). -/
def pushHead (j : Nat) (r : QRec) (s : State) : Option State :=
  let q := getQueue s j
  if q.onchip.length < 32 then some (modQueue j (fun q => { q with onchip := r :: q.onchip }) s)
  else (unspill j (q.onchip.getLastD {}) s).map (modQueue j (fun q => { q with onchip := r :: q.onchip.dropLast }))

/-- R200: the last bound member gives the task back to the head of its queue; it waits while that can take no record more. -/
def yieldTask (b : BoundTask) (s : State) : State :=
  let t := getTask s b.queue b.tid
  let s1 := leaveTask b (resumeHere s)
  if (otherMembers s t).isEmpty then (pushHead b.queue { t.rc with yielded := some b.tid } s1).getD (waitHere .stream s) else s1

/-- R200: `task.yield`. -/
def execTaskYield (s : State) : Host.Outcome State Fault Refusal :=
  done (match s.hart.bound with
    | none => trapWord cTaskState s
    | some b => yieldTask b s)

end Sys2Proof.Machine
end

