-- ==== Sys2Proof/Machine/Channel.lean ====
section
/-! DEFINITION. Host channels (R195, R207, R436 to R438). -/

namespace Sys2Proof.Machine

def getIn (s : State) (c : Nat) : Channel := Tab.get {} s.ingress c
def getOut (s : State) (c : Nat) : Channel := Tab.get {} s.egress c
def modIn (c : Nat) (f : Channel → Channel) (s : State) : State := { s with ingress := Tab.modify {} s.ingress c f }
def modOut (c : Nat) (f : Channel → Channel) (s : State) : State := { s with egress := Tab.modify {} s.egress c f }

/-- Fields of CTL (R436). -/
def Channel.en (c : Channel) : Bool := wbit c.ctl 63
def Channel.isBound (c : Channel) : Bool := wbit c.ctl 62
def Channel.queue (c : Channel) : Nat := wfld c.ctl 48 10
def Channel.owner (c : Channel) : Nat := wfld c.ctl 32 16

/-- A token enters with the next sequence number (R437). -/
def pushToken (v : BitVec 32) (c : Channel) : Channel :=
  { c with tokens := c.tokens ++ [(c.prod, v)], prod := c.prod + 1 }

/-- A token is posted: with IEN = 1 the host gets the channel's interrupt (R436). -/
def postToken (v : BitVec 32) (c : Channel) : Channel :=
  let d := pushToken v c
  if wbit c.ctl 61 then { d with irqs := d.irqs + 1 } else d

/-- The oldest token leaves. -/
def popToken (c : Channel) : Channel := { c with tokens := c.tokens.tail, cons := c.cons + 1 }

/-- The raise is refused: the channel is disabled or holds 64 tokens, or its OWNER is not its queue's `asid` (R437,
R195). -/
def raiseRefused (s : State) (c : Channel) : Bool :=
  !c.en || c.prod - c.cons = 64 || (c.isBound && c.owner != (getQueue s c.queue).qasid)

/-- The host raises a token on ingress channel c (R437). -/
def raiseToken (c : Nat) (v : Word) (s : State) : State :=
  if raiseRefused s (getIn s c) then modIn c (fun x => { x with refused := true }) s
  else modIn c (fun x => { pushToken (v.setWidth 32) x with refused := false }) s

/-- What a read of egress DATA returns: the oldest token with its number, or 0 (R437). -/
def tokenWord (c : Channel) : Word :=
  match c.tokens with
  | [] => 0
  | (n, v) :: _ => word (n.toNat * 2 ^ 32 + v.toNat)

/-- The launch at the head of a bound channel fails (R195). -/
def launchFails (c : Nat) (s : State) : State :=
  clusterIrq (clusterOfQueue (getIn s c).queue) 3 (word c) (modIn c (fun x => { x with lfault := true }) s)

/-- The token at the head of a bound channel is launched (R195). The controller reads the record as `task.post` reads one, but
R195 gives the page's memory type no limit: MT = 0 and 1 serve, MT = 2 fails (log 86). A walk that meets no memory fails too
(log 15). -/
def launch (c : Nat) (s : State) : State :=
  let ch := getIn s c
  match ch.tokens with
  | [] => s
  | (_, v) :: _ =>
    if !ch.isBound || ch.lfault || 640 ≤ ch.queue then s
    else
      let va := ch.rbase + word (128 * v.toNat)
      match checkCtl s (getQueue s ch.queue).ptb va 128 false { rd := true, mtMax := 1, window := false, align := 128 } with
      | .ok (.pa pa) mt _ =>
        let r := post ch.queue va (bytesPast mt s pa 128) s
        if r.2 = 0 then modIn c popToken r.1 else if r.2 = 3 then launchFails c r.1 else r.1
      | _ => launchFails c s

/-- Software clears LFAULT, which retries the token (R436). -/
def clearLfault (c : Nat) (s : State) : State :=
  if (getIn s c).lfault then launch c (modIn c (fun x => { x with lfault := false }) s) else s

/-- SKIP: the head token of a bound channel is consumed without a post (R436). -/
def skipToken (c : Nat) (s : State) : State :=
  modIn c (fun x =>
    let y := if x.isBound && !x.tokens.isEmpty then popToken x else x
    { y with lfault := false }) s

/-- The channel may not be used by the hart (R207). -/
def badChannel (s : State) (n : Word) (ch : Channel) : Bool :=
  decide (256 ≤ n.toNat) || ch.owner != wfld s.hart.asid 0 16

/-- R207: `ing.take`. -/
def execIngTake (d a : BitVec 5) (s : State) : Host.Outcome State Fault Refusal :=
  done (pureOnly true (reads [a] (fun t =>
    let n := getS t a
    let ch := getIn t n.toNat
    if badChannel t n ch || ch.isBound then trapWord cChannel t
    else if ch.tokens.isEmpty then waitHere .ingress t
    else setS d (tokenWord ch) (modIn n.toNat popToken (resumeHere t)))) s)

/-- R207: `egr.post`, a release. -/
def execEgrPost (d a b : BitVec 5) (s : State) : Host.Outcome State Fault Refusal :=
  done (pureOnly true (reads [a, b] (fun s0 =>
    let n := getS s0 a
    if badChannel s0 n (getOut s0 n.toNat) then trapWord cChannel s0
    else released (fun t =>
      let ch := getOut t n.toNat
      if 64 ≤ ch.tokens.length then waitHere .egress t
      else setS d (ch.prod.setWidth 64) (modOut n.toNat (postToken ((getS t b).setWidth 32)) (resumeHere t))) s0)) s)

end Sys2Proof.Machine
end

