-- ==== Sys2Proof/Machine/Command.lean ====
section
/-! DEFINITION. Gang words (R361) and the context commands of a cluster (R415, R416). -/

namespace Sys2Proof.Machine

/-! Gangs -/

/-- The contexts of seat n: on the harts of its core, and displaced. -/
def seatHolders (s : State) (n : Nat) : List Member :=
  ((range (n / 8 * 8) 8).filter (fun h => seatOf s h = n)).map Member.hart
    ++ ((heldFrames s (clusterOf n)).filter (fun f => memberSeat s (.frame (clusterOf n) f) = n)).map (Member.frame (clusterOf n))

/-- A hart whose gang may not change (R361), for one of its contexts. -/
def gangBusy (s : State) (n : Nat) : Bool :=
  (seatHolders s n).any (fun m =>
    let b := barrierOf s m
    (memberTask s m).isSome || b.arrived || !b.heldArrivals.isEmpty
      || (match m with
        | .hart h => (getHart s h).waitsFor .gwait || (getHart s h).waitsFor .gang
        | .frame _ _ => false))

/-- A write of GID to the gang word of hart i of cluster k (R361, R14). -/
def gangWrite (k i gid : Nat) (s : State) : State :=
  let n := 128 * k + i
  let s1 := modCluster k (fun c => { c with gid := Tab.set 0 c.gid i (gid % 32 + 1) }) s
  let all := gangOf s n ++ gangOf s1 n
  if decide (16 < (gangOf s1 n).length) || decide (16 < (gangOf s n).length) || all.any (gangBusy s)
      || (getCore s (coreOf n)).retired then
    modCluster k (fun c => { c with refused := Tab.set false c.refused i true }) s
  else
    all.foldl (fun t m => (seatHolders t m).foldl (fun u x => modBarrier x freshBarrier u) t)
      (modCluster k (fun c => { c with refused := Tab.set false c.refused i false }) s1)

/-! Commands -/

/-- The command stays: BUSY. -/
def cmdBusy (k : Nat) (v : Word) (s : State) : State := modCluster k (fun c => { c with cmd := setBit v 63 true }) s

def getFrame (s : State) (k f : Nat) : FrameSt := Tab.get {} (getCluster s k).frames f

/-- The hart has no more convoys or matrix slots to run (R415, Q). -/
def quiesced (h : Hart) : Bool := h.vq.isEmpty && h.mq.isEmpty

/-- DISPLACE: at once, or, when the hart is the one in hand or has to stop first, left BUSY (R415). -/
def cmdDisplace (k : Nat) (v : Word) (now : Bool) (s : State) : State :=
  let n := wfld v 8 11
  let h := getHart s n
  if clusterOf n ≠ k ∨ nHarts ≤ n ∨ h.status = .noContext ∨ idleTaker h = true then cmdEnd k 2 v s
  else match frameFor s n with
    | none => cmdEnd k 1 v s
    | some f =>
      if now && canStop h && (!wbit v 55 || quiesced h) then
        cmdEnd k 0 (word (putFld v.toNat 0 8 f)) (asHart n (displaceCur f .held false) s)
      else cmdBusy k v s

/-- HOLD (R415). -/
def cmdHold (k : Nat) (v : Word) (s : State) : State :=
  let f := wfld v 0 8
  if (getFrame s k f).use = .listed then
    cmdEnd k 0 v (modCluster k (fun c => { c with
      frames := Tab.modify {} c.frames f (fun x => { x with use := .held })
      resumeList := c.resumeList.filter (· != f) }) s)
  else cmdEnd k 2 v s

/-- The status of a RESUME (R415, R416). A TCORE that has been retired (R14) is none of R415's reasons: the answer is 0, and the
frame is listed for a core where it never resumes (DESIGN CHOICE, log 87). -/
def resumeStatus (s : State) (k f tcore : Nat) : Nat :=
  let w0 := frameWord s k f 0
  let core := fld w0 15 8; let n := 8 * core + fld w0 12 3
  let nreg := fld w0 47 7; let vlm := fld w0 23 17
  if tcore / 16 ≠ k ∨ ¬ (nreg = 8 ∨ nreg = 16 ∨ nreg = 32 ∨ nreg = 64)
      ∨ ¬ (2048 ≤ vlm ∧ vlm ≤ 65536 ∧ pow2Floor vlm = vlm) ∨ (1 < (gangOf s n).length ∧ tcore ≠ core) then 2
  else if fld w0 54 6 ≠ 0 ∧ !nbit w0 61 ∧ tcore ≠ core then 4
  else if vlm ≠ fld (frameWord s k f 8) 0 17 ∧ !nbit w0 62 then 3
  else 0

/-- RESUME: the frame is listed for TCORE (R415). -/
def cmdResume (k : Nat) (v : Word) (s : State) : State :=
  let f := wfld v 0 8
  if (getFrame s k f).use ≠ .held then cmdEnd k 2 v s
  else match resumeStatus s k f (wfld v 40 8) with
    | 0 => cmdEnd k 0 v (modCluster k (fun c => { c with
        frames := Tab.modify {} c.frames f (fun x => { x with use := .listed, target := some (wfld v 40 8) })
        resumeList := c.resumeList ++ [f] }) s)
    | st => cmdEnd k st v s

/-- The task that a frame's header names loses the frame's context; with no member left it is gone (R415). -/
def dropBinding (k f : Nat) (s : State) : State :=
  let w4 := frameWord s k f 32
  if nbit w4 63 then
    let j := fld w4 48 10; let tid := fld w4 0 16
    if (getTask s j tid).members.contains (.frame k f) then
      let s1 := modTask j tid (fun t => { t with members := t.members.filter (· != .frame k f) }) s
      if (getTask s1 j tid).members.isEmpty then endTask j tid s1 else s1
    else s
  else s

/-- FREE (R415). -/
def cmdFree (k : Nat) (v : Word) (s : State) : State :=
  let f := wfld v 0 8
  let fr := getFrame s k f
  if fr.use ≠ .held then cmdEnd k 2 v s
  else
    let s1 := dropBinding k f s
    let q := fr.home / 4
    cmdEnd k 0 v (modCluster k (fun c => { c with frames := Tab.set {} c.frames f {} })
      { s1 with quads := Tab.set 0 s1.quads q (rowsUsed s1 q - fr.rows) })

/-- The held frame whose context task TID of a queue is bound to. -/
def sourceFrame (s : State) (j tid : Nat) : Option (Nat × Nat) :=
  (getTask s j tid).members.findSome? (fun m => match m with
    | .frame k f => if (getFrame s k f).use = .held then some (k, f) else none
    | .hart _ => none)

/-- The frame as ADOPT finds it: its priority and core from what software has written, and, where it takes a task over, what
the source's image had no place for (log 71). -/
def adoptedFrame (s : State) (k f : Nat) (src : Option FrameSt) : FrameSt :=
  let w4 := frameWord s k f 32
  { use := .held
    prio := if nbit w4 63 then fld (frameWord s k f (0x200 + 8 * 0x27)) 2 3 else 0
    home := fld (frameWord s k f 0) 15 8
    queue := fld w4 48 10
    tid := fld w4 0 16
    bound := nbit w4 63
    inHandler := (src.map (·.inHandler)).getD false
    taking := (src.map (·.taking)).getD false
    conv := (src.map (·.conv)).getD {}
    saved := (src.map (·.saved)).getD {}
    shapes := (src.map (·.shapes)).getD []
    flags := (src.map (·.flags)).getD []
    owed := (src.map (·.owed)).getD []
    dones := (src.map (·.dones)).getD []
    seqs := (src.map (·.seqs)).getD []
    mqs := (src.map (·.mqs)).getD []
    opens := (src.map (·.opens)).getD []
    frozenAt := (src.map (·.frozenAt)).getD 0
    lefts := src.bind (·.lefts)
    fops := src.bind (·.fops)
    trem := src.bind (·.trem)
    since := (src.map (·.since)).getD s.order
    barrier := src.bind (·.barrier)
    seat := some ((src.bind (·.seat)).getD (fld (frameWord s k f 0) 12 11))
    stores := (src.map (·.stores)).getD []
    marks := (src.map (·.marks)).getD []
    condMarks := (src.map (·.condMarks)).getD [] }

/-- A held frame whose image holds the same context without a task: the same hart, queues and resume point. -/
def sameContext (s : State) (k f k' f' : Nat) : Bool :=
  (getFrame s k' f').use = .held && !(getFrame s k' f').bound && (k != k' || f != f')
    && fld (frameWord s k f 0) 12 11 = fld (frameWord s k' f' 0) 12 11 && frameWord s k f 16 = frameWord s k' f' 16
    && frameWord s k f 24 = frameWord s k' f' 24
    && getMem s (frameAddr s k f + 0x1000) (256 * fld (frameWord s k f 16) 24 6)
        = getMem s (frameAddr s k' f' + 0x1000) (256 * fld (frameWord s k f 16) 24 6)

/-- The frame of which an unbound image is a copy (log 71). -/
def copiedFrom (s : State) (k f : Nat) : Option FrameSt :=
  (range 0 10).findSome? (fun k' =>
    ((heldFrames s k').find? (fun f' => sameContext s k f k' f')).map (getFrame s k'))

/-- ADOPT (R415). -/
def cmdAdopt (k : Nat) (v : Word) (s : State) : State :=
  let f := wfld v 0 8
  let w4 := frameWord s k f 32
  let adopt (src : Option FrameSt) (t : State) : State :=
    modCluster k (fun c => { c with frames := Tab.set {} c.frames f (adoptedFrame s k f src) }) t
  if (getFrame s k f).use ≠ .free ∨ frameCount s k ≤ f then cmdEnd k 2 v s
  else if nbit w4 63 then
    match sourceFrame s (fld w4 48 10) (fld w4 0 16) with
    | none => cmdEnd k 2 v s
    | some (k', f') =>
      let s1 := moveMember (.frame k' f') (.frame k f) s
      let s2 := putBytesBy none (frameAddr s k' f' + 32) (toBytes (putFld (frameWord s k' f' 32) 63 1 0) 8) s1
      cmdEnd k 0 v (adopt (some (getFrame s k' f')) (modFrame k' f' (fun x => { x with bound := false }) s2))
  else cmdEnd k 0 v (adopt (copiedFrom s k f) s)

/-- A write of v to the command register of cluster k (R415); now: DISPLACE may act at once on any hart. -/
def command (k : Nat) (v : Word) (now : Nat → Bool) (s : State) : State :=
  let w := cmdKept v
  if wbit (getCluster s k).cmd 63 then s
  else match wfld v 56 4 with
    | 1 => cmdDisplace k w (now (wfld v 8 11)) s
    | 2 => cmdHold k w s
    | 3 => cmdResume k w s
    | 4 => cmdFree k w s
    | 5 => cmdAdopt k w s
    | _ => s

/-- A BUSY command is tried again between two convoys of its hart. -/
def retryDisplace (n : Nat) (s : State) : State :=
  if displacing s n then cmdDisplace (clusterOf n) (cmdKept (getCluster s (clusterOf n)).cmd) true s else s

end Sys2Proof.Machine
end

