-- ==== Sys2Proof/Machine/VFloat.lean ====
section
/-! DEFINITION. Floating-point vector instructions (R128, R129, R135, R136, R238 to R244). -/

namespace Sys2Proof.Machine

/-! The format word (R128) -/

def fmtA (w : Word) : Nat := wfld w 0 4
def fmtB (w : Word) : Nat := wfld w 4 4
def fmtD (w : Word) : Nat := wfld w 8 4
def fmtRnd (w : Word) : Nat := wfld w 12 3
def fmtSat (w : Word) : Bool := wbit w 15
def fmtFtzi (w : Word) : Bool := wbit w 16
def fmtFtzo (w : Word) : Bool := wbit w 17
def fmtBsa (w : Word) : Nat := wfld w 18 2
def fmtBsb (w : Word) : Nat := wfld w 20 2
def fmtBsd (w : Word) : Nat := wfld w 22 2
def fmtSreg (w : Word) : Nat := wfld w 24 6
def fmtSeed (w : Word) : Nat := wfld w 32 32

/-- The rounding that a format word and an SR index give (R130 to R134). -/
def rndOf (w : Word) (i : Nat) : Rnd :=
  { mode := fmtRnd w, sat := fmtSat w, ftzo := fmtFtzo w, u := srWord (fmtSeed w) i }

/-- `round_d(v, i)` (R163). -/
def roundD (w : Word) (v : FVal) (i : Nat) : Nat := roundTo (fmtD w) (rndOf w i) v

/-- Codes 0 to 3. -/
def isMain (c : Nat) : Bool := decide (c ≤ 3)

/-- What R129 refuses whatever the instruction: [31:30], and RND where it is read. -/
def badCommon (w : Word) (rnd : Bool) : Bool := wfld w 30 2 != 0 || (rnd && decide (5 < fmtRnd w))

/-! Operands -/

/-- A value of a source group, with FTZI (R134). -/
def srcVal (w : Word) (code : Nat) (s : State) (v i : Nat) : FVal :=
  decode code (srcElem s v i (fmtStore code)) (fmtFtzi w)

/-- Checks of a floating-point slot: the format, then the groups of sources and of the destination (R232, R233). -/
def fpCheck (bad : Word → Bool) (dst : Word → Option (Nat × Nat)) (src : Word → List (Nat × Nat)) (s : State) :
    Option (Nat × Word) :=
  let w := cap2 s
  firstTrap
    [badVtype s,
     badFormat (bad w) s,
     badOperand (s.hart.plane || (src w).any (fun v => !srcOk s v.1 v.2)
        || (match dst w with
            | some d => !dstOk s d.1 d.2 || (src w).any (fun v => !overlapOk s d.1 d.2 v.1 v.2)
            | none => false)) s]

/-- The registers that the destination takes. -/
def fpDest (dst : Word → Option (Nat × Nat)) (s : State) : List (Nat × Nat) :=
  match dst (cap2 s) with
  | some d => [(d.1, extent s d.2)]
  | none => []

/-- A floating-point slot that writes op(i) to elements of FD or of another width (R238). -/
def fpSlot (bad : Word → Bool) (d : Nat) (wd : Word → Nat) (src : Word → List (Nat × Nat)) (m : BitVec 3) (fs : BitVec 3)
    (op : Word → State → Nat → Nat) (s : State) : State :=
  vslot 0 0 (fmtReg s fs) (runSlot .elem
    (fpCheck bad (fun w => some (d, wd w)) src)
    (fpDest (fun w => some (d, wd w)))
    (fun t =>
      let w := cap2 t
      mapElems m.toNat d (wd w) (op w) (fun u i => (src w).any (fun v => srcPois u v.1 i v.2))
        (ringNote ((src w).map (·.1)) t))) s

/-! Binary and fused operations (R239) -/

/-- FA, FB and FD are 0 to 3. -/
def badBin (w : Word) : Bool := badCommon w true || !isMain (fmtA w) || !isMain (fmtB w) || !isMain (fmtD w)

def fpBin (f : Nat → FVal → FVal → FVal) (d a b : BitVec 6) (m fs : BitVec 3) : State → State :=
  fpSlot badBin d.toNat (fun w => fmtStore (fmtD w))
    (fun w => [(a.toNat, fmtStore (fmtA w)), (b.toNat, fmtStore (fmtB w))]) m fs
    (fun w s i => roundD w (f (fmtRnd w) (srcVal w (fmtA w) s a.toNat i) (srcVal w (fmtB w) s b.toNat i)) i)

/-- The fused forms: np and nd negate the product and the addend. -/
def fpFused (np nd : Bool) (d a b : BitVec 6) (m fs : BitVec 3) : State → State :=
  fpSlot badBin d.toNat (fun w => fmtStore (fmtD w))
    (fun w => [(a.toNat, fmtStore (fmtA w)), (b.toNat, fmtStore (fmtB w)), (d.toNat, fmtStore (fmtD w))]) m fs
    (fun w s i =>
      let p := fMul (srcVal w (fmtA w) s a.toNat i) (srcVal w (fmtB w) s b.toNat i)
      let c := srcVal w (fmtD w) s d.toNat i
      roundD w (fAdd (fmtRnd w) (if np then p.neg else p) (if nd then c.neg else c)) i)

/-! Minimum, maximum, sign and scale (R240) -/

/-- A subnormal encoding becomes the zero of its sign. -/
def flushBits (code : Nat) (on : Bool) (x : Nat) : Nat :=
  match fmtOf code with
  | some f => if on && isSubnormal f x then x - fld x 0 (f.bits - 1) else x
  | none => x

/-- The bits of `vfmin` (mx false) or `vfmax` for operands x and y of one format; -0 lies below +0. -/
def pickBits (mx : Bool) (code x y : Nat) : Nat :=
  match decode code x false, decode code y false with
  | .nan, .nan => (match fmtOf code with | some f => packNaN f | none => 0)
  | .nan, _ => y
  | _, .nan => x
  | a, b =>
    let less : Bool := match fCmp a b with
      | some c => decide (c < 0) || (c = 0 && a.isNeg && !b.isNeg)
      | none => false
    if less = mx then y else x

def badSame3 (w : Word) : Bool :=
  badCommon w false || !isMain (fmtA w) || fmtA w != fmtD w || fmtA w != fmtB w

def fpPick (mx : Bool) (d a b : BitVec 6) (m fs : BitVec 3) : State → State :=
  fpSlot badSame3 d.toNat (fun w => fmtStore (fmtD w))
    (fun w => [(a.toNat, fmtStore (fmtA w)), (b.toNat, fmtStore (fmtB w))]) m fs
    (fun w s i =>
      let c := fmtA w
      let x := flushBits c (fmtFtzi w) (srcElem s a.toNat i (fmtStore c))
      let y := flushBits c (fmtFtzi w) (srcElem s b.toNat i (fmtStore c))
      flushBits c (fmtFtzo w) (pickBits mx c x y))

def badSign (w : Word) : Bool := badCommon w false || !isMain (fmtA w) || fmtA w != fmtD w || !isMain (fmtB w)

/-- FB is INT8, INT16 or INT32. -/
def badScale (w : Word) : Bool :=
  badCommon w true || !isMain (fmtA w) || fmtA w != fmtD w || !(fmtB w = 9 || fmtB w = 11 || fmtB w = 12)

/-- a × 2^n, exactly; a scaling beyond ±8192 rounds as one of 8192 does in every format. -/
def scaleBy (v : FVal) (n : Int) : FVal := fScale v (max (-8192) (min 8192 n))

/-! Unary operations (R241) -/

def badUn (w : Word) : Bool := badCommon w true || !isMain (fmtA w) || !isMain (fmtD w)
def badUnSame (rnd : Bool) (w : Word) : Bool := badCommon w rnd || !isMain (fmtA w) || fmtA w != fmtD w

def fpUn (f : FVal → FVal) (d a : BitVec 6) (m fs : BitVec 3) : State → State :=
  fpSlot badUn d.toNat (fun w => fmtStore (fmtD w)) (fun w => [(a.toNat, fmtStore (fmtA w))]) m fs
    (fun w s i => roundD w (f (srcVal w (fmtA w) s a.toNat i)) i)

/-- Bits of the sign. -/
def fpBits (f : Nat → Nat → Nat) (d a : BitVec 6) (m fs : BitVec 3) : State → State :=
  fpSlot (badUnSame false) d.toNat (fun w => fmtStore (fmtD w)) (fun w => [(a.toNat, fmtStore (fmtA w))]) m fs
    (fun w s i => f (fmtBits (fmtA w)) (srcElem s a.toNat i (fmtStore (fmtA w))))

/-- 1 / sqrt a to 270 bits or more, with a sticky lowest bit. -/
def fRsqrt : FVal → FVal
  | .nan => .nan
  | .inf s => if s then .nan else .fin false 0 0
  | .fin s m e =>
    if m = 0 then .inf s
    else if s then .nan
    else
      let odd := e % 2 != 0
      let m' := if odd then 2 * m else m
      let e' := if odd then e - 1 else e
      let r := isqrt (2 ^ 640 / m')
      .fin false (2 * r + b2n (r * r * m' != 2 ^ 640)) (-(e' / 2) - 321)

/-- The natural logarithm of 2 in units of 2^-448, from the series of 1 / (k 2^k). -/
def ln2Fix : Nat := loop (fun k acc => acc + 2 ^ 448 / ((k + 1) * 2 ^ (k + 1))) 0 448 0

/-- The terms x^k / k! in units of 2^-448, those of odd k apart. -/
def expTerms (x : Nat) : Nat × Nat :=
  let r := loop (fun k st =>
    let t := st.1 * x / ((k + 1) * 2 ^ 448)
    if k % 2 = 0 then (t, st.2.1, st.2.2 + t) else (t, st.2.1 + t, st.2.2)) 0 110 (2 ^ 448, 2 ^ 448, 0)
  (r.2.1, r.2.2)

/-- 2^a for |a| of at most 1/2, to 320 bits with a sticky lowest bit: 2^a is irrational unless a = 0. -/
def fExp2 : FVal → FVal
  | .nan => .nan
  | .inf s => if s then .fin false 0 0 else .inf false
  | .fin s m e =>
    if m = 0 then .fin false 1 0
    else if (match fCmp (.fin false m e) (.fin false 1 (-1)) with | some c => decide (0 < c) | none => true) then .nan
    else
      let r := expTerms (m * ln2Fix / 2 ^ (-e).toNat)
      let y := if s then r.1 - r.2 - 2 ^ 64 else r.1 + r.2
      .fin false (2 * (y / 2 ^ 128) + 1) (-321)

/-- a rounded to an integral value under RND (R241). -/
def roundIntegral (w : Word) (v : FVal) (i : Nat) : FVal :=
  match v with
  | .fin s m e => .fin s (roundMag (rndOf w i) s m e 0) 0
  | v => v

/-- The class of an encoding, one-hot (R243). -/
def classOf (code x : Nat) : Nat :=
  match fmtOf code with
  | none => 0
  | some f => match decodeF f x with
    | .nan => 256
    | .inf s => if s then 1 else 128
    | .fin s m _ =>
      if m = 0 then (if s then 8 else 16)
      else if isSubnormal f x then (if s then 4 else 32)
      else if s then 2 else 64

/-! Conversion (R242, R135, R136) -/

/-- emax_d of R136. -/
def emaxOf (code : Nat) : Int :=
  match code with
  | 4 => 15 | 5 => 8 | 6 => 4 | 7 => 2 | 8 => 2 | 9 => 6 | 10 => 7 | 11 => 14 | 13 => 2 | 14 => 3
  | _ => 0

def isIntCode (c : Nat) : Bool := decide (9 ≤ c)

/-- R242: what `vfcvt` does not accept. -/
def badCvt (vnreg : Nat) (w : Word) : Bool :=
  badCommon w true || fmtA w = 15 || fmtD w = 15 || (isIntCode (fmtA w) && isIntCode (fmtD w))
    || decide (1 < fmtBsa w) || decide (1 < fmtBsd w) || fmtBsb w != 0
    || (fmtBsd w = 1 && decide (16 ≤ fmtBits (fmtD w)))
    || (fmtBsa w = 1 && decide (vnreg ≤ fmtSreg w)) || (fmtBsd w = 1 && decide (vnreg ≤ fmtSreg w + 2))

/-- The scale of block j in register r (R135), a source like any other (R76). -/
def scaleVal (s : State) (r j : Nat) : FVal := e8m0 (srcElem s r j 8)

/-- The exact value that `vfcvt` converts. -/
def cvtVal (w : Word) (s : State) (a i : Nat) : FVal :=
  let x := srcVal w (fmtA w) s a i
  if fmtBsa w = 1 then fMul x (scaleVal s (fmtSreg w) (i / 256)) else x

/-- The scale byte that R136 gives a block whose exact results are vs. -/
def blockScale (code : Nat) (vs : List FVal) : Nat :=
  let top := vs.foldl (fun (b : Option Int) v => match v with
    | .fin _ m e => if m = 0 then b else some (match b with
        | none => fLog2 (.fin false m e)
        | some k => max k (fLog2 (.fin false m e)))
    | _ => b) none
  match top with
  | none => 127
  | some l => (min 254 (max 0 (l - emaxOf code + 127))).toNat

/-- One block of 256 under BSD = 1: its scale, then its elements from first up to lim. Its exact results are formed before
anything is written. -/
def cvtBlock (w : Word) (m d a first lim n j : Nat) (s : State) : State :=
  let idx := (range (256 * j) (min n (256 * j + 256) - 256 * j)).filter (fun i => governs s m i)
  if idx.isEmpty then s
  else
    let vals := idx.map (fun i => (i, cvtVal w s a i,
      governPois s m i || srcPois s a i (fmtStore (fmtA w))
        || (fmtBsa w = 1 && srcPois s (fmtSreg w) (i / 256) 8)))
    let e := blockScale (fmtD w) (vals.map (·.2.1))
    let r : Rnd := { rndOf w 0 with sat := true }
    let pois := vals.any (·.2.2)
    let s1 := vals.foldl (fun t v =>
      if first ≤ v.1 ∧ v.1 < lim then
        setElem d v.1 (fmtStore (fmtD w))
          (roundTo (fmtD w) { r with u := srWord (fmtSeed w) v.1 } (fScale v.2.1 (127 - (e : Int)))) pois t
      else t) s
    if idx.all (fun i => decide (i < lim)) then setElem (fmtSreg w + 2) j 8 e pois s1 else s1

/-- `vfcvt` under BSD = 1 (R136). -/
def cvtBlocks (w : Word) (m d a : Nat) (s : State) : State :=
  let n := vlN s
  let lim := limit s n
  let first := firstElem s
  loop (cvtBlock w m d a first lim n) (first / 256) (ceilDiv lim 256 - first / 256)
    (noteUndo (fmtSreg w + 2) 8 1 256 (noteUndo d (fmtStore (fmtD w)) 1 1 s))

/-- Overlap of two groups given by base, extent and width (R233). -/
def clash (d ed wd v ev wv : Nat) : Bool := overlaps d ed v ev && !(d = v && ed = ev && wd = wv)

/-- The checks of `vfcvt`: scale registers count as 8-bit operands of extent 1 (R233, R136). -/
def cvtCheck (d a : Nat) (s : State) : Option (Nat × Word) :=
  let w := cap2 s
  let wd := fmtStore (fmtD w); let wa := fmtStore (fmtA w)
  let sa := fmtSreg w; let sd := sa + 2
  let ed := extent s wd
  firstTrap
    [badVtype s,
     badFormat (badCvt s.hart.vnreg w) s,
     badOperand (s.hart.plane || !srcOk s a wa || !dstOk s d wd || !overlapOk s d wd a wa
        || (fmtBsa w = 1 && (!ringOkSrc s sa 1 || clash d ed wd sa 1 8))
        || (fmtBsd w = 1 && (inRing s sd 1 || overlaps d ed sd 1 || clash sd 1 8 a (extent s wa) wa))) s]

def cvtDest (d : Nat) (s : State) : List (Nat × Nat) :=
  let w := cap2 s
  (d, extent s (fmtStore (fmtD w))) :: (if fmtBsd w = 1 then [(fmtSreg w + 2, 1)] else [])

/-- R242: `vfcvt`. -/
def cvtRun (m d a : Nat) (s : State) : State :=
  let w := cap2 s
  let s1 := ringNote (if fmtBsa w = 1 then [a, fmtSreg w] else [a]) s
  if fmtBsd w = 1 then cvtBlocks w m d a s1
  else
    mapElems m d (fmtStore (fmtD w)) (fun t i => roundD w (cvtVal w t a i) i)
      (fun t i => srcPois t a i (fmtStore (fmtA w)) || (fmtBsa w = 1 && srcPois t (fmtSreg w) (i / 256) 8)) s1

/-! Compares (R244) -/

/-- cc of a comparison: eq, ne, lt, le, gt, ge. -/
def ccInt (cc : Nat) (c : Int) : Bool :=
  match cc with
  | 0 => c = 0
  | 1 => c != 0
  | 2 => decide (c < 0)
  | 3 => decide (c ≤ 0)
  | 4 => decide (0 < c)
  | _ => decide (0 ≤ c)

/-- A NaN makes every condition false but ne. -/
def ccFloat (cc : Nat) (a b : FVal) : Bool :=
  match fCmp a b with
  | some c => ccInt cc c
  | none => cc = 1

def badCmp (w : Word) : Bool := badCommon w false || !isMain (fmtA w) || !isMain (fmtB w)

/-! The instructions -/

/-- R239: a + b. -/
def execVfadd (d a b : BitVec 6) (m f : BitVec 3) (s : State) : Host.Outcome State Fault Refusal := done (fpBin fAdd d a b m f s)

/-- R239: a - b. -/
def execVfsub (d a b : BitVec 6) (m f : BitVec 3) (s : State) : Host.Outcome State Fault Refusal := done (fpBin fSub d a b m f s)

/-- R239: a × b. -/
def execVfmul (d a b : BitVec 6) (m f : BitVec 3) (s : State) : Host.Outcome State Fault Refusal :=
  done (fpBin (fun _ => fMul) d a b m f s)

/-- R239: a / b. -/
def execVfdiv (d a b : BitVec 6) (m f : BitVec 3) (s : State) : Host.Outcome State Fault Refusal :=
  done (fpBin (fun _ => fDiv) d a b m f s)

/-- R239: a × b + d. -/
def execVfmacc (d a b : BitVec 6) (m f : BitVec 3) (s : State) : Host.Outcome State Fault Refusal :=
  done (fpFused false false d a b m f s)

/-- R239: -(a × b) - d. -/
def execVfnmacc (d a b : BitVec 6) (m f : BitVec 3) (s : State) : Host.Outcome State Fault Refusal :=
  done (fpFused true true d a b m f s)

/-- R239: a × b - d. -/
def execVfmsac (d a b : BitVec 6) (m f : BitVec 3) (s : State) : Host.Outcome State Fault Refusal :=
  done (fpFused false true d a b m f s)

/-- R239: -(a × b) + d. -/
def execVfnmsac (d a b : BitVec 6) (m f : BitVec 3) (s : State) : Host.Outcome State Fault Refusal :=
  done (fpFused true false d a b m f s)

/-- R240: the lesser. -/
def execVfmin (d a b : BitVec 6) (m f : BitVec 3) (s : State) : Host.Outcome State Fault Refusal := done (fpPick false d a b m f s)

/-- R240: the greater. -/
def execVfmax (d a b : BitVec 6) (m f : BitVec 3) (s : State) : Host.Outcome State Fault Refusal := done (fpPick true d a b m f s)

/-- R240: a with the sign of b. -/
def execVfcopysign (d a b : BitVec 6) (m f : BitVec 3) (s : State) : Host.Outcome State Fault Refusal :=
  done (fpSlot badSign d.toNat (fun w => fmtStore (fmtD w))
    (fun w => [(a.toNat, fmtStore (fmtA w)), (b.toNat, fmtStore (fmtB w))]) m f
    (fun w t i =>
      putFld (srcElem t a.toNat i (fmtStore (fmtA w))) (fmtBits (fmtA w) - 1) 1
        (fld (srcElem t b.toNat i (fmtStore (fmtB w))) (fmtBits (fmtB w) - 1) 1)) s)

/-- R240: a × 2^n. -/
def execVfscale (d a b : BitVec 6) (m f : BitVec 3) (s : State) : Host.Outcome State Fault Refusal :=
  done (fpSlot badScale d.toNat (fun w => fmtStore (fmtD w))
    (fun w => [(a.toNat, fmtStore (fmtA w)), (b.toNat, fmtStore (fmtB w))]) m f
    (fun w t i =>
      roundD w (scaleBy (srcVal w (fmtA w) t a.toNat i) (sext (srcElem t b.toNat i (fmtStore (fmtB w))) (fmtBits (fmtB w)))) i) s)

/-- R241: the square root. -/
def execVfsqrt (d a : BitVec 6) (m f : BitVec 3) (s : State) : Host.Outcome State Fault Refusal := done (fpUn fSqrt d a m f s)

/-- R241: the sign bit cleared. -/
def execVfabs (d a : BitVec 6) (m f : BitVec 3) (s : State) : Host.Outcome State Fault Refusal :=
  done (fpBits (fun n x => x % 2 ^ (n - 1)) d a m f s)

/-- R241: the sign bit inverted. -/
def execVfneg (d a : BitVec 6) (m f : BitVec 3) (s : State) : Host.Outcome State Fault Refusal :=
  done (fpBits (fun n x => Nat.xor x (2 ^ (n - 1))) d a m f s)

/-- R242: conversion between formats. -/
def execVfcvt (d a : BitVec 6) (m f : BitVec 3) (s : State) : Host.Outcome State Fault Refusal :=
  done (vslot 0 0 (fmtReg s f)
    (runSlot .elem (cvtCheck d.toNat a.toNat) (cvtDest d.toNat) (cvtRun m.toNat d.toNat a.toNat)) s)

/-- R241: rounding to an integral value. -/
def execVfround (d a : BitVec 6) (m f : BitVec 3) (s : State) : Host.Outcome State Fault Refusal :=
  done (fpSlot (badUnSame true) d.toNat (fun w => fmtStore (fmtD w)) (fun w => [(a.toNat, fmtStore (fmtA w))]) m f
    (fun w t i => roundTo (fmtD w) {} (roundIntegral w (srcVal w (fmtA w) t a.toNat i) i)) s)

/-- R241: 2^a. -/
def execVfexp2f (d a : BitVec 6) (m f : BitVec 3) (s : State) : Host.Outcome State Fault Refusal := done (fpUn fExp2 d a m f s)

/-- R241: 1 / a. -/
def execVfrecip (d a : BitVec 6) (m f : BitVec 3) (s : State) : Host.Outcome State Fault Refusal :=
  done (fpUn (fDiv (.fin false 1 0)) d a m f s)

/-- R241: 1 / sqrt a. -/
def execVfrsqrt (d a : BitVec 6) (m f : BitVec 3) (s : State) : Host.Outcome State Fault Refusal := done (fpUn fRsqrt d a m f s)

/-- R243: the class of a, as an integer element of a's width. -/
def execVfclass (d a : BitVec 6) (m f : BitVec 3) (s : State) : Host.Outcome State Fault Refusal :=
  done (fpSlot (fun w => badCommon w false || !isMain (fmtA w)) d.toNat (fun w => fmtStore (fmtA w))
    (fun w => [(a.toNat, fmtStore (fmtA w))]) m f
    (fun w t i => classOf (fmtA w) (srcElem t a.toNat i (fmtStore (fmtA w)))) s)

/-- R244: a floating-point comparison into a mask. -/
def execVcmpF (c d : BitVec 3) (a b : BitVec 6) (m f : BitVec 3) (s : State) : Host.Outcome State Fault Refusal :=
  done (vslot 0 0 (fmtReg s f) (runSlot .elem
    (fpCheck badCmp (fun _ => none) (fun w => [(a.toNat, fmtStore (fmtA w)), (b.toNat, fmtStore (fmtB w))]))
    (fun _ => [])
    (fun t =>
      let w := cap2 t
      mapBits m.toNat d.toNat
        (fun u i => ccFloat c.toNat (srcVal w (fmtA w) u a.toNat i) (srcVal w (fmtB w) u b.toNat i))
        (fun u i => srcPois u a.toNat i (fmtStore (fmtA w)) || srcPois u b.toNat i (fmtStore (fmtB w)))
        (ringNote [a.toNat, b.toNat] t))) s)

/-- An integer comparison into a mask. -/
def cmpInt (sg : Bool) (c d : BitVec 3) (a b : BitVec 6) (m : BitVec 3) : State → State :=
  vslot 0 0 0 (runSlot .elem
    (fun s => firstTrap
      [badVtype s, badOperand (s.hart.plane || !srcOk s a.toNat s.hart.sew || !srcOk s b.toNat s.hart.sew) s])
    (fun _ => [])
    (fun t =>
      let w := t.hart.sew
      mapBits m.toNat d.toNat
        (fun u i =>
          let x := srcElem u a.toNat i w; let y := srcElem u b.toNat i w
          ccInt c.toNat (if sg then sext x w - sext y w else (x : Int) - y))
        (fun u i => srcPois u a.toNat i w || srcPois u b.toNat i w)
        (ringNote [a.toNat, b.toNat] t)))

/-- R244: signed. -/
def execVcmpI (c d : BitVec 3) (a b : BitVec 6) (m : BitVec 3) (s : State) : Host.Outcome State Fault Refusal :=
  done (cmpInt true c d a b m s)

/-- R244: unsigned. -/
def execVcmpN (c d : BitVec 3) (a b : BitVec 6) (m : BitVec 3) (s : State) : Host.Outcome State Fault Refusal :=
  done (cmpInt false c d a b m s)

end Sys2Proof.Machine
end

