-- ==== Sys2Proof/Machine/VMask.lean ====
section
/-! DEFINITION. Mask instructions (R113, R177, R245, R246), packing (R247) and permutes (R248, R249). -/

namespace Sys2Proof.Machine

/-! Mask instructions -/

/-- Elements that one mask bit governs (R113). -/
def maskUnit (s : State) : Nat := if s.hart.plane then 8 else 1

/-- Mask bits below `vl` (R231). -/
def maskCount (s : State) : Nat := ceilDiv (vlN s) (maskUnit s)

/-- Bit-wise writes of mask register d. Under the plane width progress counts elements, eight to a bit. -/
def maskRun (m d : Nat) (op : State → Nat → Bool) (pois : State → Nat → Bool) (s : State) : State :=
  let lo := firstElem s / maskUnit s
  let hi := match s.hart.iss.bound with
    | none => maskCount s
    | some b => min (b / maskUnit s) (maskCount s)
  overElems m lo hi (fun i t => setMask d i (op t i) (governPois t m i || pois t i) t)
    (noteUndo (64 + d) 1 1 (maskUnit s) s)

/-- `mand`, `mor`, `mxor`, `mandn` (R245). -/
def maskOp (f : Bool → Bool → Bool) (d a b m : BitVec 3) : State → State :=
  vslot 0 0 0 (runSlot .elem (fun s => firstTrap [badVtype s]) (fun _ => [])
    (maskRun m.toNat d.toNat (fun t i => f (maskBit t a.toNat i) (maskBit t b.toNat i))
      (fun t i => maskPois t a.toNat i || maskPois t b.toNat i)))

/-- The register field of a delivered value's mark: 0x8000_0000_0000_0000 + 256 × f + r (R39). -/
def markOf (f r : Nat) : Word := word (2 ^ 63 + 256 * f + r)

/-- The mark of a value computed from masks a and m over n bits. -/
def maskMark (s : State) (a m n : Nat) : Word :=
  if (range 0 n).any (maskPois s a) then markOf 1 a
  else if (range 0 n).any (governPois s m) then markOf 1 m
  else 0

/-- A value for a scalar register, or a condition for the BQ when it names s0 (R177, R246). -/
def countSlot (f : State → Nat → Word × Bool) (d : BitVec 5) (a m : BitVec 3) : State → State :=
  vslot 0 0 0 (runSlot .whole (fun s => firstTrap [badVtype s]) (fun _ => [])
    (fun s =>
      let n := maskCount s
      let r := f s n
      let p := maskMark s a.toNat m.toNat n
      resultWhole (if d = 0 then .cond r.2 p else .reg d.toNat r.1 p) s))

/-- R245: ma and mb. -/
def execMand (d a b m : BitVec 3) (s : State) : Host.Outcome State Fault Refusal := done (maskOp (fun x y => x && y) d a b m s)

/-- R245: ma or mb. -/
def execMor (d a b m : BitVec 3) (s : State) : Host.Outcome State Fault Refusal := done (maskOp (fun x y => x || y) d a b m s)

/-- R245: ma xor mb. -/
def execMxor (d a b m : BitVec 3) (s : State) : Host.Outcome State Fault Refusal := done (maskOp (fun x y => x != y) d a b m s)

/-- R245: ma and not mb. -/
def execMandn (d a b m : BitVec 3) (s : State) : Host.Outcome State Fault Refusal := done (maskOp (fun x y => x && !y) d a b m s)

/-- R245: 1. -/
def execMset (d m : BitVec 3) (s : State) : Host.Outcome State Fault Refusal :=
  done (vslot 0 0 0 (runSlot .elem (fun t => firstTrap [badVtype t]) (fun _ => [])
    (maskRun m.toNat d.toNat (fun _ _ => true) (fun _ _ => false))) s)

/-- R246: the number of active set bits. -/
def execMpopc (d : BitVec 5) (a m : BitVec 3) (s : State) : Host.Outcome State Fault Refusal :=
  done (countSlot (fun t n =>
    let c := ((range 0 n).filter (fun i => governs t m.toNat i && maskBit t a.toNat i)).length
    (word c, c != 0)) d a m s)

/-- R246: the lowest active set bit. -/
def execMfirst (d : BitVec 5) (a m : BitVec 3) (s : State) : Host.Outcome State Fault Refusal :=
  done (countSlot (fun t n =>
    match findFrom (fun i => governs t m.toNat i && maskBit t a.toNat i) 0 n with
    | some i => (word i, true)
    | none => (0xFFFFFFFFFFFFFFFF, false)) d a m s)

/-! Packing (R247) -/

/-- Set bits of mask m below i. -/
def countBelow (s : State) (m i : Nat) : Nat := popcount (getM s m).toNat i

/-- Some mask word that a count below or at i reads is poisoned. -/
def countPois (s : State) (m i : Nat) : Bool :=
  if s.hart.mpois.isEmpty then false else (range 0 (i / 64 + 1)).any (fun k => Tab.get false s.hart.mpois (m * 128 + k))

/-- Checks of an instruction whose operands all have sew bits; apart: d must be disjoint from these sources. -/
def sewCheck (d : Option Nat) (src apart : List Nat) (s : State) : Option (Nat × Word) :=
  let w := s.hart.sew
  firstTrap
    [badVtype s,
     badOperand (s.hart.plane || src.any (fun v => !srcOk s v w)
        || (match d with
            | some v => !dstOk s v w || src.any (fun a => !overlapOk s v w a w) || apart.any (fun a => !disjoint s v w a w)
            | none => false)) s]

/-- An element-wise slot with a destination and sources of sew bits. -/
def sewSlot (d : Nat) (src apart : List Nat) (act : State → State) : State → State :=
  runSlot .elem (sewCheck (some d) src apart) (fun s => [(d, extent s s.hart.sew)]) (fun s => act (ringNote src s))

/-- What `vcompress` writes, packed under mask register b as it is (R247). -/
def notePack (d w b : Nat) (s : State) : State :=
  let p := firstElem s
  updIss (fun i => { i with undo := i.undo ++ [{ slot := i.act.slot, v := d, w := w, first := p, pack := some (getM s b).toNat }] }) s

/-- R247: `vcompress`; progress counts source elements. -/
def compressRun (d a b : Nat) (s : State) : State :=
  let w := s.hart.sew
  overElems 0 (firstElem s) (limit s (vlN s)) (fun i t =>
    if maskBit t b i then setElem d (countBelow t b i) w (srcElem t a i w) (countPois t b i || srcPois t a i w) t else t)
    (notePack d w b s)

/-- R247: `vexpand`. -/
def expandRun (d a b : Nat) (s : State) : State :=
  let w := s.hart.sew
  overElems 0 (firstElem s) (limit s (vlN s)) (fun i t =>
    if maskBit t b i then
      setElem d i w (srcElem t a (countBelow t b i) w) (countPois t b i || srcPois t a (countBelow t b i) w) t
    else t) (noteUndo d w 1 1 s)

/-- R247: the elements of va at set bits, packed. -/
def execVcompress (d a : BitVec 6) (b : BitVec 3) (s : State) : Host.Outcome State Fault Refusal :=
  done (vslot 0 0 0 (sewSlot d.toNat [a.toNat] [a.toNat] (compressRun d.toNat a.toNat b.toNat)) s)

/-- R247: packed elements spread to the set bits. -/
def execVexpand (d a : BitVec 6) (b : BitVec 3) (s : State) : Host.Outcome State Fault Refusal :=
  done (vslot 0 0 0 (sewSlot d.toNat [a.toNat] [a.toNat] (expandRun d.toNat a.toNat b.toNat)) s)

/-- R247: set bits below each element. -/
def execViota (d : BitVec 6) (a m : BitVec 3) (s : State) : Host.Outcome State Fault Refusal :=
  done (vslot 0 0 0 (sewSlot d.toNat [] [] (fun t =>
    mapElems m.toNat d.toNat t.hart.sew (fun u i => countBelow u a.toNat i % 2 ^ t.hart.sew)
      (fun u i => decide (0 < i) && countPois u a.toNat (i - 1)) t)) s)

/-- R247: each element's own index. -/
def execVid (d : BitVec 6) (m : BitVec 3) (s : State) : Host.Outcome State Fault Refusal :=
  done (vslot 0 0 0 (sewSlot d.toNat [] [] (fun t =>
    mapElems m.toNat d.toNat t.hart.sew (fun _ i => i % 2 ^ t.hart.sew) (fun _ _ => false) t)) s)

/-! Permutes (R248, R249) -/

/-- C of R248. -/
def capacity (s : State) : Nat := s.hart.grp * s.hart.vlmax / s.hart.sew

/-- va[j], or 0 at or beyond C. -/
def pick (s : State) (a j : Nat) : Nat := if j < capacity s then srcElem s a j s.hart.sew else 0
def pickPois (s : State) (a j : Nat) : Bool := j < capacity s && srcPois s a j s.hart.sew

/-- R248: `vgather`; its destination is disjoint from va, and may be vb. -/
def execVgather (d a b : BitVec 6) (m : BitVec 3) (s : State) : Host.Outcome State Fault Refusal :=
  done (vslot 0 0 0 (sewSlot d.toNat [a.toNat, b.toNat] [a.toNat] (fun t =>
    let w := t.hart.sew
    mapElems m.toNat d.toNat w (fun u i => pick u a.toNat (srcElem u b.toNat i w))
      (fun u i => srcPois u b.toNat i w || pickPois u a.toNat (srcElem u b.toNat i w)) t)) s)

/-- R248: `vslideup`; elements below sx are unchanged. -/
def slideUpRun (d a m n : Nat) (s : State) : State :=
  let w := s.hart.sew
  overElems m (firstElem s) (limit s (vlN s)) (fun i t =>
    if n ≤ i then setElem d i w (srcElem t a (i - n) w) (governPois t m i || srcPois t a (i - n) w) t else t)
    (noteUndo d w 1 1 s)

/-- R248: `vslideup`. -/
def execVslideup (d a : BitVec 6) (b : BitVec 5) (m : BitVec 3) (s : State) : Host.Outcome State Fault Refusal :=
  done (vslot 0 (getS s b) 0
    (sewSlot d.toNat [a.toNat] [a.toNat] (fun t => slideUpRun d.toNat a.toNat m.toNat (cap1 t).toNat t)) s)

/-- R248: `vslidedown`. -/
def execVslidedown (d a : BitVec 6) (b : BitVec 5) (m : BitVec 3) (s : State) : Host.Outcome State Fault Refusal :=
  done (vslot 0 (getS s b) 0 (sewSlot d.toNat [a.toNat] [a.toNat] (fun t =>
    mapElems m.toNat d.toNat t.hart.sew (fun u i => pick u a.toNat (i + (cap1 t).toNat))
      (fun u i => pickPois u a.toNat (i + (cap1 t).toNat)) t)) s)

/-- R248: `vbcast`. -/
def execVbcast (d : BitVec 6) (b : BitVec 5) (m : BitVec 3) (s : State) : Host.Outcome State Fault Refusal :=
  done (vslot 0 (getS s b) 0 (sewSlot d.toNat [] [] (fun t =>
    mapElems m.toNat d.toNat t.hart.sew (fun _ _ => (cap1 t).toNat % 2 ^ t.hart.sew) (fun _ _ => false) t)) s)

/-- The mark of an element delivered to a scalar register (R39). -/
def elemMark (s : State) (v i w : Nat) : Word :=
  if srcPois s v i w then markOf 0 (ringSrc s v + i * w / s.hart.vlmax) else 0

/-- R248: `vmvx`, an element to a scalar register. -/
def execVmvx (d : BitVec 5) (a : BitVec 6) (b : BitVec 5) (s : State) : Host.Outcome State Fault Refusal :=
  done (vslot 0 (getS s b) 0
    (runSlot .whole (sewCheck none [a.toNat] []) (fun _ => []) (fun t =>
      let w := t.hart.sew
      let j := (cap1 t).toNat
      let t1 := ringNote [a.toNat] t
      resultWhole (if j < capacity t then .reg d.toNat (wordI (sext (srcElem t a.toNat j w) w)) (elemMark t a.toNat j w)
        else .reg d.toNat 0 0) t1)) s)

/-- R248: `vmvs`, a scalar to element 0. -/
def vmvsRun (d m : Nat) (s : State) : State :=
  let w := s.hart.sew
  overElems m (firstElem s) (min 1 (limit s (vlN s)))
    (fun i t => setElem d i w ((cap1 s).toNat % 2 ^ w) (governPois t m i) t) (noteUndo d w 1 1 s)

/-- R248: `vmvs`. -/
def execVmvs (d : BitVec 6) (b : BitVec 5) (m : BitVec 3) (s : State) : Host.Outcome State Fault Refusal :=
  done (vslot 0 (getS s b) 0 (sewSlot d.toNat [] [] (vmvsRun d.toNat m.toNat)) s)

/-- R248: `vmv`. -/
def execVmv (d a : BitVec 6) (m : BitVec 3) (s : State) : Host.Outcome State Fault Refusal :=
  done (vslot 0 0 0 (sewSlot d.toNat [a.toNat] [] (fun t =>
    mapElems m.toNat d.toNat t.hart.sew (fun u i => srcElem u a.toNat i t.hart.sew)
      (fun u i => srcPois u a.toNat i t.hart.sew) t)) s)

/-- R248: `vmerge`; the mask chooses, and governs nothing. -/
def execVmerge (d a b : BitVec 6) (m : BitVec 3) (s : State) : Host.Outcome State Fault Refusal :=
  done (vslot 0 0 0 (sewSlot d.toNat [a.toNat, b.toNat] [] (fun t =>
    let w := t.hart.sew
    mapElems 0 d.toNat w (fun u i => if governs u m.toNat i then srcElem u a.toNat i w else srcElem u b.toNat i w)
      (fun u i => governPois u m.toNat i
        || (if governs u m.toNat i then srcPois u a.toNat i w else srcPois u b.toNat i w)) t)) s)

end Sys2Proof.Machine
end

