-- ==== Sys2Proof/Machine/FabRun.lean ====
section
/-! DEFINITION. How tokens move in a fabric binding (R91 to R95, R99 to R102, R279, R283 to R287, R295, R446): rounds in which
every edge, tile and node acts at most once. Timing changes no value (R287), so a round stands for some clocks. -/

namespace Sys2Proof.Machine

/-- An invocation at work: the state around it, the binding's tokens, the image, the operands of the `fop`, and what has
come of it. inject: inbound edges and the vd edge take part (not while draining). val: what a load has read. kept: what a part of it
would do has to wait, or, while draining, cannot be done. -/
structure Fab where
  st : State
  run : FabRun
  img : List Word
  mask : Nat := 0
  va : Nat := 0
  vb : Nat := 0
  vd : Nat := 0
  room : Nat := 0
  inject : Bool := true
  seed : Nat := 0
  round : Nat := 0
  discard : Nat := 0
  fault : Option (Nat × Word) := none
  more : Bool := false
  moved : Bool := false
  was : Bool := true
  val : Nat := 0
  kept : Bool := false

/-! Arcs (R286) -/

def Fab.arc (g : Fab) (i : Nat) : Option Token := Tab.get none g.run.arcs i

def Fab.setArc (i : Nat) (t : Option Token) (g : Fab) : Fab :=
  { g with run := { g.run with arcs := Tab.set none g.run.arcs i t }, moved := true }

/-- Every arc from an output port is empty. -/
def Fab.empty (g : Fab) (kind n port : Nat) : Bool := (arcsFrom g.img kind n port).all (fun r => (g.arc r.1).isNone)

/-- A token leaves an output port on all its arcs. -/
def Fab.send (kind n port : Nat) (t : Token) (g : Fab) : Fab :=
  (arcsFrom g.img kind n port).foldl (fun h r => h.setArc r.1 (some t)) { g with moved := true }

/-- The arc into an input port, and the token that it holds. -/
def Fab.inArc (g : Fab) (kind n port : Nat) : Option Nat := ((arcsInto g.img kind n port).head?).map (·.1)
def Fab.head (g : Fab) (kind n port : Nat) : Option Token := (g.inArc kind n port).bind g.arc

/-- The token at an input port is consumed. -/
def Fab.take (kind n port : Nat) (g : Fab) : Fab :=
  match g.inArc kind n port with
  | some i => g.setArc i none
  | none => g

/-- A fault; the token that met it stays where it is (R297). While the slot is drained its other parts go on (R291). -/
def Fab.fail (cause : Nat) (tval : Word) (g : Fab) : Fab :=
  if g.inject then { g with fault := some (cause, tval) } else { g with kept := true }

/-- A part that acts has met a fault, or has to wait. -/
def Fab.held (g : Fab) : Bool := g.fault.isSome || g.kept

/-- The next part acts. -/
def Fab.next (g : Fab) : Fab := { g with kept := false }

def Fab.lose (n : Nat) (g : Fab) : Fab := { g with discard := g.discard + n, moved := true }

/-! Status words (R67, R284) -/

/-- STRICT and MISMATCH. -/
def strictBad (w : Word) : Bool := wbit w 57 && wbit w 59

/-- The bits that a headland hands on: ERR, POISON, MISMATCH, XFERERR, STRICT. -/
def statusFlags (w : Word) : Word := w &&& 0x3E00000000000000

/-- A headland of the fabric: KIND 2, the flags gathered, MISMATCH when its own, and COUNT. -/
def fabStatus (flags : Word) (mism : Bool) (count : Nat) : Word :=
  statusFlags flags ||| word (2 * 2 ^ 62 + (if mism then 2 ^ 61 + 2 ^ 59 else 0) + count % 2 ^ 32)

def headland (st : Word) : Token := { pay := st, hl := true }

/-! Values of a compute node (R278, R279, R283, R285) -/

def nodeBits (w : Word) : Nat := fmtBits (cFmt w)

/-- The format is read as signed. -/
def nodeSigned (w : Word) : Bool :=
  match intOf (cFmt w) with
  | some (_, sg) => sg && !cUns w
  | none => false

/-- A result in its payload (R279). -/
def nodeExt (w : Word) (x : Nat) : Word := if nodeSigned w then wordI (sext x (nodeBits w)) else word (x % 2 ^ nodeBits w)

/-- A constant or an initial payload under a node's format (R278, R280). -/
def nodeConst (w : Word) (k : Nat) : Word :=
  if cFmt w = 0 then word (roundTo 0 {} (decode 1 k false))
  else if cFmt w = 1 then word k
  else if cFloat w then word (k % 65536)
  else if nodeSigned w then wordI (sext k 32) else word k

/-- The low bits of a payload. -/
def nodeArg (w p : Word) : Nat := p.toNat % 2 ^ nodeBits w

/-- An integer operand. -/
def nodeInt (w p : Word) : Int := if nodeSigned w then sext p.toNat (nodeBits w) else (nodeArg w p : Int)

/-- An exact integer result: it wraps or saturates (R285). -/
def nodeFit (w : Word) (i : Int) : Nat :=
  let n := nodeBits w
  wrap (if cSat w then satI n (nodeSigned w) i else i) n

def nodeRnd (w : Word) : Rnd := { mode := cRnd w, sat := cSat w, ftzo := cFtz w }
def nodeVal (w p : Word) : FVal := decode (cFmt w) (nodeArg w p) (cFtz w)
def nodeRound (w : Word) (v : FVal) : Nat := roundTo (cFmt w) (nodeRnd w) v

/-- A payload that a node only passes on. -/
def nodePass (w p : Word) : Word :=
  nodeExt w (if cFloat w then flushBits (cFmt w) (cFtz w) (nodeArg w p) else nodeArg w p)

/-- Arithmetic, bitwise and compare operations. -/
def nodeOp (w a b c : Word) : Word :=
  let op := cOp w
  let x := nodeArg w a; let y := nodeArg w b
  let cc := op - 0x10
  if cFloat w then
    let md := cRnd w
    let u := nodeVal w a; let v := nodeVal w b
    if op = 2 then nodeExt w (nodeRound w (fAdd md u v))
    else if op = 3 then nodeExt w (nodeRound w (fSub md u v))
    else if op = 4 then nodeExt w (nodeRound w (fMul u v))
    else if op = 5 then nodeExt w (nodeRound w (fAdd md (fMul u v) (nodeVal w c)))
    else if op = 6 ∨ op = 7 then
      let f := cFmt w
      nodeExt w (flushBits f (cFtz w) (pickBits (op = 7) f (flushBits f (cFtz w) x) (flushBits f (cFtz w) y)))
    else word (b2n (ccFloat cc u v))
  else
    let i := nodeInt w a; let j := nodeInt w b
    let sh := y % nodeBits w
    if op = 2 then nodeExt w (nodeFit w (i + j))
    else if op = 3 then nodeExt w (nodeFit w (i - j))
    else if op = 4 then nodeExt w (nodeFit w (i * j))
    else if op = 5 then nodeExt w (nodeFit w (i * j + nodeInt w c))
    else if op = 6 then nodeExt w (nodeFit w (min i j))
    else if op = 7 then nodeExt w (nodeFit w (max i j))
    else if op = 8 then nodeExt w (Nat.land x y)
    else if op = 9 then nodeExt w (Nat.lor x y)
    else if op = 0xA then nodeExt w (Nat.xor x y)
    else if op = 0xB then nodeExt w (nodeFit w (i * 2 ^ sh))
    else if op = 0xC then nodeExt w (nodeFit w (i / 2 ^ sh))
    else word (b2n (ccInt cc (i - j)))

/-- One more token in a running sum (R285); the start value is read as an input, a partial sum as it stands (R134). -/
def nodeSum (w : Word) (st : NodeState) (start a : Word) : Word :=
  let acc := if st.begun then st.acc else start
  if cFloat w then
    nodeExt w (nodeRound w (fAdd (cRnd w) (decode (cFmt w) (nodeArg w acc) (cFtz w && !st.begun)) (nodeVal w a)))
  else nodeExt w (nodeFit w (nodeInt w acc + nodeInt w a))

/-! FIFO tiles seen by FREE (R278, R446) -/

def Fab.tile (g : Fab) (n : Nat) : TileState := Tab.get {} g.run.tiles n
def Fab.setTile (n : Nat) (t : TileState) (g : Fab) : Fab := { g with run := { g.run with tiles := Tab.set {} g.run.tiles n t } }
def Fab.node (g : Fab) (n : Nat) : NodeState := Tab.get {} g.run.nodes n
def Fab.setNode (n : Nat) (t : NodeState) (g : Fab) : Fab := { g with run := { g.run with nodes := Tab.set {} g.run.nodes n t } }
def Fab.edge (g : Fab) (e : Nat) : EdgeState := Tab.get {} g.run.edges e
def Fab.setEdge (e : Nat) (t : EdgeState) (g : Fab) : Fab := { g with run := { g.run with edges := Tab.set {} g.run.edges e t } }

/-- What FREE reads for node n, as a value of its format. -/
def Fab.freeVal (g : Fab) (n : Nat) : Word :=
  let w := fabWord g.img 0 n
  let k := ((freeTiles g.img n).map (fun t => mCap (fabWord g.img 1 t) - (g.tile t).entries.length)).foldl min 512
  nodeExt w (if cFloat w then nodeRound w (ofInt k) else nodeFit w k)

/-! Nodes -/

/-- An input that comes from an arc. -/
def readsArc (w : Word) (p : Nat) : Bool :=
  nbit (opReads (cOp w)) p && (if p = 0 then cSrcA w = 0 else if p = 1 then cSrcB w = 0 else true)

/-- An operand that is no token: the constant or FREE. -/
def Fab.fixed (g : Fab) (n src : Nat) : Word :=
  let w := fabWord g.img 0 n
  if src = 2 then g.freeVal n else nodeConst w (cK w)

/-- What a firing sends, and the node's state after it (R283). -/
structure Fire where
  out : List (Nat × Token) := []
  st : NodeState
  lost : Nat := 0

/-- A firing on operands a, b, c with the tag of A, or of the token that stands for it. -/
def fireNode (w : Word) (st : NodeState) (start a b c : Word) (tag : Nat) : Fire :=
  let op := cOp w
  let q (p : Nat) (v : Word) (t : Nat) : Fire := { out := [(p, { pay := v, tag := t })], st := st }
  let yes := wbit c 0
  if op = 0x18 then { st := { st with acc := nodeSum w st start a, begun := true } }
  else if op = 0x19 then
    let v := nodeSum w st 0 a
    { out := [(0, { pay := v, tag := tag })], st := { st with acc := v, begun := true } }
  else if op = 0x1A then { st := { st with acc := st.acc + 1 } }
  else if op = 0x1B then
    { out := [(0, { pay := nodePass w a, tag := (cK w + st.ordinal) % 65536 })]
      st := { st with ordinal := st.ordinal + 1 } }
  else if op = 0x1C then q 0 (word (tag % 2 ^ nodeBits w)) tag
  else if op = 0x1D then q 0 (nodeExt w (nodeArg w c)) tag
  else if op = 1 then q 0 (nodePass w a) tag
  else if op = 0x20 then q (if yes then 0 else 1) (nodePass w a) tag
  else if op = 0x21 then (if yes then q 0 (nodePass w a) tag else { st := st })
  else if op = 0x22 then q 0 (nodePass w (if yes then a else b)) tag
  else if op = 0x23 then
    (if wfld c 0 3 ≤ cNout w then q (wfld c 0 3) (nodePass w a) tag else { st := st, lost := 1 })
  else q 0 (nodeOp w a b c) tag

/-- The firing happens: every arc that it writes is empty (R286). consume removes its tokens. -/
def Fab.fire (n : Nat) (f : Fire) (consume : Fab → Fab) (g : Fab) : Fab :=
  if f.out.all (fun o => g.empty 0 n o.1) then
    let st := { f.st with counts := f.out.foldl (fun t o => Tab.set 0 t o.1 (Tab.get 0 t o.1 + 1)) f.st.counts }
    f.out.foldl (fun h o => h.send 0 n o.1 o.2) (Fab.setNode n st ((consume g).lose f.lost))
  else g

/-- A headland at input port p is consumed; a strict one with a mismatch faults (R284, R68). -/
def Fab.endPort (n p : Nat) (t : Token) (g : Fab) : Fab :=
  if strictBad t.pay then g.fail cStreamLength t.pay
  else
    let st := g.node n
    Fab.setNode n { st with ended := Nat.lor st.ended (2 ^ p), flags := st.flags ||| statusFlags t.pay } (g.take 0 n p)

/-- A data token that no firing can take is discarded and counted (R284). -/
def Fab.spill (n p : Nat) (g : Fab) : Fab :=
  Fab.setNode n { g.node n with mism := true } ((g.take 0 n p).lose 1)

/-- Ports that have headlands to send. -/
def headPorts (img : List Word) (n : Nat) : List Nat :=
  let op := cOp (fabWord img 0 n)
  if op = 0x20 ∨ op = 0x23 then (range 0 8).filter (fun p => !(arcsFrom img 0 n p).isEmpty) else [0]

/-- Every input has ended: the result of acc and count, then the headlands. -/
def Fab.finish (n : Nat) (start : Word) (g : Fab) : Fab :=
  let w := fabWord g.img 0 n; let st := g.node n; let op := cOp w
  if st.fin = 1 ∧ (op = 0x18 ∨ op = 0x1A) then
    let v := if op = 0x1A then word (nodeArg w st.acc) else if st.begun then st.acc else nodePass w start
    if g.empty 0 n 0 then
      Fab.send 0 n 0 { pay := v } (g.setNode n { st with fin := 2, counts := Tab.set 0 st.counts 0 1 })
    else g
  else if st.fin ≤ 2 then
    let ps := headPorts g.img n
    if ps.all (g.empty 0 n) then
      ps.foldl (fun h p => h.send 0 n p (headland (fabStatus st.flags st.mism (Tab.get 0 st.counts p))))
        (g.setNode n { st with fin := 3 })
    else g
  else g

/-- The inputs among ports 0 to 2 that node n reads from arcs. -/
def arcPorts (w : Word) : List Nat := (range 0 3).filter (readsArc w)

/-- A node whose inputs are consumed together: it fires, or takes the headlands, or discards what is left over. -/
def Fab.joint (n : Nat) (start : Word) (g : Fab) : Fab :=
  let w := fabWord g.img 0 n; let st := g.node n
  let ps := arcPorts w
  let live := ps.filter (fun p => !nbit st.ended p)
  if live.isEmpty then Fab.finish n start (g.setNode n { st with fin := max 1 st.fin })
  else match live.find? (fun p => match g.head 0 n p with | some t => t.hl | none => false) with
    | some p => match g.head 0 n p with
      | some t => g.endPort n p t
      | none => g
    | none =>
      if live.length < ps.length then
        match live.find? (fun p => (g.head 0 n p).isSome) with
        | some p => g.spill n p
        | none => g
      else if ps.all (fun p => (g.head 0 n p).isSome) then
        let arg (p src : Nat) : Word := if ps.contains p then ((g.head 0 n p).map (·.pay)).getD 0 else g.fixed n src
        let p := if cOp w = 0x1D then 2 else 0
        let tag := if ps.contains p then ((g.head 0 n p).map (·.tag)).getD 0 else 0
        Fab.fire n (fireNode w st start (arg 0 (cSrcA w)) (arg 1 (cSrcB w)) (arg 2 0) tag)
          (fun h => ps.foldl (fun k p => k.take 0 n p) h) g
      else g

/-- The ordered merge (R283, R284). -/
def Fab.merge (n : Nat) (g : Fab) : Fab :=
  let w := fabWord g.img 0 n; let st := g.node n
  let side (p : Nat) : Bool := readsArc w p
  let gone (p : Nat) : Bool := !side p || nbit st.ended p
  if nbit st.ended 2 then
    if gone 0 && gone 1 then Fab.finish n 0 (g.setNode n { st with fin := max 1 st.fin })
    else
      let p := if gone 0 then 1 else if (g.head 0 n 0).isSome || gone 1 then 0 else 1
      match g.head 0 n p with
      | some t => if t.hl then g.endPort n p t else g.spill n p
      | none => g
  else match g.head 0 n 2 with
    | none => g
    | some c =>
      if c.hl then g.endPort n 2 c
      else
        let p := if wbit c.pay 0 then 0 else 1
        if !side p then
          Fab.fire n (fireNode w st 0 (g.fixed n (cSrcA w)) (g.fixed n (cSrcB w)) c.pay 0) (fun h => h.take 0 n 2) g
        else if nbit st.ended p then g.spill n 2
        else match g.head 0 n p with
          | none => g
          | some t =>
            if t.hl then g.endPort n p t
            else Fab.fire n (fireNode w st 0 t.pay t.pay c.pay t.tag) (fun h => (h.take 0 n 2).take 0 n p) g

/-- A node behind an intersection unit (R93, R286): the unit compares the heads of both fibres. -/
def Fab.meet (n ta : Nat) (start : Word) (g : Fab) : Fab :=
  let w := fabWord g.img 0 n; let st := g.node n
  let union := mUnion (fabWord g.img 1 ta)
  let gone (p : Nat) : Bool := nbit st.ended p
  let swallow (h : Fab) : Fab := (range 0 2).foldl (fun k p =>
    match gone p, k.head 0 n p with
    | false, some t =>
      let k1 := k.take 0 n p
      if t.hl then k1.setNode n { k1.node n with ended := Nat.lor (k1.node n).ended (2 ^ p) } else k1
    | _, _ => k) h
  let give (c a b : Word) (consume : Fab → Fab) : Fab := Fab.fire n (fireNode w st start a b c 0) consume g
  if st.fin ≠ 0 then swallow (g.finish n start)
  else if union && gone 0 && gone 1 then Fab.finish n start (g.setNode n { st with fin := 1 })
  else
    let ha := g.head 0 n 0; let hb := g.head 0 n 1
    let ends (p : Nat) (t : Token) : Fab :=
      let h := g.endPort n p t
      if union || h.held then h else h.setNode n { h.node n with fin := 1 }
    match ha, hb with
    | some t, none =>
      if t.hl then ends 0 t
      else if union && gone 1 then give t.pay t.val 0 (fun h => h.take 0 n 0) else g
    | none, some t =>
      if t.hl then ends 1 t
      else if union && gone 0 then give t.pay 0 t.val (fun h => h.take 0 n 1) else g
    | some t, some u =>
      if t.hl then ends 0 t
      else if u.hl then ends 1 u
      else if t.pay = u.pay then give t.pay t.val u.val (fun h => (h.take 0 n 0).take 0 n 1)
      else if t.pay.toNat < u.pay.toNat then
        (if union then give t.pay t.val 0 (fun h => h.take 0 n 0) else g.take 0 n 0)
      else (if union then give u.pay 0 u.val (fun h => h.take 0 n 1) else g.take 0 n 1)
    | none, none => g

/-- Compute tile n acts once (R287). A node without an outgoing arc and without an incoming one does nothing to be seen. -/
def Fab.stepNode (n : Nat) (g : Fab) : Fab :=
  let w := fabWord g.img 0 n
  let start := if cSrcB w = 1 then nodeConst w (cK w) else 0
  if g.fault.isSome || g.more || cOp w = 0 then g
  else match unitOf g.img n with
    | some (ta, _) => g.meet n ta start
    | none =>
      if cOp w = 0x22 then g.merge n
      else if (arcPorts w).isEmpty then
        (if (arcsFrom g.img 0 n 0).isEmpty then g
         else Fab.fire n (fireNode w (g.node n) start (g.fixed n (cSrcA w)) (g.fixed n (cSrcB w)) 0 0) (fun h => h) g)
      else g.joint n start

/-! Memory tiles (R91, R94, R446) -/

/-- A payload as a tile of this width keeps it. -/
def tileKeep (w p : Word) : Word := word (p.toNat % 2 ^ (8 * mBytes w))

/-- The tile's next token, with its state once that has left. -/
def tileOffer (w : Word) (t : TileState) : Option (Token × TileState) :=
  match mMode w with
  | 1 => match t.entries with
    | e :: es =>
      if !e.closed then none
      else
        let tok : Token := { pay := (nth (0, 0) e.toks t.pos).1 }
        let last := decide (e.toks.length ≤ t.pos + 1)
        some (tok,
          if !last then { t with pos := t.pos + 1 }
          else if t.reps + 1 < mRepeat w then { t with pos := 0, reps := t.reps + 1 }
          else { t with entries := es, pos := 0, reps := 0 })
    | [] => none
  | 2 => match t.entries with
    | e :: es => match e.toks with
      | x :: xs =>
        some ({ pay := x.1, tag := if mTagged w then e.tag else 0 },
          { t with entries := if xs.isEmpty && e.closed then es else { e with toks := xs } :: es })
      | [] => none
    | [] => none
  | 4 => match t.entries with
    | e :: es => match e.toks with
      | x :: _ => some ({ pay := x.1, val := x.2 }, { t with entries := es, count := t.count + 1 })
      | [] => none
    | [] => none
  | _ => match t.out with
    | x :: xs => some (x, { t with out := xs })
    | [] => none

/-- Every input of the tile has ended. -/
def tileEnded (w : Word) (t : TileState) : Bool :=
  if mMode w = 4 && !mPosv w then t.ended = 3 else nbit t.ended 0

/-- The tile's own headland: a fibre's and a reorder tile's tell of their own; the others hand on what they received, its COUNT too
(R91 does not say; DESIGN CHOICE, log 106). -/
def tileHead (w : Word) (t : TileState) : Word :=
  if mMode w = 4 ∨ mMode w = 5 then fabStatus t.flags t.mism t.count else t.flags

/-- NEXT of a reorder tile. -/
def tileNext (w : Word) (t : TileState) : Nat := t.next.getD (mBase w)

/-- The distance of a tag from NEXT. -/
def tagDist (w : Word) (t : TileState) (tag : Nat) : Nat := (tag + 65536 - tileNext w t) % 65536

/-- The entry of least distance from NEXT. -/
def nearest (w : Word) (t : TileState) : Option TileEntry :=
  t.entries.foldl (fun o e => match o with
    | none => some e
    | some f => some (if tagDist w t e.tag < tagDist w t f.tag then e else f)) none

/-- A reorder tile releases the entry with tag NEXT, and after the headland the nearest one (R94). -/
def tileRelease (w : Word) (t : TileState) : Option TileState :=
  if mMode w ≠ 5 ∨ !t.out.isEmpty then none
  else match nearest w t with
    | none => none
    | some e =>
      let d := tagDist w t e.tag
      if e.closed && (d = 0 || nbit t.ended 0) then
        some { t with
          entries := t.entries.filter (· != e)
          out := e.toks.map (fun x => { pay := x.1, tag := e.tag })
          next := some ((e.tag + 1) % 65536)
          mism := t.mism || d != 0
          count := t.count + 1 }
      else none

/-- The windows of a line buffer's rows (R91). -/
def windowsOf (w : Word) (rows : List (List Word)) : List Token :=
  let n := (mRowLen w - mWin w) / mStepX w + 1
  (range 0 n).flatMap (fun k =>
    rows.flatMap (fun r => ((r.drop (k * mStepX w)).take (mWin w)).map (fun x => { pay := x })))

/-- The last entry takes one more token, or a new entry begins. -/
def addToEntry (len tag : Nat) (x : Word × Word) (es : List TileEntry) : List TileEntry :=
  match es.reverse with
  | e :: r =>
    if e.closed then es ++ [{ tag := tag, toks := [x], closed := len = 1 }]
    else (r.reverse ++ [{ e with toks := e.toks ++ [x], closed := decide (len ≤ e.toks.length + 1) }])
  | [] => [{ tag := tag, toks := [x], closed := len = 1 }]

/-- The last entry is open. -/
def lastOpen (es : List TileEntry) : Bool := match es.reverse with | e :: _ => !e.closed | [] => false

/-- A FIFO frees the entry whose last token has left. -/
def fifoTidy (es : List TileEntry) : List TileEntry :=
  match es with
  | e :: r => if e.closed && e.toks.isEmpty then r else es
  | [] => []

/-- What a data token does to tile n: the new state, a wait, or a fault with its cause. -/
inductive Accept where
  | ok (t : TileState)
  | wait
  | bad (cause : Nat)

/-- Entries of a FIFO whose head is half sent: the tokens that have left still count toward its length. -/
def fifoAdd (w : Word) (tok : Token) (t : TileState) : Accept :=
  let x := (tileKeep w tok.pay, (0 : Word))
  let sent := t.pos
  match t.entries.reverse with
  | e :: r =>
    if e.closed then
      (if t.entries.length < mCap w then
        .ok { t with entries := t.entries ++ [{ tag := tok.tag, toks := [x], closed := mEnt w = 1 }], pos := 1 }
       else .wait)
    else .ok { t with entries := r.reverse ++ [{ e with toks := e.toks ++ [x], closed := decide (mEnt w ≤ sent + 1) }], pos := sent + 1 }
  | [] => .ok { t with entries := [{ tag := tok.tag, toks := [x], closed := mEnt w = 1 }], pos := 1 }

/-- A data token reaches port 0 of a tile other than a fibre store with values. -/
def tileAccept (w : Word) (tok : Token) (t : TileState) : Accept :=
  let x := tileKeep w tok.pay
  match mMode w with
  | 1 =>
    if lastOpen t.entries || decide (t.entries.length < mBufs w) then
      .ok { t with entries := addToEntry (mBufWords w * 64 / mBytes w) 0 (x, 0) t.entries }
    else .wait
  | 2 => fifoAdd w tok t
  | 3 =>
    if !t.out.isEmpty then .wait
    else if t.part.length + 1 < mRowLen w then .ok { t with part := t.part ++ [x] }
    else
      let rows := (t.rows ++ [t.part ++ [x]]).drop (t.rows.length + 1 - mRows w)
      .ok { t with part := [], rows := rows, out := if rows.length = mRows w then windowsOf w rows else [] }
  | 4 =>
    let c := tok.pay.toNat % 2 ^ (8 * mCoord w)
    if mFibres w ≤ t.entries.length then .wait
    else if (match t.last with | some l => decide (c ≤ l) | none => false) then .bad cFibre
    else
      .ok { t with entries := t.entries ++ [{ toks := [(word c, word t.pos)], closed := true }]
                   last := some c, pos := t.pos + 1 }
  | _ =>
    if !t.out.isEmpty then .wait
    else if lastOpen t.entries then .ok { t with entries := addToEntry (mEnt w) 0 (x, 0) t.entries }
    else if t.entries.any (fun e => e.closed && e.tag = tileNext w t) then .wait
    else if mCap w ≤ tagDist w t tok.tag ∨ t.entries.any (fun e => e.tag = tok.tag) then .bad cFabTag
    else .ok { t with entries := addToEntry (mEnt w) tok.tag (x, 0) t.entries }

/-- An input headland at port p: it closes what is open. -/
def tileEnd (w : Word) (p : Nat) (st : Word) (t : TileState) : TileState :=
  { t with
    ended := Nat.lor t.ended (2 ^ p)
    flags := if mMode w = 4 ∨ mMode w = 5 then t.flags ||| statusFlags st else st
    entries := fifoTidy (t.entries.map (fun e => { e with closed := true })) }

/-- A fibre store with values takes from both its arcs together (R91). -/
def Fab.stepFibre (n : Nat) (g : Fab) : Fab :=
  let w := fabWord g.img 1 n; let t := g.tile n
  let gone (p : Nat) : Bool := nbit t.ended p
  let port (p : Nat) : Option Fab := if gone p then none else match g.head 1 n p with
    | some x =>
      if x.hl then some (Fab.setTile n (tileEnd w p x.pay t) (g.take 1 n p))
      else if gone (1 - p) then some (Fab.setTile n { t with mism := true } ((g.take 1 n p).lose 1))
      else none
    | none => none
  match port 0, port 1 with
  | some h, _ => h
  | none, some h => h
  | none, none => match g.head 1 n 0, g.head 1 n 1 with
    | some c, some v =>
      if gone 0 || gone 1 then g
      else match tileAccept w c t with
        | .ok u =>
          let es := u.entries.dropLast ++ (u.entries.getLast?.toList.map (fun e =>
            { e with toks := e.toks.map (fun x => (x.1, tileKeep w v.pay)) }))
          Fab.setTile n { u with entries := es } ((g.take 1 n 0).take 1 n 1)
        | .wait => g
        | .bad c => g.fail c (word n)
    | _, _ => g

/-- Memory tile n takes a token. -/
def Fab.stepIn (n : Nat) (g : Fab) : Fab :=
  let w := fabWord g.img 1 n; let t := g.tile n
  if mMode w = 4 && !mPosv w then g.stepFibre n
  else if nbit t.ended 0 then g
  else match g.head 1 n 0 with
    | none => g
    | some x =>
      if x.hl then Fab.setTile n (tileEnd w 0 x.pay t) (g.take 1 n 0)
      else match tileAccept w x t with
        | .ok u => Fab.setTile n u (g.take 1 n 0)
        | .wait => g
        | .bad c => g.fail c (word n)

/-- A word of memory tile n of the hart's core is poisoned. -/
def Fab.spoiled (g : Fab) (n : Nat) : Bool :=
  let lo := tileKey (myCore g.st) (n * 16384) / 64
  g.st.tilePois.any (fun e => decide (lo ≤ e.1 ∧ e.1 < lo + 256))

/-- Memory tile n offers a token, or its headland once it holds nothing more. The next token that a tile with a poisoned word
offers is taken to read that word (R84, R297; DESIGN CHOICE, log 88): the node that reads it faults. -/
def Fab.stepOut (n : Nat) (g : Fab) : Fab :=
  let w := fabWord g.img 1 n; let t := g.tile n
  match tileRelease w t with
  | some u => { Fab.setTile n u g with moved := true }
  | none =>
    if !g.empty 1 n 0 then g
    else match tileOffer w t with
      | some (x, u) => if g.spoiled n then g.fail cPoison (word n) else Fab.send 1 n 0 x (g.setTile n u)
      | none =>
        if tileEnded w t && !t.sent then
          Fab.send 1 n 0 (headland (tileHead w t ||| (if g.spoiled n then word (2 ^ 60) else 0))) (g.setTile n { t with sent := true })
        else g

def Fab.stepTile (n : Nat) (g : Fab) : Fab :=
  if g.fault.isSome || g.more || mMode (fabWord g.img 1 n) = 0 then g else (g.stepOut n).stepIn n

/-! Edge tiles (R97 to R102) -/

/-- f finds the n bytes at l as they are past the L2, on a page that bypasses it (R336). -/
def Fab.pastL2 (mt : Nat) (l : Loc) (n : Nat) (wr : Bool) (f : Fab → Fab) (g : Fab) : Fab :=
  match l with
  | .pa a =>
    if mt = 0 ∨ wr = true ∨ g.st.far = [] then f g
    else
      let h := f { g with st := beyondL2 a n g.st }
      { h with st := behindL2 g.st a n h.st }
  | .tile _ => f g

/-- n bytes at va of the edge's memory side, or a fault (R297, R28); the edge waits behind an earlier stream, or a store (R72). -/
def Fab.access (need : Need) (va : Word) (n : Nat) (f : Loc → Fab → Fab) (g : Fab) : Fab :=
  match check g.st va n need with
  | .trap c => g.fail c va
  | .hole pa => { g with st := halt pa g.st }
  | .ok l mt viol =>
    if exchangeHolds g.st mt va n l need.wr then { g with kept := true }
    else Fab.pastL2 mt l n need.wr (f l) { g with st := noteViolation viol (accessFirst mt va n l need.wr g.st) }

/-- What the inbound and outbound edges need. -/
def edgeRead (align : Nat) : Need := { rd := true, mtMax := 1, align := align }
def edgeWrite (align : Nat) : Need := { wr := true, mtMax := 1, align := align }
/-- What an outbound edge needs to read what it has written (R100, R375). -/
def edgeOwn (align : Nat) : Need := { rd := true, own := true, mtMax := 1, align := align }

def Fab.loadAs (need : Need) (va : Word) (n : Nat) (f : Nat → Fab → Fab) (g : Fab) : Fab :=
  Fab.access need va n (fun l h => f (accRead h.st l n) h) g

def Fab.load (va : Word) (n align : Nat) (f : Nat → Fab → Fab) (g : Fab) : Fab := Fab.loadAs (edgeRead align) va n f g

def Fab.store (va : Word) (n align v : Nat) (f : Fab → Fab) (g : Fab) : Fab :=
  Fab.access (edgeWrite align) va n (fun l h => f { h with st := accStore l n v false h.st }) g

/-- n unaligned bytes at va as need asks, each part of them translated by its own page. -/
def Fab.loadSpan (need : Need) (va : Word) (n : Nat) (f : Nat → Fab → Fab) (g : Fab) : Fab :=
  let k := min n (131072 - va.toNat % 131072)
  Fab.access need va k (fun l h =>
    let x := accRead h.st l k
    if k = n then f x h
    else Fab.access need (va + word k) (n - k) (fun m u => f (x + accRead u.st m (n - k) * 2 ^ (8 * k)) u) h) g

/-- n merged bytes at va are written; those of them that full accepts have no bit left that they had before: these alone count for
the end of their line's poison (R37). -/
def Fab.storeMerged (full : Nat → Bool) (va : Word) (n v : Nat) (f : Fab → Fab) (g : Fab) : Fab :=
  Fab.access (edgeWrite 1) va n (fun l h =>
    f { h with st := loop (fun j t => if full j then coverStore (l.plus j) 1 true t else t) 0 n (accWrite l n v false h.st) }) g

/-- The same where the bytes may lie on two pages. -/
def Fab.storeSpan (full : Nat → Bool) (va : Word) (n v : Nat) (f : Fab → Fab) (g : Fab) : Fab :=
  let k := min n (131072 - va.toNat % 131072)
  if k = n then Fab.storeMerged full va n v f g
  else Fab.storeMerged full va k (v % 2 ^ (8 * k))
    (Fab.storeMerged (fun j => full (j + k)) (va + word k) (n - k) (v / 2 ^ (8 * k)) f) g

/-- The base register of an edge. -/
def Fab.base (g : Fab) (k : Nat) : Word := Tab.get 0 g.st.hart.tb k

/-- The address of byte o of an identity or transpose stream (R97). -/
def Fab.rowAddr (g : Fab) (w : Word) (o : Nat) : Word :=
  g.base (eBase w) + wordI ((o / eRow w : Nat) * ePitch w) + word (o % eRow w)

/-- Element j of a tile of 64 × 64 elements in column-major order (R99). -/
def transposed (xs : List Word) : List Word := (range 0 4096).map (fun k => nth 0 xs (64 * (k % 64) + k / 64))

/-- The transpose's buffer fills a tile, or is padded to one. -/
def edgeTile (es : EdgeState) (pad : Bool) : EdgeState :=
  { es with
    fifo := transposed (es.buf ++ List.replicate (4096 - es.buf.length) 0)
    buf := []
    mism := es.mism || pad }

/-- A headland that an inbound edge injects. -/
def edgeHead (w : Word) (es : EdgeState) : Word :=
  if eXf w = 2 then
    fabStatus (if zrpStrict w then setBit 0 57 true else 0) (es.zrp.count != zrpDecl w) es.zrp.count
  else fabStatus 0 es.mism es.count

/-- Element i of a register stream (R295, R39). -/
def Fab.regElem (g : Fab) (w : Word) (i : Nat) (f : Word → Fab → Fab) : Fab :=
  let v := if ePort w = 0 then g.va else g.vb
  let ew := 8 * eBytes w
  if elemPois g.st (ringSrc g.st v) i ew then g.fail cPoison (markOf 0 (ringSrc g.st v + i * ew / g.st.hart.vlmax))
  else f (word (srcElem g.st v i ew)) g

/-- Element i of a memory stream that is neither zrp nor kvq. -/
def Fab.memElem (g : Fab) (w : Word) (i : Nat) (f : Word → Fab → Fab) : Fab :=
  if eXf w = 3 then
    let p := repOff w + i * repPitch w
    let lo := p / 8; let n := (p + repBits w - 1) / 8 - lo + 1
    Fab.loadSpan (edgeRead 1) (g.base (eBase w) + word lo) n (fun x h =>
      let b := x / 2 ^ (p % 8) % 2 ^ repBits w
      f (word (if repSext w then wrap (sext b (repBits w)) (8 * eBytes w) else b)) h) g
  else Fab.load (g.rowAddr w (i * eBytes w)) (eBytes w) (eBytes w) (fun x h => f (word x) h) g

/-- One element of the edge's stream; one that the mask leaves out is passed over (R295). -/
def Fab.streamElem (g : Fab) (w : Word) (i : Nat) (skip : Fab) (f : Word → Fab → Fab) : Fab :=
  if ePort w = 3 then g.memElem w i f
  else if governPois g.st g.mask i then g.fail cPoison (markOf 1 g.mask)
  else if governs g.st g.mask i then g.regElem w i f
  else skip

/-- A zrp edge: it decodes until the next element is known, and to the end before its headland (R101). -/
def Fab.stepZrp (e : Nat) (w : Word) (g : Fab) : Fab :=
  let es := g.edge e; let decl := zrpDecl w; let eb := eBytes w
  let total := decl * 8 / eb
  let wi := es.idx * eb / 8
  let read (h : Fab) : Fab := Fab.load (h.base (eBase w) + word (8 * es.zrp.units)) 8 8
    (fun x k => { k.setEdge e { es with zrp := es.zrp.unit decl x } with moved := true }) h
  if es.idx < total then
    if wi < es.zrp.out.length || es.zrp.over decl then
      if !g.empty 2 e 0 then g
      else
        let u := if wi < es.zrp.out.length then nth 0 es.zrp.out (es.zrp.out.length - 1 - wi) else 0
        Fab.send 2 e 0 { pay := word (fld u (8 * (es.idx * eb % 8)) (8 * eb)), tag := es.idx % 65536 }
          (g.setEdge e { es with idx := es.idx + 1, count := es.count + 1 })
    else read g
  else if !es.zrp.over decl then read g
  else if g.empty 2 e 0 then Fab.send 2 e 0 (headland (edgeHead w es)) (g.setEdge e { es with ended := true })
  else g

/-- A transpose of an inbound stream (R99). -/
def Fab.stepTurn (e : Nat) (w : Word) (g : Fab) : Fab :=
  let es := g.edge e
  match es.fifo with
  | x :: xs =>
    if g.empty 2 e 0 then
      Fab.send 2 e 0 { pay := x, tag := es.idx % 65536 }
        (g.setEdge e { es with fifo := xs, idx := es.idx + 1, count := es.count + 1 })
    else g
  | [] =>
    if es.pos < es.lim then
      Fab.streamElem g w es.pos { g.setEdge e { es with pos := es.pos + 1 } with moved := true } (fun x h =>
        let es' := { es with pos := es.pos + 1, buf := es.buf ++ [x] }
        { h.setEdge e (if es'.buf.length = 4096 then edgeTile es' false else es') with moved := true })
    else if !es.buf.isEmpty then { g.setEdge e (edgeTile es true) with moved := true }
    else if g.empty 2 e 0 then Fab.send 2 e 0 (headland (edgeHead w es)) (g.setEdge e { es with ended := true })
    else g

/-- Inbound edge e acts once. -/
def Fab.stepEdgeIn (e : Nat) (g : Fab) : Fab :=
  let w := fabWord g.img 2 e; let es := g.edge e
  if g.fault.isSome || g.more || !g.inject || es.ended || (g.was && Config.edgePauses g.seed g.round e) then g
  else if eXf w = 2 then g.stepZrp e w
  else if eXf w = 4 then g.stepTurn e w
  else if !g.empty 2 e 0 then g
  else if es.idx < es.lim then
    Fab.streamElem g w es.idx { g.setEdge e { es with idx := es.idx + 1 } with moved := true } (fun x h =>
      Fab.send 2 e 0 { pay := x, tag := es.idx % 65536 } (h.setEdge e { es with idx := es.idx + 1, count := es.count + 1 }))
  else Fab.send 2 e 0 (headland (edgeHead w es)) (g.setEdge e { es with ended := true })

/-! Key-value quantisation (R100) -/

/-- The slot of the ring for token t, and the address of channel c in it. -/
def Fab.ringAddr (g : Fab) (w : Word) (t : Nat) : Word :=
  g.base (eBase w + 1) + word (t % (kvqWindow w + 256) * 2 * kvqChans w)

/-- Stores of a list of values of n bytes, one after another. -/
def Fab.storeAll (n : Nat) : List Nat → Word → Fab → Fab
  | [], _, g => g
  | x :: xs, va, g => Fab.store va n n x (Fab.storeAll n xs (va + word n)) g

/-- Channel c of the 256 tokens of block b, from the ring. -/
def Fab.blockColumn (w : Word) (b c : Nat) (g : Fab) : Fab × List Nat :=
  (range 0 256).foldl (fun p j =>
    if p.1.held then p
    else
      let r := Fab.loadAs (edgeOwn 2) (p.1.ringAddr w (256 * b + j) + word (2 * c)) 2 (fun x h => { h with val := x }) p.1
      (r, p.2 ++ [r.val])) (g, [])

/-- One value quantised under a scale. -/
def quantise (e4 : Bool) (scale x : Nat) : Nat :=
  let s := decode 3 scale false; let v := decode 2 x false
  if s.isZero then 0
  else match v with
    | .nan => if e4 then b2n (nbit x 15) * 128 + 127 else 0
    | _ =>
      let y := decode 1 (fp32Rne (fDiv v s)) false
      if e4 then e4m3RneSat y else wrap (int8RneSat (-127) 127 y) 8

/-- The greatest magnitude of the finite values of a column, as BF16 bits. -/
def amaxOf (xs : List Nat) : Nat := (xs.map (fun x => x % 32768)).foldl (fun m x => if x < 0x7F80 ∧ m < x then x else m) 0

/-- The scale of a column: 65504 when the quotient overflows. -/
def scaleFor (e4 : Bool) (xs : List Nat) : Nat :=
  let q := fp16Rne (fDiv (decode 2 (amaxOf xs) false) (ofInt (if e4 then 448 else 127)))
  if q = 0x7C00 then 0x7BFF else q

/-- Channel c of block b is quantised and stored with its scale. -/
def Fab.quantColumn (w : Word) (b c : Nat) (g : Fab) : Fab :=
  if g.held || (g.blockColumn w b c).1.held then (g.blockColumn w b c).1
  else
    let r := g.blockColumn w b c
    let sc := scaleFor (kvqE4m3 w) r.2
    let a := r.1.base (eBase w) + word (64 + b * 258 * kvqChans w)
    let h := (range 0 256).foldl (fun k j =>
      if k.held then k
      else Fab.store (a + word (j * kvqChans w + c)) 1 1 (quantise (kvqE4m3 w) sc (nth 0 r.2 j)) (fun x => x) k) r.1
    if h.held then h else Fab.store (a + word (256 * kvqChans w + 2 * c)) 2 2 sc (fun x => x) h

/-- A row of channels is complete: it goes to its ring slot, and the block that has left the window is quantised. Where one of these
accesses waits or fails, all of them are made again. -/
def Fab.kvqRow (e : Nat) (w : Word) (g : Fab) : Fab :=
  let es := g.edge e
  let t := (es.base.getD 0).toNat + es.count
  let h := Fab.storeAll 2 (es.buf.map (fun x => x.toNat)) (g.ringAddr w t) g
  let k := if kvqWindow w + 255 ≤ t ∧ (t - kvqWindow w - 255) % 256 = 0 then
      loop (fun c k => if k.held then k else k.quantColumn w ((t - kvqWindow w - 255) / 256) c) 0 (kvqChans w) h
    else h
  if k.held then k
  else { k.setEdge e { es with buf := [], count := es.count + 1, idx := es.idx + 1 } with moved := true }

/-- T is read before the first token. -/
def Fab.kvqBase (e : Nat) (w : Word) (g : Fab) : Fab :=
  Fab.loadAs (edgeOwn 8) (g.base (eBase w)) 8 (fun x h => { h.setEdge e { h.edge e with base := some (word x) } with moved := true }) g

/-- The headland of a kvq stream: the header holds the new count. -/
def Fab.kvqEnd (e : Nat) (w st : Word) (g : Fab) : Fab :=
  let es := g.edge e
  let a := g.base (eBase w)
  Fab.storeAll 8 [((es.base.getD 0).toNat + es.count) % 2 ^ 64, 0, 0, 0, 0, 0, 0, 0] a g |> fun h =>
    if h.held then h
    else Fab.take 2 e 0 (h.setEdge e { es with ended := true, mism := !es.buf.isEmpty || wbit st 59 })

/-! Outbound edges -/

/-- Byte lo + j of a repack stream has been written in every bit, by the element at bit p or by it and those before it. -/
def repFull (w : Word) (p lo j : Nat) : Bool :=
  decide ((if repPitch w ≤ repBits w then repOff w else p) ≤ 8 * (lo + j) ∧ 8 * (lo + j) + 8 ≤ p + repBits w)

/-- Element i of an outbound edge is written: to vd, or to memory; the bits beside a repacked field are merged in the LSQ, and
only a write is asked for (R102, R375). -/
def Fab.putElem (w : Word) (i : Nat) (x : Word) (f : Fab → Fab) (g : Fab) : Fab :=
  let ew := 8 * eBytes w
  if ePort w = 2 then
    if g.room ≤ g.run.out then { g with more := true }
    else f { g with st := setElem g.vd g.run.out ew (x.toNat % 2 ^ ew) false g.st, run := { g.run with out := g.run.out + 1 } }
  else if eXf w = 3 then
    let p := repOff w + i * repPitch w
    let lo := p / 8; let n := (p + repBits w - 1) / 8 - lo + 1
    Fab.loadSpan (edgeWrite 1) (g.base (eBase w) + word lo) n (fun old h =>
      Fab.storeSpan (repFull w p lo) (h.base (eBase w) + word lo) n (putFld old (p % 8) (repBits w) x.toNat) f h) g
  else Fab.store (g.rowAddr w (i * eBytes w)) (eBytes w) (eBytes w) (x.toNat % 2 ^ ew) f g

/-- Outbound edge e acts once; the vd edge accepts nothing while the slot is drained (R291). -/
def Fab.stepEdgeOut (e : Nat) (g : Fab) : Fab :=
  let w := fabWord g.img 2 e; let es := g.edge e
  let next (h : Fab) : Fab :=
    { h.setEdge e { h.edge e with idx := (h.edge e).idx + 1, count := (h.edge e).count + 1 } with moved := true }
  if g.fault.isSome || g.more || es.ended || (ePort w = 2 && !g.inject) then g
  else if eXf w = 1 && es.buf.length = kvqChans w then g.kvqRow e w
  else match es.fifo with
    | x :: xs => g.putElem w es.idx x (fun h => next (h.setEdge e { h.edge e with fifo := xs }))
    | [] => match g.head 2 e 0 with
      | none => g
      | some t =>
        if eXf w = 1 && es.base.isNone then g.kvqBase e w
        else if t.hl then
          if strictBad t.pay then g.fail cStreamLength t.pay
          else if eXf w = 1 then g.kvqEnd e w t.pay
          else if eXf w = 4 && !es.buf.isEmpty then { g.setEdge e (edgeTile es true) with moved := true }
          else
            let h := Fab.take 2 e 0 (g.setEdge e { es with ended := true })
            if ePort w = 2 then { h with run := { h.run with vdDone := true } } else h
        else if eXf w = 1 || eXf w = 4 then
          let es' := { es with buf := es.buf ++ [word (t.pay.toNat % 2 ^ (8 * eBytes w))] }
          Fab.take 2 e 0 (g.setEdge e (if eXf w = 4 && es'.buf.length = 4096 then edgeTile es' false else es'))
        else g.putElem w es.idx t.pay (fun h => next (h.take 2 e 0))

/-! Rounds -/

/-- Every edge, tile and node acts. -/
def Fab.turn (g : Fab) : Fab :=
  let es := fabTiles g.img 2
  let g0 := { g with was := g.moved, moved := false, round := g.round + 1 }
  let g1 := (es.filter (fun e => !eOut (fabWord g.img 2 e))).foldl (fun h e => h.next.stepEdgeIn e) g0
  let g2 := (fabTiles g.img 1).foldl (fun h n => h.next.stepTile n) g1
  let g3 := (fabTiles g.img 0).foldl (fun h n => h.next.stepNode n) g2
  (es.filter (fun e => eOut (fabWord g.img 2 e))).foldl (fun h e => h.next.stepEdgeOut e) g3

/-- The edges of the image that a test accepts. -/
def edgesWhere (img : List Word) (p : Word → Bool) : List Nat := (fabTiles img 2).filter (fun e => p (fabWord img 2 e))

def hasVd (img : List Word) : Bool := !(edgesWhere img (fun w => ePort w = 2)).isEmpty
def memOut (img : List Word) : List Nat := edgesWhere img (fun w => ePort w = 3 && eOut w)
/-- The memory edges, in ascending number. -/
def memEdges (img : List Word) : List Nat := edgesWhere img (fun w => ePort w = 3)

/-- The invocation is complete (R295). -/
def Fab.complete (g : Fab) : Bool :=
  if hasVd g.img || !(memOut g.img).isEmpty then
    (g.run.vdDone || !hasVd g.img) && (memOut g.img).all (fun e => (g.edge e).ended)
  else !g.moved && !g.was && (edgesWhere g.img (fun w => !eOut w)).all (fun e => (g.edge e).ended)

/-- Nothing more can happen: complete, stopped, or stuck. -/
def Fab.over (g : Fab) : Bool :=
  g.fault.isSome || g.more || g.st.stop.isSome || g.complete || (!g.moved && !g.was)

/-- Rounds until then. -/
def Fab.go : Nat → Fab → Fab
  | 0, g => g
  | k + 1, g => let h := g.turn; if h.over then h else Fab.go k h

/-- The arcs as `fbind` leaves them (R280, R290). -/
def initArcs (img : List Word) : Tab (Option Token) :=
  (routesWhere img rInit).foldl (fun t r =>
    let v := if rDk r.2 = 0 then nodeConst (fabWord img 0 (rDst r.2)) (rIval r.2) else word (rIval r.2)
    Tab.set none t r.1 (some { pay := v })) []

/-- The binding as `fbind` leaves it. -/
def freshRun (img : List Word) : FabRun := { arcs := initArcs img }

/-- Tokens that lie before a unit whose fibres have ended are consumed already (R93). -/
def Fab.spent (g : Fab) (r : Word) : Bool :=
  rDk r = 0 && (unitOf g.img (rDst r)).isSome && (g.node (rDst r)).fin != 0

/-- Data tokens on the arcs. -/
def Fab.onArcs (g : Fab) : Nat :=
  ((routesWhere g.img (fun _ => true)).filter (fun r => (g.arc r.1).any (fun t => !t.hl) && !g.spent r.2)).length

/-- Entries that a memory tile still holds (R95): elements of an operand store and rows of a line buffer are none (DESIGN CHOICE, log
107); tokens, when each is to be counted (R291). -/
def Fab.inTile (g : Fab) (toks : Bool) (n : Nat) : Nat :=
  let w := fabWord g.img 1 n; let t := g.tile n
  if (arcsFrom g.img 1 n 0).any (fun r => g.spent r.2) then 0
  else if toks then
    (t.entries.map (fun e => e.toks.length)).sum - (if mMode w = 1 then t.pos else 0) + t.out.length + t.part.length
  else if mMode w = 2 ∨ mMode w = 4 ∨ mMode w = 5 then t.entries.length + b2n (!t.out.isEmpty)
  else 0

/-- What is left in the binding, as R295 and R291 count it; a drain also counts what edge tiles have buffered. -/
def Fab.left (g : Fab) (toks : Bool) : Nat :=
  g.onArcs + ((fabTiles g.img 1).map (g.inTile toks)).sum
    + (if toks then ((fabTiles g.img 2).map (fun e => (g.edge e).buf.length + (g.edge e).fifo.length)).sum else 0)

end Sys2Proof.Machine
end

