-- ==== Sys2Proof/Machine/VMem.lean ====
section
/-! DEFINITION. Vector loads and stores, bit planes, whole registers and vector atomics (R214 to R222, R228 to R230). -/

namespace Sys2Proof.Machine

/-- The memory element width (R215): the ew code, 7 standing for the width in `vtype`. -/
def memWidth (s : State) (e : BitVec 3) : Nat := if e = 7 then s.hart.sew else 8 * 2 ^ e.toNat

/-- How element i is addressed (R214): unit-stride, strided by a register, indexed. -/
inductive Addr where
  | unit | stride | index (x : Nat)
  deriving DecidableEq, Repr

/-- The address of element i (R214), modulo 2^64. -/
def elemAddr (s : State) (m : Addr) (eb i : Nat) : Word :=
  match m with
  | .unit => cap0 s + word (i * eb)
  | .stride => cap0 s + word i * cap1 s
  | .index x => cap0 s + word (srcElem s x i s.hart.sew * eb)

/-- The address of element i is computed from a poisoned word. -/
def addrPois (s : State) (m : Addr) (i : Nat) : Bool :=
  match m with
  | .index x => srcPois s x i s.hart.sew
  | _ => false

/-- Registers whose words name the ring as a source. -/
def addrRegs : Addr → List Nat
  | .index x => [x]
  | _ => []

/-- R28, R222: gathers and scatters may not touch an MT = 2 page. -/
def addrMt : Addr → Nat
  | .index _ => 1
  | _ => 2

/-- One element access at va (R216): f gets the place; a failed check ends the slot at element k. A conflicting stream of the
hart sends its headland first, unless the access chains behind its data (R72, R74). Its page is translated once in a window of 256
elements (R32). -/
def accessBehind (chain : Bool) (need : Need) (va : Word) (n k : Nat) (f : Loc → State → State) (s0 : State) : State :=
  let s := pageOnce (k / 256) va s0
  match check s va n need with
  | .trap c => slotFault k c va s
  | .hole pa => halt pa s
  | .ok l mt viol =>
    if (if chain then unmovedHolds s va n l need.wr else exchangeHolds s mt va n l need.wr) then slotWait .stream s
    else pastL2 mt l n need.wr (f l) (noteViolation viol (if chain then combBefore l n s else accessFirst mt va n l need.wr s))

/-- The same of an access that does not chain. -/
def accessAt (need : Need) (va : Word) (n k : Nat) (f : Loc → State → State) (s : State) : State :=
  accessBehind false need va n k f s

/-- Elements [first, lim) that the mask governs, until one of them stops the slot. -/
def memElems (m : Nat) (body : Nat → State → State) (s : State) : State :=
  overElems m (firstElem s) (limit s (vlN s)) (fun i t => if stopsAt t i then t else body i t) s

/-! Loads -/

/-- The checks at issue of a load (R215, R76): ring: the base of the ring may be its destination. -/
def loadCheck (ring : Bool) (d : Nat) (e : BitVec 3) (m : Addr) (s : State) : Option (Nat × Word) :=
  let w := memWidth s e
  let isRing := ring && (match s.hart.ring with | some r => d = r.vb && decide (extent s w ≤ r.g) | none => false)
  firstTrap
    [badVtype s,
     badOperand (s.hart.plane || !groupOk s d w || (!isRing && inRing s d (extent s w))
        || (match m with
            | .index x => !srcOk s x s.hart.sew
                || (overlaps d (extent s w) x (extent s s.hart.sew) && !(d = x && extent s w = extent s s.hart.sew))
            | _ => false)) s]

/-- One element of a load. A load that chains to the end of a strict stream with a mismatch traps (R74). -/
def loadElem (chain : Bool) (d w : Nat) (m : Addr) (mask i : Nat) (s : State) : State :=
  let va := elemAddr s m (w / 8) i
  if chain && strictEnd s va (w / 8) then slotFault i cStreamLength (curWord s) s
  else
    accessBehind chain { needLoad (w / 8) with mtMax := addrMt m } va (w / 8) i
      (fun l t => setElem d i w (accRead t l (w / 8)) (governPois s mask i || addrPois s m i) t) s

/-- A load that chains: its addresses rise with the element and lie wholly in the window (R74). -/
def chains (s : State) (m : Addr) (eb : Nat) : Bool :=
  let last := cap0 s + (match m with | .stride => word (vlN s - 1) * cap1 s | _ => word ((vlN s - 1) * eb))
  (match m with | .unit => true | .stride => decide (0 < (cap1 s).toInt) | .index _ => false)
    && inWindow (cap0 s) && inWindow (last + word (eb - 1)) && decide (cap0 s ≤ last)

/-- R216: `vld`, `vlds`, `vldx`. -/
def loadRun (d : Nat) (e : BitVec 3) (m : Addr) (mask : Nat) (s : State) : State :=
  let w := memWidth s e
  let r := loadDest s d
  memElems mask (loadElem (chains s m (w / 8)) r w m mask) (noteUndo r w 1 1 (ringNote (addrRegs m) s))

/-- A load by itself commits at once: it takes its ring slot, or stalls for one (R76). -/
def ringFirst (d : Nat) (f : State → State) (s : State) : State :=
  let mine := match s.hart.ring with | some r => d = r.vb && !s.hart.iss.group | none => false
  if mine then (if ringStalls s.hart.ring 1 then waitHere .stream s else f (updH (ringCommit 1) s)) else f s

def loadSlot (d : BitVec 6) (c1 : Word) (a : BitVec 5) (mask e : BitVec 3) (m : Addr) (s : State) : State :=
  ringFirst d.toNat (vslot (getS s a) c1 0
    (runSlot .elem (loadCheck true d.toNat e m)
      (fun t => [(loadDest t d.toNat, extent t (memWidth t e))])
      (loadRun d.toNat e m mask.toNat))) s

/-- R214, R216: unit-stride load. -/
def execVld (d : BitVec 6) (a : BitVec 5) (m e : BitVec 3) (s : State) : Host.Outcome State Fault Refusal :=
  done (loadSlot d 0 a m e .unit s)

/-- R214, R216: strided load. -/
def execVlds (d : BitVec 6) (a t : BitVec 5) (m e : BitVec 3) (s : State) : Host.Outcome State Fault Refusal :=
  done (loadSlot d (getS s t) a m e .stride s)

/-- R214, R216: indexed load. -/
def execVldx (d : BitVec 6) (a : BitVec 5) (x : BitVec 6) (m e : BitVec 3) (s : State) : Host.Outcome State Fault Refusal :=
  done (loadSlot d 0 a m e (.index x.toNat) s)

/-- What `vldff` finds at element i (R219): nothing against it, a failed check, or an MT = 2 page. -/
inductive Found where
  | fine | fails | device
  deriving DecidableEq, Repr

def foundAt (s : State) (w i : Nat) : Found :=
  let va := elemAddr s .unit (w / 8) i
  match check s va (w / 8) (needLoad (w / 8)) with
  | .ok _ mt _ => if mt = 2 then .device else .fine
  | _ => .fails

/-- Sets `vl` (R219). -/
def trimVl (n : Nat) (s : State) : State := updH (fun h => { h with vl := BitVec.ofNat 17 n }) s

/-- R219: `vldff`. In a convoy that has already faulted it does nothing. -/
def loadFirst (d : Nat) (e : BitVec 3) (mask : Nat) (s : State) : State :=
  let w := memWidth s e
  let first := firstElem s
  let one (lo n : Nat) (t : State) : State :=
    overElems mask lo n (fun i u => if stopsAt u i then u else loadElem false d w .unit mask i u) t
  if s.hart.iss.bound.isSome then keepBack s
  else match findFrom (fun i => governs s mask i && foundAt s w i != .fine) first (vlN s - first) with
    | none => one first (vlN s) s
    | some k =>
      if k = first then
        if foundAt s w k = .fails then one first (k + 1) s else trimVl (k + 1) (one first (k + 1) s)
      else trimVl k (one first k s)

/-- R219: load that trims `vl` instead of trapping. -/
def execVldff (d : BitVec 6) (a : BitVec 5) (m e : BitVec 3) (s : State) : Host.Outcome State Fault Refusal :=
  done (vslot (getS s a) 0 0
    (runSlot .elem (loadCheck false d.toNat e .unit) (fun t => [(d.toNat, extent t (memWidth t e))])
      (loadFirst d.toNat e m.toNat)) s)

/-! Stores -/

/-- The checks at issue of a store; its data group may overlap any register (R215). -/
def storeCheck (d : Nat) (e : BitVec 3) (m : Addr) (s : State) : Option (Nat × Word) :=
  firstTrap
    [badVtype s,
     badOperand (s.hart.plane || !srcOk s d (memWidth s e)
        || (match m with | .index x => !srcOk s x s.hart.sew | _ => false)) s]

/-- One element of a store. A poison mark on the mask or index word that governs it goes with the bytes, as one on its data word does: R39
names only a value taken from a poisoned word (DESIGN CHOICE, log 102). -/
def storeElem (d w : Nat) (m : Addr) (mask i : Nat) (s : State) : State :=
  accessAt { needStore (w / 8) with mtMax := addrMt m } (elemAddr s m (w / 8) i) (w / 8) i
    (fun l t => accStore l (w / 8) (srcElem s d i w)
      (srcPois s d i w || governPois s mask i || addrPois s m i) t) s

/-- R217: elements perform in ascending order; of one that traps at k, none above k has performed, though R218 lets some of an unordered
store (DESIGN CHOICE, log 109). -/
def storeRun (d : Nat) (e : BitVec 3) (m : Addr) (mask : Nat) (s : State) : State :=
  memElems mask (storeElem d (memWidth s e) m mask) (ringNote (d :: addrRegs m) s)

/-- R218: which of several elements at one address performs last is open. Where element i writes the bytes of a higher
one too, a free choice repeats it after them, on pages that do not order their elements (log 11). -/
def storeAgain (d : Nat) (e : BitVec 3) (m : Addr) (mask : Nat) (s : State) : State :=
  let w := memWidth s e
  let n := vlN s
  let ids := (range (firstElem s) (n - firstElem s)).filter (governs s mask)
  let clashes := ids.filter (fun i => ids.any (fun j => i < j && elemAddr s m (w / 8) i = elemAddr s m (w / 8) j))
  if clashes.isEmpty || s.hart.iss.bound.isSome || s.hart.iss.wait.isSome then s
  else
    clashes.foldl (fun t i =>
      match check t (elemAddr t m (w / 8) i) (w / 8) (needStore (w / 8)) with
      | .ok _ 0 _ => if Config.unorderedLater s.free i then storeElem d w m mask i t else t
      | _ => t) (takeFree s)

def storeSlot (ordered : Bool) (d : BitVec 6) (c1 : Word) (a : BitVec 5) (mask e : BitVec 3) (m : Addr) (s : State) : State :=
  vslot (getS s a) c1 0
    (runSlot .elem (storeCheck d.toNat e m) (fun _ => [])
      (fun t =>
        let t1 := storeRun d.toNat e m mask.toNat t
        if ordered then t1 else storeAgain d.toNat e m mask.toNat t1)) s

/-- R217: unit-stride store. -/
def execVst (d : BitVec 6) (a : BitVec 5) (m e : BitVec 3) (s : State) : Host.Outcome State Fault Refusal :=
  done (storeSlot true d 0 a m e .unit s)

/-- R217: strided store. -/
def execVsts (d : BitVec 6) (a t : BitVec 5) (m e : BitVec 3) (s : State) : Host.Outcome State Fault Refusal :=
  done (storeSlot true d (getS s t) a m e .stride s)

/-- R217: indexed store. -/
def execVstx (d : BitVec 6) (a : BitVec 5) (x : BitVec 6) (m e : BitVec 3) (s : State) : Host.Outcome State Fault Refusal :=
  done (storeSlot true d 0 a m e (.index x.toNat) s)

/-- R218: indexed store in any order. -/
def execVstxu (d : BitVec 6) (a : BitVec 5) (x : BitVec 6) (m e : BitVec 3) (s : State) : Host.Outcome State Fault Refusal :=
  done (storeSlot false d 0 a m e (.index x.toNat) s)

/-- R218: unit-stride store in any order. -/
def execVstu (d : BitVec 6) (a : BitVec 5) (m e : BitVec 3) (s : State) : Host.Outcome State Fault Refusal :=
  done (storeSlot false d 0 a m e .unit s)

/-! Bit planes (R220) -/

/-- The bit of memory that element i is, counted from the base. -/
def planeBit (s : State) (i : Nat) : Nat :=
  let o := wfld (cap1 s) 0 32; let p := wfld (cap1 s) 32 32
  o + i / 64 * (if p = 0 then 64 else p) + i % 64

/-- The checks at issue of R220. -/
def planeCheck (load : Bool) (d : Nat) (s : State) : Option (Nat × Word) :=
  let p := wfld (cap1 s) 32 32
  firstTrap
    [badVtype s,
     badOperand (!s.hart.plane || (if load then inRing s d 1 else !ringOkSrc s d 1)) s,
     (p % 8 != 0, cPitch, cap1 s),
     badOperand (p % 8 = 0 && p != 0 && decide (p < 64)) s]

/-- Elements of a plane: a mask bit governs eight (R113). -/
def planeElems (m : Nat) (body : Nat → State → State) (s : State) : State :=
  loop (fun i t => if stopsAt t i then t else if governs t m (i / 8) then body i t else t) (firstElem s)
    (limit s (vlN s) - firstElem s) s

def planeLoad (d m : Nat) (s : State) : State :=
  let s := noteUndo d 1 1 1 s
  planeElems m (fun i t =>
    let q := planeBit t i
    accessAt (needLoad 1) (cap0 t + word (q / 8)) 1 i
      (fun l u => setElem d i 1 (fld (accRead u l 1) (q % 8) 1) (governPois t m (i / 8)) u) t) s

/-- Element i of v is the last of eight, all of them stored clean, that fill the byte in which it lies. -/
def fillsByte (v m i : Nat) (s : State) : Bool :=
  decide (firstElem s + 7 ≤ i) && planeBit s i % 8 = 7 && planeBit s (i - 7) + 7 = planeBit s i
    && (range (i - 7) 8).all (fun j => governs s m (j / 8) && !elemPois s v j 1 && !governPois s m (j / 8))

/-- The memory type of the page of va. -/
def pageMt (s : State) (va : Word) : Nat :=
  match check s va 1 (needStore 1) with
  | .ok _ mt _ => mt
  | _ => 0

/-- The other bits of a byte keep their values; the merge is made inside the LSQ. A byte of which every bit is stored counts for
the end of its line's poison (R37). -/
def planeStore (d m : Nat) (s : State) : State :=
  let v := ringSrc s d
  planeElems m (fun i t =>
    let q := planeBit t i
    let va := cap0 t + word (q / 8)
    accessAt (needStore 1) va 1 i
      (fun l u =>
        let x := accWrite l 1 (putFld (readPast (pageMt u va) u l 1) (q % 8) 1 (elem t v i 1)) (elemPois t v i 1 || governPois t m (i / 8)) u
        if fillsByte v m i t then coverStore l 1 true x else x) t) (ringNote [d] s)

/-- R220: `vldp`. -/
def execVldp (d : BitVec 6) (a t : BitVec 5) (m : BitVec 3) (s : State) : Host.Outcome State Fault Refusal :=
  done (vslot (getS s a) (getS s t) 0
    (runSlot .elem (planeCheck true d.toNat) (fun _ => [(d.toNat, 1)]) (planeLoad d.toNat m.toNat)) s)

/-- R220: `vstp`. -/
def execVstp (d : BitVec 6) (a t : BitVec 5) (m : BitVec 3) (s : State) : Host.Outcome State Fault Refusal :=
  done (vslot (getS s a) (getS s t) 0
    (runSlot .elem (planeCheck false d.toNat) (fun _ => []) (planeStore d.toNat m.toNat)) s)

/-! Whole registers (R221) -/

/-- Header word 0 of a spilled register. -/
def spillHeader (s : State) : Nat := 2 ^ 63 + s.hart.vlmax

/-- Lane words [first, VLMAX / 64). -/
def laneWords (body : Nat → State → State) (s : State) : State :=
  let lo := firstElem s
  loop (fun i t => if stopsAt t i then t else body i t) lo (limit s (s.hart.vlmax / 64) - lo) s

def spillRun (d : Nat) (s : State) : State :=
  let v := ringSrc s d
  let s1 := accessAt { wr := true, align := 64 } (cap0 s) 64 (firstElem s)
    (fun l t => accStore l 64 (spillHeader t) false t) s
  laneWords (fun i t =>
    accessAt (needStore 8) (cap0 t + word (64 + 8 * i)) 8 i
      (fun l u => accStore l 8 (elem t v i 64) (elemPois t v i 64) u) t) (ringNote [d] s1)

def fillRun (d : Nat) (s0 : State) : State :=
  let s := noteUndo d 64 1 1 s0
  let s1 := accessAt { rd := true, align := 64 } (cap0 s) 64 (firstElem s)
    (fun l t =>
      let x := accRead t l 8
      if x = spillHeader t then t else slotFault (firstElem t) cLength (word x) t) s
  laneWords (fun i t =>
    accessAt (needLoad 8) (cap0 t + word (64 + 8 * i)) 8 i (fun l u => setElem d i 64 (accRead u l 8) false u) t) s1

/-- R221: `vspill`. -/
def execVspill (d : BitVec 6) (a : BitVec 5) (s : State) : Host.Outcome State Fault Refusal :=
  done (vslot (getS s a) 0 0
    (runSlot .words (fun t => firstTrap [badOperand (!ringOkSrc t d.toNat 1) t]) (fun _ => []) (spillRun d.toNat)) s)

/-- R221: `vfill`. -/
def execVfill (d : BitVec 6) (a : BitVec 5) (s : State) : Host.Outcome State Fault Refusal :=
  done (vslot (getS s a) 0 0
    (runSlot .words (fun t => firstTrap [badOperand (inRing t d.toNat 1) t]) (fun _ => [(d.toNat, 1)]) (fillRun d.toNat)) s)

/-! Vector atomics (R228 to R230) -/

/-- The width of a vector atomic: `.w` or `.d`. -/
def amoWidth (w : BitVec 1) : Nat := if w = 0 then 32 else 64

/-- An element enters the core's combining buffer (R230). -/
def combEnter (op n pa v : Nat) (s : State) : State :=
  let c := myCore s
  let hit (e : CombEntry) : Bool := e.pa = pa && e.op = op && e.n = n
  if (getCore s c).comb.any hit then
    modCore c (fun k => { k with comb := k.comb.map (fun e => if hit e then { e with val := combMerge op n e.val v } else e) }) s
  else
    let s1 := combFlush c (fun e => overlaps e.pa e.n pa n) s
    let s2 := match (getCore s1 c).comb with
      | e :: _ => if 64 ≤ (getCore s1 c).comb.length then combFlush c (fun f => f = e) s1 else s1
      | [] => s1
    modCore c (fun k => { k with comb := k.comb ++ [{ pa := pa, op := op, n := n, val := v }] }) s2

/-- One element of a vector atomic, as one request at its home slice (R229): earlier stores of its bytes perform first. A
combining one leaves vd alone. -/
def amoElem (op : Nat) (comb : Bool) (d x w mask i : Nat) (s : State) : State :=
  let n := w / 8
  let p := governPois s mask i || srcPois s x i s.hart.sew
  accessAt (needAtomic n) (elemAddr s (.index x) n i) n i
    (fun l t =>
      let t1 := if buffered t l n then drainStores t else t
      let old := readLoc t1 l n
      let v := if comb then ringSrc s d else d
      let t2 := writeLoc l n (vamoF op n old (elem s v i w)) t1
      let t3 := if p || elemPois s v i w then poisonLoc l t2 else t2
      if comb then t3 else setElem d i w old p t3) s

/-- One element of a combining atomic: to memory it enters the buffer; to the window, or with a poisoned operand, it
performs as if uncombined (R87, R39). It reads vd, which may be the ring's base (R76). -/
def combElem (op d x w mask i : Nat) (s0 : State) : State :=
  let n := w / 8
  let s := pageOnce (i / 256) (elemAddr s0 (.index x) n i) s0
  let va := elemAddr s (.index x) n i
  match check s va n (needAtomic n), governPois s mask i || srcPois s x i s.hart.sew || srcPois s d i w with
  | .ok (.pa a) _ viol, false =>
    if exchangeHolds s 0 va n (.pa a) true then slotWait .stream s
    else
      let t := meetStreams va n (.pa a) true s
      combEnter op n a (srcElem t d i w) (noteViolation viol (if buffered t (.pa a) n then drainStores t else t))
  | _, _ => amoElem op true d x w mask i s

/-- R229, R230. -/
def amoRun (op : Nat) (comb : Bool) (d x w mask : Nat) (s : State) : State :=
  memElems mask (fun i t => if comb then combElem op d x w mask i t else amoElem op false d x w mask i t)
    (ringNote (if comb then [d, x] else [x]) (if comb then s else noteUndo d w 1 1 s))

/-- The checks at issue: the operand and result group has the atomic's width (R215, R228); a combining one only reads it
(R230). -/
def amoCheck (comb : Bool) (d x w : Nat) (s : State) : Option (Nat × Word) :=
  firstTrap
    [badVtype s,
     badOperand (s.hart.plane || !(if comb then srcOk s d w else dstOk s d w) || !srcOk s x s.hart.sew
        || (overlaps d (extent s w) x (extent s s.hart.sew) && !(d = x && extent s w = extent s s.hart.sew))) s]

def amoSlot (op : Nat) (d : BitVec 6) (a : BitVec 5) (x : BitVec 6) (m : BitVec 3) (c w : BitVec 1) (s : State) : State :=
  vslot (getS s a) 0 0
    (runSlot .elem (amoCheck (c = 1) d.toNat x.toNat (amoWidth w))
      (fun t => if c = 0 then [(d.toNat, extent t (amoWidth w))] else [])
      (amoRun op (c = 1) d.toNat x.toNat (amoWidth w) m.toNat)) s

/-- R229: add. -/
def execVamoAdd (d : BitVec 6) (a : BitVec 5) (x : BitVec 6) (m : BitVec 3) (c w : BitVec 1) (s : State) :
    Host.Outcome State Fault Refusal := done (amoSlot 0 d a x m c w s)

/-- R229: floating-point add. -/
def execVamoFadd (d : BitVec 6) (a : BitVec 5) (x : BitVec 6) (m : BitVec 3) (c w : BitVec 1) (s : State) :
    Host.Outcome State Fault Refusal := done (amoSlot 1 d a x m c w s)

/-- R229: signed minimum. -/
def execVamoMin (d : BitVec 6) (a : BitVec 5) (x : BitVec 6) (m : BitVec 3) (c w : BitVec 1) (s : State) :
    Host.Outcome State Fault Refusal := done (amoSlot 2 d a x m c w s)

/-- R229: signed maximum. -/
def execVamoMax (d : BitVec 6) (a : BitVec 5) (x : BitVec 6) (m : BitVec 3) (c w : BitVec 1) (s : State) :
    Host.Outcome State Fault Refusal := done (amoSlot 3 d a x m c w s)

/-- R229: and. -/
def execVamoAnd (d : BitVec 6) (a : BitVec 5) (x : BitVec 6) (m : BitVec 3) (c w : BitVec 1) (s : State) :
    Host.Outcome State Fault Refusal := done (amoSlot 4 d a x m c w s)

/-- R229: or. -/
def execVamoOr (d : BitVec 6) (a : BitVec 5) (x : BitVec 6) (m : BitVec 3) (c w : BitVec 1) (s : State) :
    Host.Outcome State Fault Refusal := done (amoSlot 5 d a x m c w s)

/-- R229: exclusive or. -/
def execVamoXor (d : BitVec 6) (a : BitVec 5) (x : BitVec 6) (m : BitVec 3) (c w : BitVec 1) (s : State) :
    Host.Outcome State Fault Refusal := done (amoSlot 6 d a x m c w s)

/-- R229: swap. -/
def execVamoSwap (d : BitVec 6) (a : BitVec 5) (x : BitVec 6) (m : BitVec 3) (c w : BitVec 1) (s : State) :
    Host.Outcome State Fault Refusal := done (amoSlot 7 d a x m c w s)

end Sys2Proof.Machine
end

