-- ==== Sys2Proof/Machine/Stream.lean ====
section
/-! DEFINITION. Streams (R58 to R69, R73, R223 to R227). A stream's data has moved when its convoy
retires, unless an earlier stream keeps it back in the copy queue; its last headland follows (log 10). -/

namespace Sys2Proof.Machine

/-! Ranges -/

/-- [va, va + n) lies wholly in one memory tile. -/
def inOneTile (va : Word) (n : Nat) : Bool :=
  inWindow va && decide (0 < n) && inWindow (va + word (n - 1)) && tileOf va = tileOf (va + word (n - 1))

/-- A side that lies in the window breaks R224 or R73. -/
def badSide (va : Word) (n : Nat) (dst : Bool) : Bool :=
  touchesWindow va n && (!inOneTile va n || (dst && va.toNat % 64 != 0))

/-! Elements of a stream: bytes under the plane width -/

/-- Bytes per unit of transfer. -/
def strUnit (s : State) : Nat := if s.hart.plane then 1 else s.hart.sew / 8
/-- Elements per unit. -/
def strPer (s : State) : Nat := if s.hart.plane then 8 else 1
/-- N of R224. -/
def strBytes (s : State) : Nat := if s.hart.plane then ceilDiv (vlN s) 8 else vlN s * (s.hart.sew / 8)

/-- The element at which a re-issued stream goes on (R65). -/
def strFirst (s : State) : Nat := if s.hart.iss.re then s.hart.iss.cell else 0

/-- What the sides of a stream need: it moves poison and reports it in the headland (R38). -/
def strSrc (eb : Nat) : Need := { rd := true, mtMax := 1, test := false, align := eb }
def strDst (eb : Nat) : Need := { wr := true, mtMax := 1, align := eb }

/-! Copy-queue entries -/

/-- Streams into a tile arrive one at a time: earlier ones end first, as far as they can (R73). -/
def clearTile (va : Word) (n : Nat) (s : State) : State :=
  if touchesWindow va n then
    (bySeq s (myCore s) ((range 0 16).filter (fun e =>
        let q := getCq s (myCore s) e
        q.live && touchesWindow q.dst q.bytes && tileOf q.dst = tileOf va))).foldl (fun t e => finishStream (myCore t) e t) s
  else s

/-- A stream into the tile of va is not over. -/
def tileTaken (s : State) (va : Word) (n : Nat) : Bool :=
  touchesWindow va n && (range 0 16).any (fun e =>
    let q := getCq s (myCore s) e
    q.live && touchesWindow q.dst q.bytes && tileOf q.dst = tileOf va)

/-- The lowest free entry of the core (R61). -/
def freeCq (s : State) : Option Nat := findFrom (fun e => (getCq s (myCore s) e).phase = 0) 0 16

/-- One entry that can go on to its last headland does. -/
def freeOne (s : State) : State :=
  match (bySeq s (myCore s) (range 0 16)).find? (fun e => (getCq (finishStream (myCore s) e s) (myCore s) e).phase = 0) with
    | some e => finishStream (myCore s) e s
    | none => s

/-- When no entry is free, room is made for one. -/
def makeRoom (s : State) : State := if (freeCq s).isSome then s else freeOne s

/-- The entry e of the current hart's stream, in its place among the accesses of the hart: that of its convoy, else now. -/
def putCq (e : Nat) (q : CqEntry) (s : State) : State :=
  let k := if s.hart.iss.seq = 0 then s.order else s.hart.iss.seq + s.hart.iss.act.slot
  { setCq (myCore s) e { q with hart := s.hn, seat := mySeat s, seq := k, asid := s.hart.asid } s with order := s.order + 1 }

/-- Free entries of the core's copy queue, once up to k of them have been made free where streams can end. -/
def roomFor (k : Nat) (s : State) : State × Nat :=
  let free (t : State) : Nat := ((range 0 16).filter (fun e => (getCq t (myCore t) e).phase = 0)).length
  let t := loop (fun _ u => if k ≤ free u then u else freeOne u) 0 k s
  (t, free t)

/-- A stream takes its entry as its convoy commits (R61): the act that holds its number plus 1; sd receives the number. -/
def reserveCq (a : Act) (s : State) : State × Act :=
  match freeCq s with
  | some e =>
    (deliverS (fld a.w.toNat 21 5) (word e) 0 (setCq (myCore s) e { phase := 3, hart := s.hn } s), { a with c2 := word (e + 1) })
  | none => (s, a)

/-- A stream takes an entry, whose number sd receives: the one that it took when its convoy committed (R61), else the lowest
free one; it waits when there is none. One that is issued again after a trap has released its entry takes the lowest free one, and sd
is written again with its number: R61, R65 and R224 do not say (DESIGN CHOICE, log 104). -/
def takeCq (d : Nat) (f : Nat → State → State) (s : State) : State :=
  if cap2 s ≠ 0 then f ((cap2 s).toNat - 1) s
  else
    let t := makeRoom s
    match freeCq t with
    | none => slotWait .stream t
    | some e => f e (deliverS d (word e) 0 t)

/-! Moving data -/

/-- What the stream in hand has met so far: poison 1, a transfer error 2; kept over a trap and a re-issue (R65, R67). -/
def strFlags (s : State) : Nat := Tab.get 0 s.hart.iss.flags s.hart.iss.act.slot
def noteFlags (po x : Bool) (s : State) : State :=
  if po || x then
    updIss (fun i => { i with
      flags := Tab.set 0 i.flags i.act.slot (Nat.lor (Tab.get 0 i.flags i.act.slot) (b2n po + 2 * b2n x)) }) s
  else s

/-- n bytes of a side at va, for element k: a failed check is a fault there; f gets the place. A stream translates a page once
(R32). -/
def strAt (need : Need) (va : Word) (n k : Nat) (f : Loc → State → State) (s0 : State) : State :=
  let s := pageOnce 0 va s0
  match check s va n need with
  | .trap c => slotFault k c va s
  | .hole pa => halt pa s
  | .ok l mt viol => pastL2 mt l n need.wr (f l) (noteViolation viol (combBefore l n s))

/-- Unit i of a plain stream. -/
def moveUnit (src dst : Word) (i : Nat) (s : State) : State :=
  let n := strUnit s; let k := i * strPer s
  if stopsAt s k then s
  else
    strAt (strSrc n) (src + word (i * n)) n k (fun l t =>
      let q := locPois t l n
      let v := accRead t l n
      strAt (strDst n) (dst + word (i * n)) n k (fun m u =>
        let x := xferFails u l m
        accStore m n v (q || x) (noteFlags q x (pastXfer l m u))) t) s

/-- Units [lo, hi) of a plain stream. -/
def moveUnits (src dst : Word) (lo hi : Nat) (s : State) : State := loop (moveUnit src dst) lo (hi - lo) s

/-- n bytes at va that a decoder reads for element k. -/
def partRead (va : Word) (n k : Nat) (s0 : State) : State × Nat :=
  let s := pageOnce 0 va s0
  match check s va n (strSrc 1) with
  | .trap c => (slotFault k c va s, 0)
  | .hole pa => (halt pa s, 0)
  | .ok l mt viol =>
    let t := noteViolation viol (combBefore l n s)
    (noteFlags (locPois t l n) (xferFails t l l) (pastXfer l l t), readPast mt t l n)

/-- A unit of 8 bytes at va: where it crosses into another page, each part is translated by its own (R225). -/
def unitRead (va : Word) (k : Nat) (s : State) : State × Nat :=
  let n := min 8 (131072 - va.toNat % 131072)
  let a := partRead va n k s
  if n = 8 ∨ a.1.hart.iss.bound.isSome = true then a
  else
    let b := partRead (va + word n) (8 - n) k a.1
    (b.1, a.2 + b.2 * 2 ^ (8 * n))

/-- The decoder reads units of its source until it is over; a failed read is a fault at the element that it had come
to. -/
def zrpRead (src : Word) (decl ew : Nat) : Nat → Zrp × State → Zrp × State
  | 0, p => p
  | k + 1, p =>
    if p.1.over decl || p.2.hart.iss.bound.isSome || p.2.stop.isSome then p
    else
      let u := unitRead (src + word (8 * p.1.units)) (min (p.1.count * 64 / ew) (vlN p.2)) p.2
      if u.1.hart.iss.bound.isSome || u.1.stop.isSome then (p.1, u.1)
      else zrpRead src decl ew k (p.1.unit decl u.2, u.1)

/-- Byte j of a list of 64-bit words. -/
def wordsByte (ws : List Nat) (j : Nat) : Nat := fld (nth 0 ws (j / 8)) (8 * (j % 8)) 8

/-- n bytes of a list of 64-bit words, from byte j. -/
def wordsBytes (ws : List Nat) (j : Nat) : Nat → Nat
  | 0 => 0
  | n + 1 => wordsByte ws j + 256 * wordsBytes ws (j + 1) n

/-- Units [lo, hi) of decoded words reach the destination. Poison or an error met anywhere in the source marks every unit
written: R67 does not say which bytes of a decoded output one source line's poison covers (DESIGN CHOICE, log 81). -/
def storeUnits (ws : List Nat) (dst : Word) (lo hi : Nat) (s : State) : State :=
  loop (fun i t =>
    let n := strUnit t; let k := i * strPer t
    if stopsAt t k then t
    else strAt (strDst n) (dst + word (i * n)) n k (fun m u =>
      let x := xferFails u m m
      accStore m n (wordsBytes ws (i * n) n) (strFlags u != 0 || x) (noteFlags false x (pastXfer m m u))) t) lo (hi - lo) s

/-- How a stream was written. -/
structure StrForm where
  bar : Bool
  strict : Bool
  zrp : Bool
  deriving DecidableEq, Repr

/-- D of R225. -/
def strDecl (s : State) : Nat := ceilDiv (vlN s * s.hart.sew) 64

/-- Bytes of the source that its interlock entry covers (R225). -/
def strSrcBytes (zrp : Bool) (s : State) : Nat := if zrp then 16 * strDecl s + 16 else strBytes s

/-- The entry of a stream of the current hart: phase 2 with the status that its headland will have; phase 1 while its data are
to move. -/
def strEntry (fm : StrForm) (e phase count : Nat) (mism : Bool) (s : State) : CqEntry :=
  { phase := phase
    status := statusWord 0 (nbit (strFlags s) 0) mism (nbit (strFlags s) 1) fm.strict fm.bar e count
    bar := fm.bar, zrp := fm.zrp, src := cap0 s, dst := cap1 s, bytes := strBytes s
    srcAt := pageFrames s (cap0 s) (strSrcBytes fm.zrp s), srcPg := leafUses s (cap0 s) (strSrcBytes fm.zrp s), dstAt := pageFrames s (cap1 s) (strBytes s), dstPg := leafUses s (cap1 s) (strBytes s)
    vl := vlN s, ew := if s.hart.plane then 1 else s.hart.sew }

/-- A stream has moved everything: it retires with its entry, or it has faulted and takes none (R64, R65). One of length zero
sends its headland as soon as it commits (R224). -/
def strRetire (fm : StrForm) (e : Nat) (mism : Bool) (count : Nat) (s : State) : State :=
  if s.hart.iss.wait.isSome || s.hart.iss.bound.isSome || s.stop.isSome then s
  else
    let s1 := putCq e (strEntry fm e 2 count mism s) s
    if vlN s = 0 then sendHeadland (myCore s1) e s1 else s1

/-- A misaligned side faults at element 0 (R224). -/
def strAligned (src dst : Word) (f : State → State) (s : State) : State :=
  let n := strUnit s
  if src.toNat % n ≠ 0 then slotFault 0 cMisaligned src s
  else if dst.toNat % n ≠ 0 then slotFault 0 cMisaligned dst s
  else f s

/-- An earlier stream, or an earlier store, keeps this one in its entry before it reads or writes (R28, R46, R72, R73). -/
def strBlocked (fm : StrForm) (s : State) : Bool :=
  let n := strSrcBytes fm.zrp s; let m := strBytes s
  let me := { strEntry fm 0 1 0 false s with hart := s.hn }
  (myStreams s).any (fun q => streamHits q (cap0 s) n (pageFrames s (cap0 s) n) false
      || streamHits q (cap1 s) m (pageFrames s (cap1 s) m) true || (q.phase = 1 && q.device && me.device))
    || tileTaken s (cap1 s) m || storesKeep s me

/-- Earlier stores and streams that this one would wait for end, as far as they can. -/
def strMeets (fm : StrForm) (s0 : State) : State :=
  let s := if me.device then sendAll t.hn t else t
  let n := strSrcBytes fm.zrp s; let m := strBytes s
  let s1 := meetRange (cap0 s) n (pageFrames s (cap0 s) n) false s
  clearTile (cap1 s1) m (meetRange (cap1 s1) m (pageFrames s1 (cap1 s1) m) true s1)
where
  /-- The stores have performed. -/
  t : State := drainStores s0
  /-- The entry as it will be. -/
  me : CqEntry := strEntry fm 0 1 0 false t

/-- The first unit of a side, from unit lo on, that cannot be reached (R65), as an element of its row. -/
def probeSide (va : Word) (lo total row : Nat) (need : Need) (s : State) : State :=
  let n := strUnit s
  loop (fun i t => if t.hart.iss.bound.isSome then t else match check t (va + word (i * n)) n need with
    | .trap c => slotFault (i % row * strPer t) c (va + word (i * n)) t
    | .hole pa => halt pa t
    | .ok _ _ viol => noteViolation viol t) lo (total / n - lo) s

/-- A plain stream whose entry waits behind an earlier one: with all of its pages translated it retires, and moves its data
later, from where it had come to (R64, R65, R72); else it waits at the head of the VQ, as does a compressed one, whose decoder has
to read. -/
def strLater (fm : StrForm) (e : Nat) (s : State) : State :=
  let lo := strFirst s / strPer s
  let t := probeSide (cap1 s) lo (strBytes s) (strBytes s) (strDst (strUnit s))
    (probeSide (cap0 s) lo (strBytes s) (strBytes s) (strSrc (strUnit s)) s)
  if fm.zrp || t.hart.iss.bound.isSome then slotWait .stream s
  else if t.stop.isSome then t
  else putCq e { strEntry fm e 1 (vlN t) false t with gone := lo * strUnit t, met := strFlags t } t

/-- `str.ld`, `str.st` and `str.cp` (R224, R225). -/
def strRun (fm : StrForm) (d : Nat) (s : State) : State :=
  let src := cap0 s; let dst := cap1 s
  takeCq d (fun e s0 => strAligned src dst (fun s1 =>
    let t := if vlN s1 = 0 then s1 else strMeets fm s1
    let lo := strFirst t / strPer t; let hi := ceilDiv (vlN t) (strPer t)
    if vlN t != 0 && strBlocked fm t then strLater fm e t
    else if fm.zrp && vlN t != 0 then
      let decl := strDecl t
      let r := zrpRead src decl t.hart.sew (2 * decl + 2) ({}, t)
      strRetire fm e (r.1.count != decl) r.1.count (storeUnits (r.1.words decl) dst lo hi r.2)
    else strRetire fm e false (vlN t) (moveUnits src dst lo hi t)) s0) s

/-- The checks at issue of a moving stream (R224): which sides must or must not lie in the window. The source of a `.zrp` stream has
no stated length: the bytes that its decoder may read count for the overlap, and those of one unit for the window (DESIGN
CHOICE, log 110). -/
def strCheck (srcWin dstWin : Option Bool) (overlap zrp : Bool) (s : State) : Option (Nat × Word) :=
  let n := strBytes s
  let src := cap0 s; let dst := cap1 s
  let m := if zrp then 16 * strDecl s + 16 else n
  let bad (want : Option Bool) (va : Word) : Bool := match want with
    | some true => !inOneTile va n
    | some false => touchesWindow va n
    | none => false
  firstTrap
    [badVtype s,
     badOperand (decide (0 < n) &&
        (bad srcWin src || bad dstWin dst || badSide src (if zrp then 8 else n) false || badSide dst n true
          || (overlap && overlaps src.toNat m dst.toNat n))) s]

def strSlot (srcWin dstWin : Option Bool) (overlap : Bool) (fm : StrForm) (d a b : BitVec 5) (s : State) : State :=
  vslot (getS s a) (getS s b) 0
    (runSlot .other (strCheck srcWin dstWin overlap fm.zrp) (fun _ => []) (strRun fm d.toNat)) s

/-- R223: memory to a tile of the window. -/
def execStrLd (d a b : BitVec 5) (z t r : BitVec 1) (s : State) : Host.Outcome State Fault Refusal :=
  done (strSlot (some false) (some true) false { bar := r = 1, strict := t = 1, zrp := z = 1 } d a b s)

/-- R223: a tile of the window to memory. -/
def execStrSt (d a b : BitVec 5) (t r : BitVec 1) (s : State) : Host.Outcome State Fault Refusal :=
  done (strSlot (some true) (some false) false { bar := r = 1, strict := t = 1, zrp := false } d a b s)

/-- R223: anywhere to anywhere. -/
def execStrCp (d a b : BitVec 5) (z t r : BitVec 1) (s : State) : Host.Outcome State Fault Refusal :=
  done (strSlot none none true { bar := r = 1, strict := t = 1, zrp := z = 1 } d a b s)

/-! The exchange (R58 to R60, R226) -/

/-- `str.xch`: the member's part waits in its entry until the gang is complete. -/
def xchRun (bar strict : Bool) (d : Nat) (s : State) : State :=
  takeCq d (fun e s0 => strAligned (cap0 s0) (cap1 s0) (fun s1 =>
    let n := (myGang s1).length * strBytes s1
    let t := probeSide (cap1 s1) 0 n (vlN s1) (strDst (strUnit s1)) (probeSide (cap0 s1) 0 n (vlN s1) (strSrc (strUnit s1)) s1)
    if t.hart.iss.bound.isSome || t.stop.isSome then t
    else
      let u := clearTile (cap1 t) n (meetRange (cap1 t) n (pageFrames t (cap1 t) n) true
        (meetRange (cap0 t) n (pageFrames t (cap0 t) n) false t))
      startExchange (mySeat u) (putCq e
        { phase := 1, xch := true, status := statusWord 1 false false false strict bar e 0, bar := bar
          src := cap0 u, dst := cap1 u, bytes := n, srcAt := pageFrames u (cap0 u) n, srcPg := leafUses u (cap0 u) n, dstAt := pageFrames u (cap1 u) n, dstPg := leafUses u (cap1 u) n
          rows := (myGang u).length
          vl := vlN u, ew := u.hart.sew } u)) s0) s

/-- The checks at issue of an exchange (R226). -/
def xchCheck (s : State) : Option (Nat × Word) :=
  let b := strBytes s
  let n := b * (myGang s).length
  firstTrap
    [badVtype s,
     badOperand (s.hart.plane || decide (b < 128) || decide (65536 < b) || b % 128 != 0
        || badSide (cap0 s) n false || badSide (cap1 s) n true || overlaps (cap0 s).toNat n (cap1 s).toNat n) s]

/-- R226: the transposition exchange of the gang. -/
def execStrXch (d a b : BitVec 5) (t r : BitVec 1) (s : State) : Host.Outcome State Fault Refusal :=
  done (vslot (getS s a) (getS s b) 0
    (runSlot .other xchCheck (fun _ => []) (xchRun (r = 1) (t = 1) d.toNat)) s)

/-! Waiting -/

/-- R227: the hart's stream on the entry sends its last headland, and the status word goes to sd. -/
def strWaitRun (d : Nat) (s : State) : State :=
  let e := wfld (cap0 s) 0 4
  let mine (t : State) : Bool :=
    let q := getCq t (myCore t) e
    q.live && q.hart = t.hn && q.frame.isNone
  let t := if mine s then finishStream (myCore s) e s else s
  if mine t then slotWait .stream t
  else
    let w := Tab.get 0 t.hart.strStat e
    if wbit w 57 && wbit w 59 then slotAfter cStreamLength w (resultWhole (.reg d w 0) t) else result (.reg d w 0) t

/-- R227: `str.wait`. -/
def execStrWait (d a : BitVec 5) (s : State) : Host.Outcome State Fault Refusal :=
  done (vslot (getS s a) 0 0 (runSlot .other (fun _ => none) (fun _ => []) (strWaitRun d.toNat)) s)

end Sys2Proof.Machine
end

