-- ==== Sys2Proof/Machine/Fabric.lean ====
section
/-! DEFINITION. Slots, binding and the fabric opcode (R96, R288 to R299). -/

namespace Sys2Proof.Machine

/-! Slots -/

def getSlot (s : State) (i : Nat) : FabSlot := Tab.get {} (getCore s (myCore s)).slots i
def putSlot (i : Nat) (f : FabSlot) (s : State) : State :=
  modCore (myCore s) (fun c => { c with slots := Tab.set {} c.slots i f }) s

/-- Slot i is bound for the current hart (R288). -/
def boundHere (s : State) (i : Nat) : Bool := (getSlot s i).valid && (getSlot s i).asid = wfld s.hart.asid 0 16

/-- n more tokens in `fstat`.DISCARD (R119). -/
def addDiscard (n : Nat) (s : State) : State :=
  updH (fun h => { h with fstat := word (putFld h.fstat.toNat 32 32 (min (2 ^ 32 - 1) (wfld h.fstat 32 32 + n))) }) s

/-! Draining (R291) -/

/-- Nodes fire for up to k clocks, while a token is on an arc; a part that meets a fault stands still, the others go on. -/
def Fab.drainGo : Nat → Fab → Fab
  | 0, g => g
  | k + 1, g =>
    if g.run.arcs.isEmpty then g
    else let h := g.turn; if !h.moved || h.st.stop.isSome then h else Fab.drainGo k h

/-- The hart under the bases and the address space of the slot's suspended invocation. -/
def inSlot (sl : FabSlot) (s : State) : State :=
  if sl.owner.isNone then s
  else updH (fun h => { h with asid := word sl.asid, ptbase := sl.ptbase, hstat := sl.hstat, tb := sl.tb }) s

/-- The hart of u under those of s again. -/
def offSlot (s u : State) : State :=
  updH (fun h => { h with asid := s.hart.asid, ptbase := s.hart.ptbase, hstat := s.hart.hstat, tb := s.hart.tb }) u

/-- The storage of a core's memory tiles in an image is released: what it held is read no more (R95), and its poison ends with it, though
the words are not cleared (R84 does not say; DESIGN CHOICE, log 105). -/
def cleanTiles (img : List Word) (s : State) : State :=
  let lo (m : Nat) : Nat := tileKey (myCore s) (m * 16384) / 64
  { s with tilePois := (fabTiles img 1).foldl (fun t m => Tab.drop (fun k => decide (lo m ≤ k ∧ k < lo m + 256)) t) s.tilePois }

/-- The tokens of slot i after 512 clocks, and the state that its outbound edges have left. -/
def drained (i : Nat) (s : State) : Fab :=
  let sl := getSlot s i
  let run := if sl.run.live then sl.run else freshRun sl.image
  Fab.drainGo 512 { st := s, run := run, img := sl.image, inject := false }

/-- Slot i is drained: its suspended state ends, and what it held is counted for the current hart. -/
def drainSlot (i : Nat) (s : State) : State :=
  let sl := getSlot s i
  let g := drained i (inSlot sl s)
  putSlot i { sl with run := {}, owner := none, tb := [], ptbase := 0, hstat := 0 }
    (addDiscard (g.discard + g.left true) (cleanTiles sl.image (offSlot s g.st)))

/-! Memory tiles (R96) -/

/-- The first address of memory tile m in the window. -/
def tileVa (m : Nat) : Word := word (0xFFFFFFFF80000 + m * 16384)

/-- Every byte, tag and poison mark of memory tile m goes, once the window accesses of the core's harts and the streams
into it have performed. -/
def clearStore (m : Nat) (s : State) : State :=
  let c := myCore s
  let s1 := (range (8 * c) 8).foldl (fun t n => asHart n drainStores t) s
  let s2 := clearTile (tileVa m) 16384 s1
  let lo := tileKey c (m * 16384)
  { s2 with
    tiles := Tab.drop (fun k => decide (lo ≤ k ∧ k < lo + 16384)) s2.tiles
    tilePois := Tab.drop (fun k => decide (lo / 64 ≤ k ∧ k < (lo + 16384) / 64)) s2.tilePois }

/-- Memory tile m enters a mode; a change clears it. -/
def setMode (m mode : Nat) (s : State) : State :=
  let k := myCore s * 32 + m
  if Tab.get 0 s.tileMode k = mode then s
  else let t := clearStore m s; { t with tileMode := Tab.set 0 t.tileMode k mode }

/-- The slots whose blocks overlap. -/
def overlapping (s : State) (blocks : Nat) : List Nat :=
  (range 0 16).filter (fun i => (getSlot s i).valid && Nat.land (imgBlocks (getSlot s i).image) blocks != 0)

/-- Bindings end: their memory tiles return to Unbound but for those that keep accepts. -/
def unbindSlots (is : List Nat) (keep : Nat → Bool) (s : State) : State :=
  is.foldl (fun t i =>
    let img := (getSlot t i).image
    putSlot i {} ((fabTiles img 1).foldl (fun u m => if keep m then u else setMode m 0 u) t)) s

/-! `fbind` (R290) -/

/-- 8-byte loads of n words at va: the words, or the cause and the address of a fault; they wait for an earlier stream (R72). -/
def readWords (va : Word) : Nat → Nat → State → State × Except (Nat × Word) (List Word)
  | 0, _, s => (s, .ok [])
  | n + 1, k, s =>
    let a := va + word (8 * k)
    match check s a 8 (needLoad 8) with
    | .trap c => (s, .error (c, a))
    | .hole pa => (halt pa s, .ok [])
    | .ok l mt viol =>
      if exchangeHolds s mt a 8 l false then (slotWait .stream s, .ok [])
      else
        let t := noteViolation viol (accessFirst mt a 8 l false s)
        let r := readWords va n (k + 1) t
        match r.2 with
        | .ok ws => (r.1, .ok (word (readPast mt t l 8) :: ws))
        | .error e => (r.1, .error e)

/-- The whole image at va. -/
def readImage (va : Word) (s : State) : State × Except (Nat × Word) (List Word) :=
  match readWords va 1 0 s with
  | (t, .ok (h :: _)) =>
    let r := readWords va (imgWords h - 1) 1 t
    (r.1, match r.2 with | .ok ws => .ok (h :: ws) | .error e => .error e)
  | (t, .ok []) => (t, .ok [])
  | (t, .error e) => (t, .error e)

/-- Steps 3 to 5: what overlaps is drained and ends, and the image takes slot i. -/
def bindImage (i : Nat) (va : Word) (img : List Word) (s : State) : State :=
  let b := imgBlocks img
  let old := (range 0 16).filter (fun k => (overlapping s b).contains k || (k = i && (getSlot s k).valid))
  let s1 := old.foldl (fun t k => drainSlot k t) s
  let s2 := unbindSlots old (fun m => (fabIdx img 1 m).isSome) s1
  let s3 := (fabTiles img 1).foldl (fun t m => setMode m (mMode (fabWord img 1 m)) t) s2
  let pa := match check s va 8 (needLoad 8) with
    | .ok (.pa pa) _ _ => pa
    | _ => 0
  putSlot i { valid := true, asid := wfld s.hart.asid 0 16, addr := pa, bytes := 8 * img.length, vaddr := va, image := img } s3

/-- The stream has still to write tile m, or to read it. -/
def CqEntry.usesTile (m : Nat) (q : CqEntry) : Bool :=
  q.live && ((touchesWindow q.dst q.bytes && tileOf q.dst = m)
    || (q.phase = 1 && touchesWindow q.src q.srcBytes && tileOf q.src = m))

/-- Streams into the image's memory tiles or out of them, and stores to them, go on as far as they can (R96). -/
def settleTiles (img : List Word) (s : State) : State :=
  (fabTiles img 1).foldl (fun t m =>
      (bySeq t (myCore t) ((range 0 16).filter (fun e => (getCq t (myCore t) e).usesTile m))).foldl (fun u e => finishStream (myCore u) e u) t)
    ((range (8 * myCore s) 8).foldl (fun t n => asHart n drainStores t) s)

/-- A convoy of another hart of the core, committed before the slot in hand, has still to reach tile m (R96), by what its captured
operands tell of its bytes; one whose addresses are not formed does not count (DESIGN CHOICE, log 112). -/
def queuedInTile (s : State) (m : Nat) : Bool :=
  let k := if s.hart.iss.seq = 0 then s.order else s.hart.iss.seq
  (range (8 * myCore s) 8).any (fun n =>
    if n = s.hn then false
    else
      let h := getHart s n
      if h.vq.isEmpty && h.mq.isEmpty then false
      else
        (vqLocks (switchTo n (setHart n { h with vq := h.vq.filter (fun e => decide (e.seq < k)) } s))).any
          (fun x => !x.wild && overlaps x.va x.bytes (tileVa m).toNat 16384))

/-- Some are not over: an exchange whose gang is not complete, a store that waits behind one. -/
def tilesBusy (img : List Word) (s : State) : Bool :=
  (fabTiles img 1).any (fun m => (range 0 16).any (fun e => (getCq s (myCore s) e).usesTile m) || queuedInTile s m
    || (range (8 * myCore s) 8).any (fun n => (getHart s n).storeBuf.any (fun e => match e.loc with
      | .tile o => o / 16384 = m
      | .pa _ => false)))

def fbindRun (d i : Nat) (s : State) : State :=
  let va := cap0 s
  let r := readImage va (noteViolation s.hart.pmode s)
  match r.2 with
  | .error (c, a) => slotAfter c a (resultWhole (.reg d (-1) 0) r.1)
  | .ok img =>
    if r.1.stop.isSome || r.1.hart.iss.wait.isSome then r.1
    else match malformedAt img with
      | some off => result (.reg d (word (1 + off * 65536)) 0) r.1
      | none =>
        let t := settleTiles img r.1
        if tilesBusy img t then slotWait .stream t else result (.reg d 0 0) (bindImage i va img t)

/-- A fabric-control slot in pure mode (R299, R375). -/
def fabCheck (s : State) : Option (Nat × Word) := firstTrap [(s.hart.pmode && !demotes s, cPurity, curWord s)]

/-- R290: `fbind`. -/
def execFbind (d a : BitVec 5) (i : BitVec 4) (s : State) : Host.Outcome State Fault Refusal :=
  done (vslot (getS s a) 0 0 (runSlot .other fabCheck (fun _ => []) (fbindRun d.toNat i.toNat)) s)

def funbindRun (i : Nat) (s : State) : State :=
  let t := noteViolation s.hart.pmode s
  if boundHere t i || (t.hart.sup && (getSlot t i).valid) then unbindSlots [i] (fun _ => false) (drainSlot i t) else t

/-- R292: `funbind`. -/
def execFunbind (i : BitVec 4) (s : State) : Host.Outcome State Fault Refusal :=
  done (vslot 0 0 0 (runSlot .other fabCheck (fun _ => []) (funbindRun i.toNat)) s)

def fdrainRun (i : Nat) (s : State) : State :=
  let t := noteViolation s.hart.pmode s
  if boundHere t i then drainSlot i t else t

/-- R292: `fdrain`. -/
def execFdrain (i : BitVec 4) (s : State) : Host.Outcome State Fault Refusal :=
  done (vslot 0 0 0 (runSlot .other fabCheck (fun _ => []) (fdrainRun i.toNat)) s)

/-! `fop` (R293 to R298) -/

/-- The lengths that a `fop` captures: the registers that the image of its slot names (R105, R413). -/
def fopLens (s : State) (i : Nat) : Word × Word :=
  let img := (getSlot s i).image
  let reg (r : Nat) : Word := if r = 0 then 0 else Tab.get 0 s.hart.sregs r
  (reg (imgLenA img), reg (imgLenB img))

/-- la and lb (R294): captured with the slot; a slot captured before its image was bound looks in what it captured. -/
def fopLen (s : State) (r : Nat) (c : Word) : Nat :=
  if r = 0 then 0
  else match s.hart.iss.act.regs with
    | some t => wfld (Tab.get 0 t r) 0 32
    | none => wfld c 0 32

def fopLa (s : State) (img : List Word) : Nat := fopLen s (imgLenA img) (cap0 s)
def fopLb (s : State) (img : List Word) : Nat := fopLen s (imgLenB img) (cap1 s)

/-- The image lies wholly inside the task's code range (R299). -/
def imageInCode (s : State) (sl : FabSlot) : Bool :=
  match boundTask s with
  | none => true
  | some t =>
    let lo := recField t.rc.bytes 0 8; let n := 16 * recField t.rc.bytes 20 4
    decide (lo ≤ sl.vaddr.toNat ∧ sl.vaddr.toNat + sl.bytes ≤ lo + n)

/-- A violation of R299. -/
def fopImpure (s : State) (sl : FabSlot) : Bool := s.hart.pmode && !imageInCode s sl

/-- The re-issued `fop` had begun on slot i when it stopped (R297, R298). -/
def fopAgain (s : State) (i : Nat) : Bool := s.hart.iss.re && s.hart.fopStop.contains i

/-- The slot's suspended state is the current hart's. -/
def fopMine (s : State) (i : Nat) : Bool := (getSlot s i).owner = some s.hn

/-- R294, in its order, with R298 and R299. -/
def fopCheck (x : Bool) (vd va vb i : Nat) (s : State) : Option (Nat × Word) :=
  let sl := getSlot s i; let img := sl.image; let w := s.hart.sew
  let sa := decide (imgLenA img ≠ 0); let sb := decide (imgLenB img ≠ 0); let sd := hasVd img
  firstTrap
    [badVtype s,
     (!boundHere s i, cFabSlot, word i),
     badOperand (s.hart.plane || (edgesWhere img (fun e => ePort e != 3)).any (fun e => 8 * eBytes (fabWord img 2 e) != w)) s,
     badOperand (decide (s.hart.maxVl < fopLa s img) || decide (s.hart.maxVl < fopLb s img)) s,
     badOperand ((sa && !srcOk s va w) || (sb && !srcOk s vb w) || (sd && !dstOk s vd w)
        || (sd && sa && !disjoint s vd w va w) || (sd && sb && !disjoint s vd w vb w)) s,
     ((x || fopAgain s i) && !fopMine s i, cFabState, word i),
     (fopImpure s sl && !demotes s, cPurity, curWord s)]

/-- The edge starts at an index of its stream and runs to lim. -/
def startEdge (e idx lim : Nat) (g : Fab) : Fab := g.setEdge e { g.edge e with idx := idx, pos := idx, lim := lim }

/-- fsidx j as a number. -/
def fsidxOf (s : State) (j : Nat) : Nat := (Tab.get 0 s.hart.fsidx j).toNat

/-- An invocation with x = 0 sets its inbound edges at `vstart` (R295). -/
def startFresh (la lb : Nat) (g : Fab) : Fab :=
  let img := g.img; let v := g.st.hart.vstart.toNat
  let n := if imgLenA img ≠ 0 then la else if imgLenB img ≠ 0 then lb else vlN g.st
  (edgesWhere img (fun w => !eOut w)).foldl (fun h e =>
    let w := fabWord img 2 e
    startEdge e v (if ePort w = 0 then la else if ePort w = 1 then lb else n) h) g

/-- Edge e goes on at index k of its stream (R295). Where that is not where it stopped, an inbound transpose reads its tile
anew from there. -/
def restartEdge (e k : Nat) (g : Fab) : Fab :=
  let w := fabWord g.img 2 e; let es := g.edge e
  if k = es.idx then g
  else if eXf w = 4 && !eOut w then g.setEdge e { es with idx := k, pos := k, buf := [], fifo := [] }
  else if eXf w = 1 then g.setEdge e { es with idx := k, count := k }
  else g.setEdge e { es with idx := k }

/-- A `fop.c` goes on at the indices of `fsidx`, the register streams up to the new lengths (R295). -/
def startAgain (la lb : Nat) (g : Fab) : Fab :=
  let img := g.img; let s := g.st
  let regs := (edgesWhere img (fun w => decide (ePort w ≤ 1))).foldl (fun h e =>
    let j := ePort (fabWord img 2 e)
    restartEdge e (fsidxOf s j) (h.setEdge e { h.edge e with lim := if j = 0 then la else lb })) g
  ((memEdges img).zip [2, 3]).foldl (fun h p => restartEdge p.1 (fsidxOf s p.2) h) regs

/-- `fsidx` as R295 to R297 record it: the next index of each stream. -/
def recordIdx (g : Fab) (la lb : Nat) (fin : Bool) (s : State) : State :=
  let img := g.img
  let put (j v : Nat) (t : State) : State := updH (fun h => { h with fsidx := Tab.set 0 h.fsidx j (BitVec.ofNat 32 v) }) t
  let reg (p len : Nat) (t : State) : State :=
    if fin then put p len t
    else match edgesWhere img (fun w => ePort w = p) with
      | e :: _ => put p (g.edge e).idx t
      | [] => put p len t
  ((memEdges img).zip [2, 3]).foldl (fun t q => put q.2 (g.edge q.1).idx t) (reg 1 lb (reg 0 la s))

/-- `fstat`.SLOT, and MORE when given. -/
def setFstat (i : Nat) (more : Option Bool) (s : State) : State :=
  updH (fun h =>
    let w := word (putFld h.fstat.toNat 1 4 i)
    { h with fstat := match more with | some b => setBit w 0 b | none => w }) s

/-- The invocation stops with its state suspended in the slot (R296, R297). -/
def fopSuspend (i la lb : Nat) (g : Fab) : State :=
  let s := addDiscard g.discard g.st
  let sl := getSlot s i
  recordIdx g la lb false
    (putSlot i { sl with
      run := g.run, owner := some s.hn, tb := s.hart.tb, ptbase := s.hart.ptbase, hstat := s.hart.hstat } s)

/-- The invocation is complete (R295). -/
def fopFinish (i la lb : Nat) (g : Fab) : State :=
  let n := if hasVd g.img then g.run.out else 0
  let s := addDiscard (g.discard + g.left false) (cleanTiles g.img g.st)
  let sl := getSlot s i
  updH (fun h => { h with vl := BitVec.ofNat 17 n, vstart := 0, fopStop := h.fopStop.filter (· != i) })
    (setFstat i (some false) (recordIdx g la lb true
      (putSlot i { sl with run := {}, owner := none, tb := [], ptbase := 0, hstat := 0 } s)))

/-- It stops with MORE (R296). -/
def fopMore (i la lb : Nat) (g : Fab) : State :=
  updH (fun h => { h with vl := BitVec.ofNat 17 h.maxVl, vstart := 0, fopStop := h.fopStop.filter (· != i) })
    (setFstat i (some true) (fopSuspend i la lb g))

/-- It stops with a fault (R297). -/
def fopStopped (i la lb : Nat) (g : Fab) : State :=
  updH (fun h => { h with fopStop := i :: h.fopStop.filter (· != i) }) (setFstat i none (fopSuspend i la lb g))

/-- A stop without a trap ends it between two elements (R298). -/
def fopHalted (i la lb : Nat) (g : Fab) : State :=
  slotHalt false g.run.out (updH (fun h => { h with vstart := BitVec.ofNat 17 g.run.out }) (fopStopped i la lb g))

/-- A `fop` that is over, but for one that began afresh while an earlier one of the hart on its slot is still to be issued again
(R297, R298). -/
def fopOver (i : Nat) (s t : State) : State := if fopAgain s i then t else updH (fun h => { h with fopStop := s.hart.fopStop }) t

/-- What an invocation that has gone as far as it can comes to. -/
def fopEnd (i la lb : Nat) (s : State) (g : Fab) : State :=
  if g.st.stop.isSome then g.st
  else match g.fault with
    | some (c, t) => slotFault g.run.out c t (fopStopped i la lb g)
    | none =>
      if g.more then fopOver i s (fopMore i la lb g)
      else if g.complete then fopOver i s (fopFinish i la lb g)
      else if s.hart.cut.isSome && !g.over then fopHalted i la lb g
      else slotWait .fabric s

/-- How an invocation begins: afresh, from the suspended state with new lengths (`fop.c`), or where it stopped. -/
def fopBegin (x : Bool) (vd va vb i m : Nat) (s : State) : Fab :=
  let sl := getSlot s i
  let la := fopLa s sl.image; let lb := fopLb s sl.image
  let g : Fab :=
    { st := s, run := { (if x || fopAgain s i then sl.run else freshRun sl.image) with live := true }, img := sl.image
      mask := m, va := va, vb := vb, vd := vd, room := s.hart.maxVl, seed := s.free }
  if fopAgain s i then { g with run := { g.run with out := firstElem s } }
  else
    let h := { g with run := { g.run with out := 0 } }
    if x then startAgain la lb h else startFresh la lb h

/-- The invocation goes on as far as it can, or to the round in which a stop comes (R295, R298). -/
def fopGo (x : Bool) (vd va vb i m : Nat) (s : State) : Fab :=
  let sl := getSlot s i
  let s1 := ringNote ((if imgLenA sl.image ≠ 0 then [va] else []) ++ (if imgLenB sl.image ≠ 0 then [vb] else []))
    (takeFree (noteViolation (fopImpure s sl) s))
  let s2 := if fopMine s i && !x && !fopAgain s i then drainSlot i s1 else s1
  Fab.go (s.hart.cut.getD (2 ^ 40)) (fopBegin x vd va vb i m (updH (fun h => { h with cut := none }) s2))

/-- A `fop` waits while another hart has the slot's invocation (R294); else it runs. -/
def fopRun (x : Bool) (vd va vb i m : Nat) (s : State) : State :=
  let sl := getSlot s i
  if sl.owner.isSome && !fopMine s i then slotWait .fabric s
  else fopEnd i (fopLa s sl.image) (fopLb s sl.image) s (fopGo x vd va vb i m s)

def fopSlot (x : Bool) (i : BitVec 4) (d a b : BitVec 6) (m : BitVec 3) (s : State) : State :=
  let l := fopLens s i.toNat
  vslot l.1 l.2 0
    (runSlot .other (fopCheck x d.toNat a.toNat b.toNat i.toNat)
      (fun t => if hasVd (getSlot t i.toNat).image then [(d.toNat, extent t t.hart.sew)] else [])
      (fopRun x d.toNat a.toNat b.toNat i.toNat m.toNat)) s

/-- R293, R295: `fop`. -/
def execFop (p : BitVec 4) (d a b : BitVec 6) (m : BitVec 3) (s : State) : Host.Outcome State Fault Refusal :=
  done (fopSlot false p d a b m s)

/-- R293, R296: `fop.c`. -/
def execFopC (p : BitVec 4) (d a b : BitVec 6) (m : BitVec 3) (s : State) : Host.Outcome State Fault Refusal :=
  done (fopSlot true p d a b m s)

end Sys2Proof.Machine
end

