-- ==== Sys2Proof/Machine/BitPlane.lean ====
section
/-! DEFINITION. Bit-plane instructions (R138, R139, R259 to R264) and batched small matrices (R144, R265 to R267). -/

namespace Sys2Proof.Machine

/-! The plane descriptor (R260) -/

def bpNa (w : Word) : Nat := wfld w 0 4 + 1
def bpNb (w : Word) : Nat := wfld w 4 4 + 1
def bpVb (w : Word) : Nat := wfld w 8 6
def bpNd (w : Word) : Nat := wfld w 16 4 + 1
def bpSga (w : Word) : Bool := wbit w 20
def bpSgb (w : Word) : Bool := wbit w 21
def bpSgd (w : Word) : Bool := wbit w 22
def bpSat (w : Word) : Bool := wbit w 23
def bpSh (w : Word) : Nat := wfld w 24 4
def bpRight (w : Word) : Bool := wbit w 28
def bpCc (w : Word) : Nat := wfld w 29 3
/-- ewb of R261. -/
def bpEwb (w : Word) : Nat := 8 * 2 ^ wfld w 32 2

/-- The value of element i of n planes from register v (R262). -/
def planeValue (s : State) (v n i : Nat) (sg : Bool) : Int :=
  let x := loop (fun k acc => acc + elem s (v + k) i 1 * 2 ^ k) 0 n 0
  if sg then sext x n else x

def planePois (s : State) (v n i : Nat) : Bool :=
  if s.hart.vpois.isEmpty then false else (range 0 n).any (fun k => elemPois s (v + k) i 1)

/-- Writes the low n bits of x to element i of the planes from v. -/
def setPlanes (v n i x : Nat) (p : Bool) (s : State) : State :=
  loop (fun k t => setElem (v + k) i 1 (fld x k 1) p t) 0 n s

/-- The fit of R262: clamped, or modulo 2^nd. -/
def planeFit (w : Word) (v : Int) : Nat :=
  let nd := bpNd w
  if bpSat w then
    (if bpSgd w then wrap (max (-(2 : Int) ^ (nd - 1)) (min ((2 : Int) ^ (nd - 1) - 1) v)) nd
     else (max 0 (min ((2 : Int) ^ nd - 1) v)).toNat)
  else wrap v nd

/-! Checks (R261, R264) -/

/-- A plane operand lies below `vnreg` and outside the ring but as vb. -/
def planesOk (s : State) (v n : Nat) : Bool := decide (v + n ≤ s.hart.vnreg) && ringOkSrc s v n

/-- R264: disjoint, or the same planes. -/
def planesClash (d nd v n : Nat) : Bool := overlaps d nd v n && !(d = v && nd = n)

/-- Illegal operands of an instruction that reads the planes src and writes nd planes from d. -/
def planeBad (s : State) (d nd : Nat) (src : List (Nat × Nat)) : Bool :=
  !s.hart.plane || wfld (cap1 s) 34 30 != 0 || wfld (cap1 s) 14 2 != 0
    || decide (s.hart.vnreg < d + nd) || inRing s d nd
    || src.any (fun v => !planesOk s v.1 v.2 || planesClash d nd v.1 v.2)

/-- A bit-plane slot over elements of the plane width; mask bit j governs elements 8j to 8j + 7. -/
def planeRun (m : Nat) (body : Nat → State → State) (s : State) : State :=
  let lo := firstElem s
  loop (fun i t => if governs t m (i / 8) then body i t else t) lo (limit s (vlN s) - lo) s

def planeSlot (b : BitVec 5) (bad : State → Bool) (dest : State → List (Nat × Nat)) (act : State → State) (s : State) : State :=
  vslot 0 (getS s b) 0 (runSlot .elem (fun t => firstTrap [badVtype t, badOperand (bad t) t]) dest act) s

/-- The planes that each destination plane register stands for, to be taken back above a trap (R264). -/
def notePlanes (d n : Nat) (s : State) : State := loop (fun k t => noteUndo (d + k) 1 1 1 t) 0 n s

/-- An instruction whose sources are planes and whose result v is written to nd planes from d under the fit of R262. All
source planes of an element are read before any destination plane is written. -/
def planeOp (d : BitVec 6) (b : BitVec 5) (m : BitVec 3) (src : Word → List (Nat × Nat)) (v : Word → State → Nat → Int)
    (s : State) : State :=
  planeSlot b (fun t => planeBad t d.toNat (bpNd (cap1 t)) (src (cap1 t)))
    (fun t => [(d.toNat, bpNd (cap1 t))])
    (fun t =>
      let w := cap1 t
      planeRun m.toNat (fun i u =>
        setPlanes d.toNat (bpNd w) i (planeFit w (v w u i))
          (governPois u m.toNat (i / 8) || (src w).any (fun x => planePois u (ringSrc u x.1) x.2 i)) u)
        (notePlanes d.toNat (bpNd w) (ringNote ((src w).map (·.1)) t))) s

def bpA (w : Word) (a : BitVec 6) (s : State) (i : Nat) : Int := planeValue s (ringSrc s a.toNat) (bpNa w) i (bpSga w)
def bpB (w : Word) (s : State) (i : Nat) : Int := planeValue s (ringSrc s (bpVb w)) (bpNb w) i (bpSgb w)

/-- R261: the element group of `vbtr` and `vbtri`. -/
def groupBad (s : State) (v n : Nat) : Bool :=
  v % 8 != 0 || decide (s.hart.vnreg < v + 8) || decide (8 * s.hart.vlmax < vlN s * bpEwb (cap1 s))
    || decide (bpEwb (cap1 s) < n)

/-- R262: an element group to planes. -/
def execVbtr (d a : BitVec 6) (b : BitVec 5) (m : BitVec 3) (s : State) : Host.Outcome State Fault Refusal :=
  done (planeSlot b
    (fun t => planeBad t d.toNat (bpNd (cap1 t)) [] || groupBad t a.toNat (bpNd (cap1 t))
      || !ringOkSrc t a.toNat 8 || overlaps d.toNat (bpNd (cap1 t)) a.toNat 8)
    (fun t => [(d.toNat, bpNd (cap1 t))])
    (fun t =>
      let w := cap1 t
      planeRun m.toNat (fun i u =>
        setPlanes d.toNat (bpNd w) i (srcElem u a.toNat i (bpEwb w))
          (governPois u m.toNat (i / 8) || srcPois u a.toNat i (bpEwb w)) u)
        (notePlanes d.toNat (bpNd w) (ringNote [a.toNat] t))) s)

/-- R262: planes to an element group. -/
def execVbtri (d a : BitVec 6) (b : BitVec 5) (m : BitVec 3) (s : State) : Host.Outcome State Fault Refusal :=
  done (planeSlot b
    (fun t => !t.hart.plane || wfld (cap1 t) 34 30 != 0 || wfld (cap1 t) 14 2 != 0
      || !planesOk t a.toNat (bpNa (cap1 t)) || groupBad t d.toNat (bpNa (cap1 t)) || inRing t d.toNat 8
      || overlaps d.toNat 8 a.toNat (bpNa (cap1 t)))
    (fun _ => [(d.toNat, 8)])
    (fun t =>
      let w := cap1 t
      planeRun m.toNat (fun i u =>
        setElem d.toNat i (bpEwb w) (wrap (bpA w a u i) (bpEwb w))
          (governPois u m.toNat (i / 8) || planePois u (ringSrc u a.toNat) (bpNa w) i) u)
        (noteUndo d.toNat (bpEwb w) 1 1 (ringNote [a.toNat] t))) s)

/-- R262: a + b. -/
def execVbadd (d a : BitVec 6) (b : BitVec 5) (m : BitVec 3) (s : State) : Host.Outcome State Fault Refusal :=
  done (planeOp d b m (fun w => [(a.toNat, bpNa w), (bpVb w, bpNb w)]) (fun w t i => bpA w a t i + bpB w t i) s)

/-- R262: d + a × b. -/
def execVbmac (d a : BitVec 6) (b : BitVec 5) (m : BitVec 3) (s : State) : Host.Outcome State Fault Refusal :=
  done (planeOp d b m (fun w => [(a.toNat, bpNa w), (bpVb w, bpNb w), (d.toNat, bpNd w)])
    (fun w t i => planeValue t d.toNat (bpNd w) i (bpSgd w) + bpA w a t i * bpB w t i) s)

/-- R262: a comparison into one plane. -/
def execVbcmp (d a : BitVec 6) (b : BitVec 5) (m : BitVec 3) (s : State) : Host.Outcome State Fault Refusal :=
  done (planeSlot b
    (fun t =>
      let w := cap1 t
      planeBad t d.toNat 1 [(a.toNat, bpNa w), (bpVb w, bpNb w)] || decide (5 < bpCc w))
    (fun _ => [(d.toNat, 1)])
    (fun t =>
      let w := cap1 t
      planeRun m.toNat (fun i u =>
        setElem d.toNat i 1 (b2n (ccInt (bpCc w) (bpA w a u i - bpB w u i)))
          (governPois u m.toNat (i / 8) || planePois u (ringSrc u a.toNat) (bpNa w) i
            || planePois u (ringSrc u (bpVb w)) (bpNb w) i) u)
        (notePlanes d.toNat 1 (ringNote [a.toNat, bpVb w] t))) s)

/-- R262: the number of 1 bits among A's planes. -/
def execVbpopc (d a : BitVec 6) (b : BitVec 5) (m : BitVec 3) (s : State) : Host.Outcome State Fault Refusal :=
  done (planeOp d b m (fun w => [(a.toNat, bpNa w)])
    (fun w t i => (popcount (planeValue t (ringSrc t a.toNat) (bpNa w) i false).toNat (bpNa w) : Nat)) s)

/-- R262: a shifted by SH. -/
def execVbshl (d a : BitVec 6) (b : BitVec 5) (m : BitVec 3) (s : State) : Host.Outcome State Fault Refusal :=
  done (planeOp d b m (fun w => [(a.toNat, bpNa w)])
    (fun w t i => if bpRight w then bpA w a t i / (2 : Int) ^ bpSh w else bpA w a t i * (2 : Int) ^ bpSh w) s)

/-! Batched small matrices -/

/-- FA, FB and FD of R266, and no block scales. -/
def badBatch (w : Word) : Bool :=
  badCommon w true
    || !((isMain (fmtA w) && isMain (fmtB w) && isMain (fmtD w)) || (fmtA w = 9 && fmtB w = 9 && fmtD w = 12))
    || fmtBsa w != 0 || fmtBsb w != 0 || fmtBsd w != 0

/-- Integer results wrap, or saturate under SAT (R132). -/
def fitInt (n : Nat) (sat : Bool) (i : Int) : Nat :=
  if sat then wrap (max (-(2 : Int) ^ (n - 1)) (min ((2 : Int) ^ (n - 1) - 1) i)) n else wrap i n

/-- One fused step of R267: the accumulator's bits and two operands' bits, with the SR index. -/
def batchStep (w : Word) (first : Bool) (acc x y i : Nat) : Nat :=
  if fmtD w = 12 then fitInt 32 (fmtSat w) (sext acc 32 + sext x 8 * sext y 8)
  else
    roundD w (fAdd (fmtRnd w) (decode (fmtD w) acc (first && fmtFtzi w))
      (fMul (decode (fmtA w) x (fmtFtzi w)) (decode (fmtB w) y (fmtFtzi w)))) i

/-- Elements of A, B and D in one item (R266). -/
def itemSizes (mv : Bool) (k : Nat) : Nat × Nat × Nat := if mv then (k * k, k, k) else (k * k, k * k, k * k)

/-- One output element: output e of item b stands at row r and column c. -/
def batchElem (mv : Bool) (k : Nat) (w : Word) (d a b item e : Nat) (p : Bool) (s : State) : State :=
  let wa := fmtStore (fmtA w); let wb := fmtStore (fmtB w); let wd := fmtStore (fmtD w)
  let r := if mv then e else e / k
  let c := if mv then 0 else e % k
  let ia (j : Nat) := item * (k * k) + r * k + j
  let ib (j : Nat) := if mv then item * k + j else item * (k * k) + j * k + c
  let id := item * (itemSizes mv k).2.2 + e
  let acc := loop (fun j acc =>
    batchStep w (j = 0) acc (srcElem s a (ia j) wa) (srcElem s b (ib j) wb) (id * 8 + j)) 0 k (elem s d id wd)
  let q := elemPois s d id wd || (range 0 k).any (fun j => srcPois s a (ia j) wa || srcPois s b (ib j) wb)
  setElem d id wd acc (p || q) s

/-- The checks of R266. -/
def batchCheck (mv : Bool) (k d a b : Nat) (s : State) : Option (Nat × Word) :=
  let w := cap2 s
  let wa := fmtStore (fmtA w); let wb := fmtStore (fmtB w); let wd := fmtStore (fmtD w)
  let sz := itemSizes mv k
  let short (n wx : Nat) : Bool := decide (extent s wx * s.hart.vlmax / wx < vlN s * n)
  firstTrap
    [badVtype s, badFormat (badBatch w) s,
     badOperand (s.hart.plane || !srcOk s a wa || !srcOk s b wb || !dstOk s d wd
        || short sz.1 wa || short sz.2.1 wb || short sz.2.2 wd
        || !disjoint s d wd a wa || !disjoint s d wd b wb) s]

/-- R267: items are counted; an item is completed whole. -/
def batchRun (mv : Bool) (k m d a b : Nat) (s : State) : State :=
  let w := cap2 s
  let n := (itemSizes mv k).2.2
  overElems m (firstElem s) (limit s (vlN s)) (fun item t =>
    loop (fun e u => batchElem mv k w d a b item e (governPois t m item) u) 0 n t)
    (noteUndo d (fmtStore (fmtD w)) n 1 (ringNote [a, b] s))

def batchSlot (mv : Bool) (d a b : BitVec 6) (m : BitVec 3) (k f : BitVec 2) (s : State) : State :=
  let n := 2 * 2 ^ k.toNat
  vslot 0 0 (fmtReg s f) (runSlot .elem (batchCheck mv n d.toNat a.toNat b.toNat)
    (fun t => [(d.toNat, extent t (fmtStore (fmtD (cap2 t))))]) (batchRun mv n m.toNat d.toNat a.toNat b.toNat)) s

/-- R267: products of k × k matrices. -/
def execVbmm (d a b : BitVec 6) (m : BitVec 3) (k f : BitVec 2) (s : State) : Host.Outcome State Fault Refusal :=
  done (batchSlot false d a b m k f s)

/-- R267: products of k × k matrices and vectors. -/
def execVbmv (d a b : BitVec 6) (m : BitVec 3) (k f : BitVec 2) (s : State) : Host.Outcome State Fault Refusal :=
  done (batchSlot true d a b m k f s)

end Sys2Proof.Machine
end

