-- ==== Sys2Proof/Machine/Matrix.lean ====
section
/-! DEFINITION. Matrix attachment, multiply-accumulate and accumulator moves (R116, R143, R268 to R275, R368, R369). -/

namespace Sys2Proof.Machine

/-! Accumulators -/

/-- The 32 bits of T[r][c]. -/
def accElem (h : Hart) (t r c : Nat) : Nat := (Tab.get 0 h.acc (48 * t + r)).toNat / 2 ^ (32 * c) % 2 ^ 32

/-- The 64-bit word that holds T[r][c]: its key in the poison table (R39). -/
def accKey (t r c : Nat) : Nat := 512 * (48 * t + r) + c / 2

def accElemPois (s : State) (t r c : Nat) : Bool := Tab.get false s.hart.accPois (accKey t r c)

/-- The poison of a word of an accumulator after the write of T[r][c] (R39). -/
def coverAcc (key half : Nat) (p : Bool) (h : Hart) : Hart :=
  if !p && !Tab.get false h.accPois key then h
  else
    let c := coverBits (131072 + key) (32 * half) 32 (!p) h
    { c.1 with accPois := Tab.set false h.accPois key (!c.2) }

/-- Writes T[r][c]; pois: the value is poisoned; clean: the instruction does not read the word (R39). -/
def setAcc (t r c x : Nat) (pois clean : Bool) (s : State) : State :=
  updH (fun h =>
    let key := accKey t r c
    let h1 := { h with
      acc := Tab.set 0 h.acc (48 * t + r) (BitVec.ofNat 32768 (putFld (Tab.get 0 h.acc (48 * t + r)).toNat (32 * c) 32 x)) }
    coverAcc key (c % 2) (pois || (!clean && Tab.get false h.accPois key)) h1) s

/-! The shape (R119, R270) -/

/-- The first column of the matrix slot in hand. -/
def shapeCol0 (h : Hart) : Nat := wfld h.iss.act.mshape 32 10

/-- The limits of R119 and R270 are broken; tooTall is the instruction's own bound on R. -/
def shapeBad (s : State) (tooTall : Nat → Bool) : Bool :=
  let h := s.hart
  let rows := wfld h.iss.act.mshape 0 6
  decide (h.rows < rows) || rows % 12 != 0 || decide (1024 < shapeCol0 h + shapeCols h)
    || tooTall (shapeRows h) || decide (h.vlmax < 32 * shapeCols h)

/-- A matrix instruction without an attachment (R270). -/
def noAttach (s : State) : Bool × Nat × Word := (decide (s.hart.rows = 0), cMatrix, curWord s)

/-! Multiply-accumulate -/

/-- Formats of R271: both floating (2 to 8) or both integer, of one storage width; FD to match. -/
def badMatrixFmt (vnreg : Nat) (w : Word) : Bool :=
  let fl (c : Nat) : Bool := decide (2 ≤ c ∧ c ≤ 8)
  let ic (c : Nat) : Bool := c = 9 || c = 10 || c = 13 || c = 14
  badCommon w true
    || !((fl (fmtA w) && fl (fmtB w) && fmtD w = 1) || (ic (fmtA w) && ic (fmtB w) && fmtD w = 12))
    || fmtStore (fmtA w) != fmtStore (fmtB w) || fmtBsd w != 0
    || decide (1 < fmtBsa w) || decide (1 < fmtBsb w)
    || (fmtBsa w = 1 && decide (vnreg ≤ fmtSreg w)) || (fmtBsb w = 1 && decide (vnreg ≤ fmtSreg w + 1))

/-- K-values of a container. -/
def kcOf (w : Word) : Nat := 32 / fmtStore (fmtA w)

/-- The element of A that is the K-value at container q and place j of row r: as stored, or unpacked by the mask, which leaves
some positions out (R273). -/
def matPlace (sparse : Option Nat) (w : Word) (s : State) (r q j : Nat) : Option Nat :=
  let kc := kcOf w
  match sparse with
  | none => some (kc * (8 * r + q) + j)
  | some m =>
    let base := 8 * kc * r
    let u := kc * q + j
    let t := popcount ((getM s m).toNat / 2 ^ base) u
    if maskBit s m (base + u) && decide (t < 4 * kc) then some (kc * (4 * r) + t) else none

/-- The exact sum of container q (R143), scaled under BSA and BSB. A position that is left out contributes 0, whatever B holds
there (R273). -/
def containerSum (sparse : Option Nat) (w : Word) (s : State) (a b r c q : Nat) : FVal :=
  let kc := kcOf w
  loop (fun j acc => match matPlace sparse w s r q j with
    | none => acc
    | some i =>
    let x := decode (fmtA w) (srcElem s a i (fmtStore (fmtA w))) (fmtFtzi w)
    let y := decode (fmtB w) (srcElem s b (kc * c + j + q * (s.hart.vlmax / fmtStore (fmtB w))) (fmtStore (fmtB w))) (fmtFtzi w)
    let x' := if fmtBsa w = 1 then fMul x (scaleVal s (fmtSreg w) r) else x
    let y' := if fmtBsb w = 1 then fMul y (scaleVal s (fmtSreg w + 1) c) else y
    fAdd (fmtRnd w) acc (fMul x' y')) 0 kc (.fin false 0 0)

/-- The integer that a container sum adds (R143): the exact sum, or under a scale the sum converted to INT32. -/
def containerInt (w : Word) (sum : FVal) (i : Nat) : Int :=
  match sum, fmtBsa w = 0 && fmtBsb w = 0 with
  | .fin s m e, true => if s then -((m * 2 ^ e.toNat : Nat) : Int) else ((m * 2 ^ e.toNat : Nat) : Int)
  | v, _ => sext (roundToInt 32 true (rndOf w i) v) 32

/-- One container joins the accumulator (R143): one rounding, or integer arithmetic that wraps or saturates. -/
def accStep (w : Word) (first : Bool) (acc : Nat) (sum : FVal) (i : Nat) : Nat :=
  if fmtD w = 12 then fitInt 32 (fmtSat w) (sext acc 32 + containerInt w sum i)
  else roundD w (fAdd (fmtRnd w) (decode 1 acc (first && fmtFtzi w)) sum) i

/-- Sources of T[r][c] that are poisoned: the K-values of A and B that it reads, scales, the accumulator. -/
def matPois (sparse : Option Nat) (w : Word) (s : State) (t a b r c : Nat) : Bool :=
  let kc := kcOf w; let width := fmtStore (fmtA w)
  accElemPois s t r (shapeCol0 s.hart + c)
    || (!s.hart.vpois.isEmpty
      && ((range 0 8).any (fun q => (range 0 kc).any (fun j => match matPlace sparse w s r q j with
            | some i => srcPois s a i width || srcPois s b (kc * c + j + q * (s.hart.vlmax / width)) width
            | none => false))
        || (fmtBsa w = 1 && srcPois s (fmtSreg w) r 8) || (fmtBsb w = 1 && srcPois s (fmtSreg w + 1) c 8)))

/-- R272, R273. -/
def macRun (sparse : Option Nat) (t a b m : Nat) (s : State) : State :=
  let w := cap2 s
  let rows := shapeRows s.hart; let cols := shapeCols s.hart; let c0 := shapeCol0 s.hart
  let maskBad (r : Nat) : Bool := match sparse with
    | none => governPois s m r
    | some k => (range 0 (8 * kcOf w)).any (fun u => maskPois s k (8 * kcOf w * r + u))
  loop (fun r st =>
    if sparse.isSome || governs s m r then
      loop (fun c u =>
        let x := loop (fun q acc => accStep w (q = 0) acc (containerSum sparse w s a b r c q) (1024 * r + c)) 0 8
          (accElem s.hart t r (c0 + c))
        setAcc t r (c0 + c) x (maskBad r || matPois sparse w s t a b r c) false u) 0 cols st
    else st) 0 rows
    (ringNote ([a, b] ++ (if fmtBsa w = 1 then [fmtSreg w] else []) ++ (if fmtBsb w = 1 then [fmtSreg w + 1] else [])) s)

/-- The checks of R270 and R271. -/
def macCheck (sparse : Bool) (a b : Nat) (s : State) : Option (Nat × Word) :=
  let w := cap2 s
  let lim := s.hart.vlmax
  firstTrap
    [noAttach s, badVtype s, badFormat (badMatrixFmt s.hart.vnreg w) s,
     badOperand (shapeBad s (fun r => if sparse then decide (lim < 128 * r) || decide (lim / 8 < 8 * kcOf w * r)
         else decide (lim < 256 * r))
       || !ringOkSrc s a 1 || !ringOkSrc s b 8
       || (fmtBsa w = 1 && !ringOkSrc s (fmtSreg w) 1) || (fmtBsb w = 1 && !ringOkSrc s (fmtSreg w + 1) 1)) s]

/-- R272: `mmac`. -/
def execMmac (c : BitVec 2) (a b : BitVec 6) (m f : BitVec 3) (s : State) : Host.Outcome State Fault Refusal :=
  done (vslot 0 0 (fmtReg s f)
    (runSlot .other (macCheck false a.toNat b.toNat) (fun _ => []) (macRun none c.toNat a.toNat b.toNat m.toNat)) s)

/-- R273: `mmacs`; the mask gives A's uncompressed pattern. -/
def execMmacs (c : BitVec 2) (a b : BitVec 6) (m f : BitVec 3) (s : State) : Host.Outcome State Fault Refusal :=
  done (vslot 0 0 (fmtReg s f)
    (runSlot .other (macCheck true a.toNat b.toNat) (fun _ => []) (macRun (some m.toNat) c.toNat a.toNat b.toNat 0)) s)

/-! Accumulator moves (R274) -/

/-- The checks of R270 for a move. -/
def moveCheck (s : State) : Option (Nat × Word) := firstTrap [noAttach s, badOperand (shapeBad s (fun _ => false)) s]

/-- Active elements of R274 from element k to element lim. -/
def accMoves (m k lim : Nat) (body : Nat → Nat → Nat → State → State) (s : State) : State :=
  let cols := shapeCols s.hart; let c0 := shapeCol0 s.hart
  loop (fun i t => if t.hart.iss.mqFault.isSome || t.hart.iss.wait.isSome || t.stop.isSome then t
    else if governs t m (i / cols) then body i (i / cols) (c0 + i % cols) t else t) k (lim - k) s

/-- The MQ keeps a move that has come to element k (R274). -/
def moveKept (k : Nat) (h : Hart) : Hart := { h with mq := { act := h.iss.act, prog := k, seq := h.iss.seq } :: h.mq }

/-- A move faults at element k: its entry of the MQ keeps k (R274). -/
def moveFault (k cause : Nat) (tval : Word) (s : State) : State :=
  updH (fun h =>
    moveKept k { h with
      iss := { h.iss with mqFault := some { slot := h.iss.act.slot, elem := k, cause := cause, tval := tval } } }) s

/-- Where a stop that has come ends a move from element k on: at a row boundary (R274). -/
def moveEnd (h : Hart) (k : Nat) : Nat :=
  match h.cut with
  | none => moveCount h
  | some n => min (moveCount h) (max k ((k / shapeCols h + n) * shapeCols h))

/-- The move has come to the row boundary lim at which a stop ends it; the MQ keeps what is left of it. -/
def moveStop (lim : Nat) (s : State) : State :=
  let i := s.hart.iss
  if i.mqFault.isSome || i.wait.isSome || s.stop.isSome then s
  else if lim < moveCount s.hart then
    slotHalt true lim (updH (moveKept lim) s)
  else updH (fun h => { h with cut := none }) s

/-- The access of one element. -/
def moveAt (need : Need) (i : Nat) (f : Loc → State → State) (s : State) : State :=
  let va := cap0 s + word (4 * i)
  match check s va 4 need with
  | .trap c => moveFault i c va s
  | .hole pa => halt pa s
  | .ok l mt viol =>
    let t := if need.rd && partlyBuffered s l 4 then drainStores s else s
    if exchangeHolds t mt va 4 l need.wr || (need.rd && partlyBuffered t l 4) then slotWait .stream s
    else pastL2 mt l 4 need.wr (f l) (noteViolation viol (accessFirst mt va 4 l need.wr t))

/-- `mst` from element k. -/
def mstFrom (t m k : Nat) (s : State) : State :=
  let lim := moveEnd s.hart k
  moveStop lim (accMoves m k lim (fun i r c u =>
    moveAt (needStore 4) i (fun l v => accStore l 4 (accElem v.hart t r c) (accElemPois v t r c || governPois v m r) v) u) s)

/-- `mld` from element k. -/
def mldFrom (t m k : Nat) (s : State) : State :=
  let lim := moveEnd s.hart k
  moveStop lim (accMoves m k lim (fun i r c u =>
    moveAt (needLoad 4) i (fun l v => setAcc t r c (accRead v l 4) (governPois v m r) true v) u) s)

/-- R274: `mzero`. -/
def execMzero (c : BitVec 2) (m : BitVec 3) (s : State) : Host.Outcome State Fault Refusal :=
  done (vslot 0 0 0 (runSlot .other moveCheck (fun _ => [])
    (fun t => accMoves m.toNat 0 (moveCount t.hart) (fun _ r k u =>
      setAcc c.toNat r k 0 (governPois u m.toNat r) true u) t)) s)

/-- R274: `mst`. -/
def execMst (c : BitVec 2) (a : BitVec 5) (m : BitVec 3) (s : State) : Host.Outcome State Fault Refusal :=
  done (vslot (getS s a) 0 0 (runSlot .other moveCheck (fun _ => []) (mstFrom c.toNat m.toNat 0)) s)

/-- R274: `mld`. -/
def execMld (c : BitVec 2) (a : BitVec 5) (m : BitVec 3) (s : State) : Host.Outcome State Fault Refusal :=
  done (vslot (getS s a) 0 0 (runSlot .other moveCheck (fun _ => []) (mldFrom c.toNat m.toNat 0)) s)

/-- The entry at the head of the MQ goes on after `eret`, a resume or a stop (R406, R274). -/
def mqResume (e : MqEntry) (rest : List MqEntry) (s : State) : State :=
  let w := e.act.w.toNat
  let run := if fld w 0 6 = 3 then mstFrom else mldFrom
  let s0 := inSpace e.space (updH (fun h => { h with mq := rest, iss := { group := true, act := e.act, seq := e.seq } }) s)
  let t := run (fld w 24 2) (fld w 9 3) e.prog s0
  let s1 := inSpace (e.space.map (fun _ => s.hart.here))
    (updH (fun h => { h with mq := h.mq.map (fun m => if m.act = e.act then { m with space := e.space } else m) }) t)
  let back (t : State) : State := updH (fun h => { h with iss := {}, vwait := none }) t
  match s1.hart.iss.wait, s1.hart.iss.mqFault with
  | some r, _ => holdQueue r s
  | none, some f => scalarTrap (word f.cause) f.tval (resumePoint s) (back s1)
  | none, none => back s1

/-! Attachment (R269, R368, R369) -/

/-- R_req under this `mshape`. -/
def rowsAsked (shape : Word) : Nat :=
  let r := wfld shape 0 6
  if r = 0 ∨ 48 < r then 48 else ceilDiv r 12 * 12

/-- The rows that a hart waits for: those of its frame (R369), or R_req of the `mattach` that it is at. -/
def rowsWanted (h : Hart) : Nat :=
  match h.rowsDue with
  | some d => d.2
  | none =>
    if h.iss.group then rowsAsked h.iss.act.mshape
    else match h.vq with
      | [] => rowsAsked h.mshape
      | e :: _ => rowsAsked (((e.acts.find? (fun a => isAttachWord a.w.toNat)).map (·.mshape)).getD h.mshape)

/-- Rows that must be free before the hart gets any: 12, or all of those of its frame (R369). -/
def rowsNeeded (h : Hart) : Nat :=
  match h.rowsDue with
  | some d => d.2
  | none => 12

/-- When the hart began to wait for rows. -/
def attachSince (h : Hart) : Nat := if h.vwait = some .attach then h.vsince else h.since

/-- Rows that displaced contexts of core c keep (R369). -/
def frameRows (s : State) (c : Nat) : Nat :=
  ((getCluster s (c / 16)).frames.map (fun e => if e.2.home = c then e.2.rows else 0)).sum

/-- Core c holds an attachment. -/
def coreAttached (s : State) (c : Nat) : Bool :=
  (range (8 * c) 8).any (fun n => decide (0 < (getHart s n).rows)) || decide (0 < frameRows s c)

/-- Harts of the quad that wait in `mattach` and whose core holds no attachment, in the order of R368. -/
def attachQueue (s : State) (quad : Nat) : List Nat :=
  let ws := (range (32 * quad) 32).filter (fun n =>
    (getHart s n).waitsFor .attach && !coreAttached s (coreOf n))
  sortBy (fun n => (7 - prioOf s n) * 2 ^ 64 + attachSince (getHart s n)) ws

/-- Rows free in a quad: not the share of its retired cores. No rule gives that share a number: it is 12 rows for each of them, of
which displaced contexts of the core may still keep some (R14; DESIGN CHOICE, log 95). -/
def rowsFree (s : State) (quad : Nat) : Nat :=
  48 - ((range (4 * quad) 4).map (fun c => if (getCore s c).retired then 12 - frameRows s c else 0)).sum - rowsUsed s quad

/-- The hart takes g rows: cleared (R116), or as its frame holds them, which is then free (R369). -/
def takeRows (n g : Nat) (s : State) : State :=
  let s1 := { s with quads := Tab.set 0 s.quads (quadOf n) (rowsUsed s (quadOf n) + g) }
  match (getHart s n).rowsDue with
  | none => modHart n (fun h => { h with rows := g, acc := [], accPois := [] }) s1
  | some d =>
    modFrame (clusterOf n) d.1 (fun _ => {})
      (modHart n (fun h => restoreRows s (clusterOf n) d.1 d.2 { h with rowsDue := none }) s1)

/-- Hart n gets the rows that it waits for, as far as they are free. -/
def grantRows (n : Nat) (s : State) : State :=
  takeRows n (min (rowsWanted (getHart s n)) (rowsFree s (quadOf n)) / 12 * 12) s

/-- The attachments of a quad: priority, hart number, and the frame of a displaced holder. -/
def holders (s : State) (quad : Nat) : List (Nat × Nat × Option (Nat × Nat)) :=
  ((range (32 * quad) 32).filter (fun n => decide (0 < (getHart s n).rows))).map (fun n => (prioOf s n, n, none))
    ++ (getCluster s (quad / 4)).frames.filterMap (fun e =>
      if e.2.home / 4 = quad ∧ 0 < e.2.rows then
        some (e.2.prio, 8 * e.2.home + fld (frameWord s (quad / 4) e.1 0) 12 3, some (quad / 4, e.1))
      else none)

/-- The rows of a displaced context are written to its frame and freed (R369). -/
def saveRows (k f : Nat) (s : State) : State :=
  let fr := Tab.get {} (getCluster s k).frames f
  let b := frameAddr s k f
  let s1 := (range 0 4).foldl (fun t tl => (range 0 fr.rows).foldl (fun u r =>
    putLines none (b + 0x46000 + 4096 * (48 * tl + r)) (toBytes (Tab.get 0 fr.acc (48 * tl + r)).toNat 4096) u) t) s
  let s1 := fr.accPois.foldl (fun t e => spoilLine (b + 0x46000 + e.1 / 512 * 4096 + e.1 % 512 * 8) t) s1
  let s2 := putBytesBy none b (toBytes (frameWord s1 k f 0 + (if nbit (frameWord s1 k f 0) 61 then 0 else 2 ^ 61)) 8) s1
  modFrame k f (fun x => { x with rows := 0, acc := [], accPois := [] })
    { s2 with quads := Tab.set 0 s2.quads (fr.home / 4) (rowsUsed s2 (fr.home / 4) - fr.rows) }

/-- R369: rows are reclaimed from the attachment of lowest priority, the highest hart among equals, when it is strictly
lower than that of hart n. -/
def reclaimRows (n : Nat) (s : State) : State :=
  let worst := (holders s (quadOf n)).foldl (fun (b : Option (Nat × Nat × Option (Nat × Nat))) x => match b with
    | none => some x
    | some y => if x.1 < y.1 ∨ (x.1 = y.1 ∧ y.2.1 < x.2.1) then some x else b) none
  match worst with
  | none => s
  | some (p, h, fr) =>
    if prioOf s n ≤ p then s
    else match fr with
      | some (k, f) => saveRows k f s
      | none => match freeFrame s (clusterOf h) with
        | none => s
        | some f => if canStop (getHart s h) then asHart h (displaceCur f .listed true) s else stopHart h none s

/-- The quad serves hart n if it may: rows are reclaimed first when fewer than 12 are free (R369). -/
def serveAttach (n : Nat) (s : State) : State × Bool :=
  let need := rowsNeeded (getHart s n)
  let s1 := if rowsFree s (quadOf n) < 12 then reclaimRows n s else s
  if rowsFree s1 (quadOf n) < need then (s1, false) else (grantRows n s1, true)

/-- The quad serves the current hart when its core holds no attachment and no other goes before it (R368). -/
def askRows (s : State) : State × Bool :=
  let me := s.hn
  let ahead := (attachQueue s (quadOf me)).takeWhile (· != me)
  if coreAttached s (coreOf me) || ahead.any (fun n => decide (prioOf s me ≤ prioOf s n)) then (s, false)
  else serveAttach me s

/-- R269: `mattach`. The hart joins the order of R368 when it waits; rows may have come meanwhile. -/
def attachRun (s : State) : State :=
  if s.hart.granted then updH (fun h => { h with granted := false }) s
  else
    let r := askRows s
    if r.2 then r.1 else slotWait .attach s

/-- Before its queues go on, a context whose rows were reclaimed waits for as many (R369). -/
def awaitRows (s : State) : State :=
  let r := askRows s
  if r.2 then updH (fun h => { h with vwait := none }) r.1 else holdQueue .attach r.1

/-- A matrix instruction of the hart from before a trap has not completed (R269, R404). -/
def matrixLeft (h : Hart) : Bool :=
  !h.mq.isEmpty || !h.smq.isEmpty
    || h.shadow.any (fun e => e.acts.any (fun a => majOf a.w.toNat = 0x35 && !slotDone e a.slot))

/-- R269: `mdetach`. -/
def detachRun (s : State) : State :=
  if s.hart.rows = 0 then s
  else if matrixLeft s.hart then slotWait .register s
  else
    updH (fun h => { h with rows := 0, acc := [], accPois := [] })
      { s with quads := Tab.set 0 s.quads (quadOf s.hn) (rowsUsed s (quadOf s.hn) - s.hart.rows) }

/-- R269: `mattach`. -/
def execMattach (s : State) : Host.Outcome State Fault Refusal :=
  done (vslot 0 0 0 (runSlot .other
    (fun t => firstTrap [(decide (0 < t.hart.rows) && !t.hart.granted, cMatrix, curWord t)])
    (fun _ => []) attachRun) s)

/-- R269: `mdetach`. -/
def execMdetach (s : State) : Host.Outcome State Fault Refusal :=
  done (vslot 0 0 0 (runSlot .other (fun _ => none) (fun _ => []) detachRun) s)

end Sys2Proof.Machine
end

