-- ==== Sys2Proof/Machine/Mmio.lean ====
section
/-! DEFINITION. The device register space (R14, R361, R372, R386, R415, R426, R435, R436, R440): aligned 8-byte reads and
writes of its words. -/

namespace Sys2Proof.Machine

def clusterBase : Nat := 0x3FF0001000000
def reuseBase : Nat := 0x3FF0002000000
def featureBase : Nat := 0x3FF0003000000
def ingressBase : Nat := 0x3FF0004000000
def egressBase : Nat := 0x3FF0004002000
def mgmtSeqAddr : Nat := 0x3FF0005000000

/-- A word of the device register space, by its block (R6: all other addresses are reserved). -/
inductive RegAt where
  | queue (j off : Nat)
  | cluster (k off : Nat)
  | gang (k i : Nat)
  | reuse (off : Nat)
  | feature (off : Nat)
  | ingress (c off : Nat)
  | egress (c off : Nat)
  | mgmt
  | nothing
  deriving DecidableEq, Repr

/-- Which word lies at a physical address. -/
def regAt (pa : Nat) : RegAt :=
  if clusterBase ≤ pa ∧ pa < clusterBase + 10 * 0x10000 then
    let k := (pa - clusterBase) / 0x10000; let o := (pa - clusterBase) % 0x10000
    if o < 0x1000 then .queue (64 * k + o / 64) (o % 64)
    else if 0x2000 ≤ o ∧ o < 0x2400 then .gang k ((o - 0x2000) / 8)
    else .cluster k o
  else if reuseBase ≤ pa ∧ pa < reuseBase + 0x50 then .reuse (pa - reuseBase)
  else if featureBase ≤ pa ∧ pa < featureBase + 0x58 then .feature (pa - featureBase)
  else if ingressBase ≤ pa ∧ pa < ingressBase + 8192 then .ingress ((pa - ingressBase) / 32) (pa % 32)
  else if egressBase ≤ pa ∧ pa < egressBase + 8192 then .egress ((pa - egressBase) / 32) (pa % 32)
  else if pa = mgmtSeqAddr then .mgmt
  else .nothing

/-! Queue and cluster registers (R372) -/

def queueRead (q : Queue) (off : Nat) : Word :=
  if off = 0x00 then setBit q.ctl 62 q.spf
  else if off = 0x08 then q.ring
  else if off = 0x10 then q.ptb
  else if off = 0x18 then word (q.onchipCount * 2 ^ 36 + q.spilled)
  else if off = 0x20 then q.fva
  else 0

/-- The ring registers may not change while the queue holds records. -/
def queueIdle (q : Queue) : Bool := q.onchipCount = 0 && q.spilled = 0

/-- A write of QCTL's own fields. -/
def qctlStore (v : Word) (q : Queue) : Queue :=
  { q with ctl := if queueIdle q then v &&& 0x80F0FFFF00000000 else setBit q.ctl 63 (wbit v 63) }

def queueWrite (j off : Nat) (v : Word) (s : State) : State :=
  if off = 0x00 then
    let s1 := modQueue j (qctlStore v) s
    if wbit v 61 then queueResume j s1 else s1
  else if off = 0x08 then modQueue j (fun q => if queueIdle q then { q with ring := v &&& 0xFFFFFFFFE0000 } else q) s
  else if off = 0x10 then modQueue j (fun q => if queueIdle q then { q with ptb := v &&& 0x3FFFFFFFFE000 } else q) s
  else s

def clusterRead (c : Cluster) (off : Nat) : Word :=
  if off = 0x1000 then c.cirq
  else if off = 0x1008 then c.ctxbase
  else if off = 0x1010 then c.ctxn
  else if off = 0x1018 then c.cmd
  else if off = 0x1020 then c.dentry
  else 0

def clusterWrite (k off : Nat) (v : Word) (now : Nat → Bool) (s : State) : State :=
  if off = 0x1000 then modCluster k (fun c => { c with cirq := v &&& 0x80000000000007FF }) s
  else if off = 0x1008 then modCluster k (fun c => { c with ctxbase := v &&& 0x3FFFFFFFFF000 }) s
  else if off = 0x1010 then modCluster k (fun c => { c with ctxn := v &&& 0xFF }) s
  else if off = 0x1018 then command k v now s
  else if off = 0x1020 then modCluster k (fun c => { c with dentry := v &&& 0xFFFFFFFFFFFFFFF1 }) s
  else s

/-- A gang word (R361). -/
def gangRead (s : State) (k i : Nat) : Word :=
  setBit (word (gidOf s (128 * k + i))) 63 (Tab.get false (getCluster s k).refused i)

/-! The reuse block (R386) -/

def reuseRead (s : State) (off : Nat) : Word :=
  let t := getTenant s s.reuse.sel
  if off = 0x00 then s.reuse.ctl
  else if off = 0x08 then word s.reuse.sel
  else if off = 0x30 then word t.quota
  else if off = 0x38 then word (tenantUsed s s.reuse.sel)
  else if off = 0x48 then word (t.hits * 2 ^ 32 + t.misses)
  else 0

/-- RCTL: clearing EN invalidates every entry (R385). -/
def rctlStore (v : Word) (s : State) : State :=
  { s with reuse := { s.reuse with
      ctl := v &&& 0x8003FFFFFFFE0000
      entries := if wbit v 63 then s.reuse.entries else [] } }

/-- RSALT i: the fourth commits the salt and invalidates the tenant's entries (R386). -/
def rsaltStore (i : Nat) (v : Word) (s : State) : State :=
  let s1 := modTenant s.reuse.sel (fun t => { t with staged := setNth t.staged i v }) s
  if i = 3 then flushTenant s.reuse.sel (modTenant s.reuse.sel (fun t => { t with salt := t.staged }) s1) else s1

/-- RFLUSH (R386). -/
def rflushStore (v : Word) (s : State) : State := if wbit v 0 then flushTenant s.reuse.sel s else s

def reuseWrite (off : Nat) (v : Word) (s : State) : State :=
  if off = 0x00 then rctlStore v s
  else if off = 0x08 then { s with reuse := { s.reuse with sel := v.toNat % 1024 } }
  else if off = 0x10 ∨ off = 0x18 ∨ off = 0x20 ∨ off = 0x28 then rsaltStore ((off - 0x10) / 8) v s
  else if off = 0x30 then modTenant s.reuse.sel (fun t => { t with quota := v.toNat % 131072 }) s
  else if off = 0x40 then rflushStore v s
  else s

/-! Features and retired cores (R14, R426) -/

/-- The feature vector of the TK-880 (R426). -/
def featureWord (i : Nat) : Nat :=
  nth 0 [0x0100080808041000, 0x0000000F3F3F1FFF, 0x1F3F9E0F00000000, 0] i

/-- CRETi (R14). -/
def retiredWord (s : State) (i : Nat) : Nat :=
  loop (fun b n => if 64 * i + b < 160 ∧ (getCore s (64 * i + b)).retired then n + 2 ^ b else n) 0 64 0

def featureRead (s : State) (off : Nat) : Word :=
  if off < 0x20 then word (featureWord (off / 8))
  else if off = 0x20 then Config.placerVersion.setWidth 64
  else if 0x40 ≤ off then word (retiredWord s ((off - 0x40) / 8))
  else 0

/-! Channels (R436) -/

def chanRead (ch : Channel) (off : Nat) : Word :=
  if off = 0 then setBit (setBit ch.ctl 60 ch.refused) 59 ch.lfault
  else if off = 8 then word (ch.prod.toNat * 2 ^ 32 + ch.cons.toNat)
  else if off = 24 then ch.rbase
  else 0

/-- CTL's own fields: BOUND, QUEUE and OWNER only while the channel is empty. -/
def chanCtl (mask v : Word) (ch : Channel) : Channel :=
  { ch with ctl := if ch.prod = ch.cons then v &&& mask else maskWrite ch.ctl v (mask &&& 0xA000000000000000) }

/-- A write of RBASE, ignored while the channel holds tokens. -/
def baseStore (v : Word) (ch : Channel) : Channel := if ch.prod = ch.cons then { ch with rbase := v &&& 0xFFFFFFFFFFFFFF80 } else ch

def ingressWrite (c off : Nat) (v : Word) (s : State) : State :=
  if off = 0 then
    let s1 := modIn c (chanCtl 0xE3FFFFFF00000000 v) s
    let s2 := if wbit v 58 then skipToken c s1 else s1
    if wbit v 59 then clearLfault c s2 else s2
  else if off = 16 then raiseToken c v s
  else if off = 24 then modIn c (baseStore v) s
  else s

def egressWrite (c off : Nat) (v : Word) (s : State) : State :=
  if off = 0 then modOut c (chanCtl 0xA3FFFFFF00000000 v) s
  else if off = 24 then modOut c (baseStore v) s
  else s

/-! The space -/

/-- An aligned 8-byte read. A read of egress DATA pops its token (R437). -/
def mmioRead (pa : Nat) (s : State) : Word × State :=
  match regAt pa with
  | .queue j off => (queueRead (getQueue s j) off, s)
  | .cluster k off => (clusterRead (getCluster s k) off, s)
  | .gang k i => (gangRead s k i, s)
  | .reuse off => (reuseRead s off, s)
  | .feature off => (featureRead s off, s)
  | .ingress c off => (chanRead (getIn s c) off, s)
  | .egress c off =>
    if off = 16 then
      (tokenWord (getOut s c), if (getOut s c).tokens.isEmpty then s else modOut c popToken s)
    else (chanRead (getOut s c) off, s)
  | .mgmt => (word (s.mgmt.expect.toNat * 2 ^ 32 + s.mgmt.next.toNat), s)
  | .nothing => (0, s)

/-- An aligned 8-byte write. now: a DISPLACE acts at once on these harts. -/
def mmioWrite (pa : Nat) (v : Word) (now : Nat → Bool) (s : State) : State :=
  match regAt pa with
  | .queue j off => queueWrite j off v s
  | .cluster k off => clusterWrite k off v now s
  | .gang k i => gangWrite k i (wfld v 0 5) s
  | .reuse off => reuseWrite off v s
  | .feature _ => s
  | .ingress c off => ingressWrite c off v s
  | .egress c off => egressWrite c off v s
  | .mgmt => s
  | .nothing => s

/-! Stores to device registers that have waited in a store buffer (R172) -/

/-- The store e of the current hart's buffer to a device register performs. -/
def regStore (e : SbEntry) (s : State) : State :=
  match e.loc with
  | .pa a => mmioWrite a (word e.val) (fun m => m != s.hn) s
  | .tile _ => s

/-- Some store in the buffer is one to a device register. -/
def regsLeft (b : List SbEntry) : Bool := b.any (fun e => isReg e.loc)

/-- Stores of the current hart to device registers perform, in the order of its buffer, up to one that waits. -/
def performRegs (s : State) : State :=
  if regsLeft s.hart.storeBuf then
    loop (fun _ t =>
      let u := drainStores t
      match u.hart.storeBuf with
      | e :: es => if isReg e.loc && !storeHeld u e then regStore e (updH (fun h => { h with storeBuf := es }) u) else u
      | [] => u) 0 s.hart.storeBuf.length s
  else s

/-- The same of a displaced context. -/
def performFrameRegs (k f : Nat) (s : State) : State :=
  if regsLeft (frameOf s k f).stores then
    loop (fun _ t =>
      let u := drainFrame k f t
      match (frameOf u k f).stores with
      | e :: es =>
        if isReg e.loc && !e.seq.any (fun n => !(olderOf u (.frame k f) n).isEmpty || convoysOf u (.frame k f) n) then
          asHart (8 * (frameOf u k f).home) (regStore e) (modFrame k f (fun x => { x with stores := es }) u)
        else u
      | [] => u) 0 (frameOf s k f).stores.length s
  else s

end Sys2Proof.Machine
end

