-- ==== Sys2Proof/Machine/Prefix.lean ====
section
/-! DEFINITION. Which slots of a convoy that stops have run, and what they keep (R235, R274, R275, R403 to R405): a convoy that a
fault has stopped is run again from where it stood, up to that fault. -/

namespace Sys2Proof.Machine

/-- A register group that slot x writes is read by slot a. -/
def readsFrom (i : Issue) (a x : Nat) : Bool := (i.insOf a).any (fun g => g.meets (i.outsOf x))

/-- The two slots, of which a comes first, are ordered by a register: the later one reads or writes what the other writes or
reads. -/
def ordered (i : Issue) (a x : Nat) : Bool := readsFrom i x a || readsFrom i a x

/-- Slot x writes what slot a before it reads other than element by element: a cannot go on from its prefix once x has written
below it. -/
def spoils (i : Issue) (full : List Nat) (a x : Nat) : Bool :=
  (i.insOf a).any (fun g => g.meets (i.outsOf x)
    && (full.contains x || g.w = 0 || !i.undo.any (fun u => u.slot = x && u.v = g.v && u.w = g.w)))

/-- An arithmetic slot: it reads and writes only the vector file. -/
def isArith (w : Nat) : Bool := decide (0x22 ≤ majOf w ∧ majOf w ≤ 0x2E)

/-- A load, a store or an atomic: it goes element by element, or by lane words. -/
def isElemAccess (w : Nat) : Bool := decide (0x2F ≤ majOf w ∧ majOf w ≤ 0x31) || majOf w = 0x34

/-- The destinations of a slot, as groups of eight registers, or 64 + a mask. -/
def destsOf (w : Nat) : List (Nat × Nat) := ((destV w).map (fun v => (v, 8))).toList ++ maskDest w

/-- Two lists of groups meet. -/
def groupsMeet (xs ys : List (Nat × Nat)) : Bool := xs.any (fun x => ys.any (fun y => overlaps x.1 x.2 y.1 y.2))

/-- Every vector register and mask is written (R275). -/
def writesAll (w : Nat) : Bool := isGrantWord w || isVdecl w

/-- The slots of the MQ that wait for the retirement of a slot before them in their convoy, and those after one that waits (R275,
R269). One whose source a later slot of the convoy writes cannot wait: they retire together, so it and those before it go in
slot order (log 84). -/
def heldMatrix (acts : List Act) : List Nat :=
  acts.foldl (fun (held : List Nat) a =>
    let w := a.w.toNat
    let reads := if isMatrixWord w then matrixReads w a.c2.toNat else []
    let meets (b : Act) : Bool := (isMatrixWord w && writesAll b.w.toNat) || groupsMeet reads (destsOf b.w.toNat)
    if !(isMatrixWord w || isAttachWord w) then held
    else if held.isEmpty && !acts.any (fun b => decide (b.slot < a.slot) && meets b) then held
    else if acts.any (fun b => decide (a.slot < b.slot) && meets b) then []
    else held ++ [a.slot]) []

/-- The last slot before slot k that sets `vl`, `vtype` or `vstart`, or declares registers. Those up to it have completed: what
they did stood under another length. -/
def lastSetter (acts : List Act) (k : Nat) : Option Nat :=
  (acts.filter (fun a => decide (a.slot < k) && (setsLen a.w.toNat || isVdecl a.w.toNat))).getLast?.map (·.slot)

/-- What the slots of a stopped convoy keep, and the slots that run. -/
structure Plan where
  keep : List (Nat × Keep) := []
  run : List Nat := []
  deriving DecidableEq, Repr

/-- The slots before the one that has stopped the convoy, acts, that must have run for it: every access, in program order, what an
arithmetic slot gives them or one another, and an arithmetic slot whose source one of them overwrites. -/
def neededFor (i : Issue) (k : Nat) (acts : List Act) : List Nat :=
  acts.reverse.foldl (fun (n : List Nat) a =>
    if !isArith a.w.toNat || (k :: n).any (ordered i a.slot) then a.slot :: n else n) []

/-- Those of them that must have completed: a later one that runs overwrites what they could not read again (log 96). -/
def fullFor (i : Issue) (k : Nat) (need : List Nat) : List Nat :=
  need.reverse.foldl (fun (f : List Nat) a =>
    if (k :: need.filter (fun x => decide (a < x))).any (spoils i f a) then a :: f else f) []

/-- What slot a keeps, given what the slots before it do. -/
def keepSlot (i : Issue) (k : Nat) (need full : List Nat) (before : List (Nat × Keep)) (a : Act) : Keep :=
  let w := a.w.toNat
  let from' (c : Keep) : Bool := before.any (fun b => b.2 = c && need.contains b.1 && readsFrom i a.slot b.1)
  if !need.contains a.slot then .start
  else if full.contains a.slot then .all
  else if isWholeWord w then .start
  else if isArith w then .below
  else if !isElemAccess w then .all
  else if from' .start then
    (if (k :: need).any (fun x => decide (a.slot < x) && ordered i a.slot x) then .below else .start)
  else if before.any (fun b => b.2 = .below && ordered i b.1 a.slot) then
    (if majOf w = 0x31 then .start else .below)
  else .all

/-- The plan for a convoy of these slots that has stopped as r says (R405). Arithmetic slots keep only elements below the fault;
accesses keep all that they have done, unless they are ordered with an arithmetic slot by a register; a slot that nothing needs has
not run (log 96). -/
def planOf (i : Issue) (r : StopKind × SlotFault) (acts : List Act) : Plan :=
  let k := r.2.slot
  let held := if r.1 = .fault then heldMatrix (acts.filter (fun a => decide (a.slot ≤ k))) else []
  let before := acts.filter (fun a => decide (a.slot < k) && !isSetCtl a && !held.contains a.slot)
  let late := before.filter (fun a => match lastSetter acts k with | some j => decide (j < a.slot) | none => true)
  let early := before.filter (fun a => !late.any (fun b => b.slot = a.slot))
  let need := if r.1 = .fault then neededFor i k late else late.map (·.slot)
  let full := if r.1 = .fault then fullFor i k need
    else late.filterMap (fun a =>
      if !isWholeWord a.w.toNat || (k :: need).any (fun x => decide (a.slot < x) && readsFrom i a.slot x) then some a.slot else none)
  let keep := late.foldl (fun ks a => ks ++ [(a.slot, keepSlot i k need full ks a)]) (early.map (fun a => (a.slot, Keep.all)))
  let idle (a : Act) : Bool := keep.any (fun x => x.1 = a.slot && x.2 = .start) && isElemAccess a.w.toNat && !(majOf a.w.toNat = 0x31 && fld a.w.toNat 0 3 = 1)
  { keep := keep ++ held.map (fun h => (h, Keep.start))
    run := (acts.filter (fun a => decide (a.slot ≤ k) && !held.contains a.slot
      && (isSetCtl a || a.slot = k || early.any (fun b => b.slot = a.slot) || (need.contains a.slot && !idle a)))).map (·.slot) }

/-- Where the slots come to when the convoy is run again: the slot that has faulted to its fault, an access that keeps only what is
below it there too, and one that had a fault of its own to that. -/
def limsOf (i : Issue) (r : StopKind × SlotFault) (p : Plan) (acts : List Act) : Tab (Option Nat) :=
  acts.foldl (fun t a =>
    let w := a.w.toNat
    let k := a.slot
    let c := Tab.get 0 i.cells k
    if r.1 ≠ .fault ∨ isElemAccess w = false ∨ setsLen w = true then t
    else if k = r.2.slot then Tab.set none t k (some r.2.elem)
    else match keepOf p.keep r k with
      | .below => Tab.set none t k (some (min c r.2.elem))
      | _ => if i.done.contains k then t else Tab.set none t k (some c)) []

/-- The work of the vector side on a convoy that is run again up to the fault r: the fault is known. -/
def rerun (i : Issue) (lims : Tab (Option Nat)) (j : Issue) : Issue := { j with starts := i.starts, lims := some lims }

/-- The fault as it was found. -/
def refault (r : StopKind × SlotFault) (j : Issue) : Issue := if r.1 = .fault then { j with fault := some r.2 } else j

end Sys2Proof.Machine
end

