-- ==== Sys2Proof/Machine/System.lean ====
section
/-! DEFINITION. System instructions of major 0x00 (R181 to R187). -/

namespace Sys2Proof.Machine

/-- R181: nothing. -/
def execNop (s : State) : Host.Outcome State Fault Refusal := done s

/-- R182: SYSCALL with `epc` at the next convoy. Its own convoy is over: a return to one of its slots runs it anew (R154). -/
def syscallNow (n : BitVec 5) (s : State) : State :=
  let e := (s.hart.pc &&& 0xFFFFFFFFFFFFFFF0) + 16
  if !s.hart.shadow.isEmpty && !s.hart.vq.isEmpty then doubleTrap s
  else scalarTrap (word cSyscall) (n.setWidth 64) e (updCv (fun _ => {}) s)

/-- R182: `trap n`, after the rest of its convoy has taken effect (R155). -/
def execTrap (n : BitVec 5) (s : State) : Host.Outcome State Fault Refusal :=
  done (if actsLeft s then updCv (fun c => { c with after := .syscall n }) s else syscallNow n s)

/-- R183: `eret`, after the rest of its convoy has taken effect. -/
def execEret (s : State) : Host.Outcome State Fault Refusal :=
  done (privileged true (fun t => if actsLeft t then updCv (fun c => { c with after := .eret }) t else eretNow t) s)

/-- R184: the hart stops until an interrupt is pending, its gang's phase advances, or the wait ends of itself (which the
input WAIT_SPURIOUS_END brings). -/
def waitNow (s : State) : State :=
  if !s.hart.pend.isEmpty || s.hart.answer.isSome
      || (s.hart.status = .waiting .wait && s.hart.phase != s.hart.waitPhase) then resumeHere s
  else
    waitHere .wait (updH (fun h => if h.status = .waiting .wait then h else { h with waitPhase := h.phase }) s)

def execWait (s : State) : Host.Outcome State Fault Refusal := done (waitNow s)

/-- Debug halt at the slot in hand: the hart fetches it again when it is released (R182). -/
def haltHere (s : State) : State :=
  debugHalt (updCv (fun c => { c with live := false }) s)

/-- R182: BREAK, or debug halt where halt on break is selected. -/
def execBrk (s : State) : Host.Outcome State Fault Refusal :=
  done (if s.hart.brkHalt then haltHere (updH (fun h => { h with epc := epcHere s }) s) else trap cBreak 0 s)

/-- Hart n keeps the lines of code that it had fetched when its core's instruction cache is emptied (R185). -/
def keepFetched (ic : Tab (Option (BitVec 1024))) (h : Hart) : Hart :=
  { h with ahead := ic.foldl (fun t e => match Tab.get none t e.1 with
    | some _ => t
    | none => Tab.set none t e.1 e.2) h.ahead }

/-- The core's instruction cache is empty, and the hart has nothing fetched beyond its own convoy (R185). -/
def dropCode (s : State) : State :=
  let c := myCore s
  let ic := (getCore s c).icache
  let s1 := if ic.isEmpty then s
    else (range (8 * c) 8).foldl (fun t n =>
      if n = s.hn ∨ (getHart t n).status = .noContext then t else modHart n (keepFetched ic) t) s
  updH (fun h => { h with ahead := [] }) (modCore c (fun k => { k with icache := [] }) s1)

/-- R185: every earlier store has performed, then the core's instruction cache is empty. -/
def execFenceI (s : State) : Host.Outcome State Fault Refusal :=
  done (released (fun t => dropCode (resumeHere t)) s)

/-- The TLBs that a scope covers (R186): codes 0 to 2 this core, 3 the quad, 4 the cluster, 5 the die, 6 up the device. -/
def tlbCovered (scope me : Nat) (t : TlbEntry) : Bool :=
  if t.l2 then
    (if scope ≤ 4 then t.core / 16 = me / 16 else if scope = 5 then t.core / 80 = me / 80 else true)
  else
    (if scope ≤ 2 then t.core = me
     else if scope = 3 then t.core / 4 = me / 4
     else if scope = 4 then t.core / 16 = me / 16
     else if scope = 5 then t.core / 80 = me / 80
     else true)

/-- R186: an entry matches the address and `asid` operands. -/
def tlbMatches (a d : Word) (t : TlbEntry) : Bool :=
  (wbit a 63 || (decide (wfld a 52 12 = 0) && decide (t.vpage = a.toNat / 2 ^ t.size)))
    && (wbit d 63 || wbit t.leaf 6 || t.asid = wfld d 0 16)

/-- The scope covers the L1 TLB of core c (R186). -/
def coreCovered (scope me c : Nat) : Bool :=
  if scope ≤ 2 then c = me
  else if scope = 3 then c / 4 = me / 4
  else if scope = 4 then c / 16 = me / 16
  else if scope = 5 then c / 80 = me / 80
  else true

/-- The entries that `tlb.inv` removes. -/
def tlbGone (a d : Word) (scope : Nat) (s : State) : List TlbEntry :=
  s.tlb.filter (fun e => tlbCovered scope (myCore s) e && tlbMatches a d e)

/-- An access reaches bytes by a translation that is removed: one of address a under an `asid` that d names, or by one of the
entries gone. -/
def Lock.underGone (a d : Word) (gone : List TlbEntry) (k : Lock) : Bool :=
  k.pages.any (fun p =>
    ((wbit d 63 || p.leaf.glob || k.asid = wfld d 0 16)
        && (wbit a 63 || (decide (wfld a 52 12 = 0) && a.toNat / 2 ^ p.leaf.size = p.page * 131072 / 2 ^ p.leaf.size)))
      || gone.any (fun e => (wbit e.leaf 6 || e.asid = k.asid) && e.vpage = p.page * 131072 / 2 ^ e.size))

/-- A stream holds a translation that is removed, until its last headland (R31). -/
def streamUnder (a d : Word) (gone : List TlbEntry) (q : CqEntry) : Bool :=
  q.live && (cqLocks { q with phase := 1 }).any (Lock.underGone a d gone)

/-- Streams of core c that hold a removed translation go on as far as they can (R31). -/
def endStreams (p : CqEntry → Bool) (c : Nat) (s : State) : State :=
  (bySeq s c ((range 0 16).filter (fun e => p (getCq s c e)))).foldl (fun t e => finishStream c e t) s

/-- A convoy in a hart's VQ, or a move in its MQ, has an access to make under a removed translation (R31). -/
def queueUnder (a d : Word) (gone : List TlbEntry) (n : Nat) (s : State) : Bool :=
  if (getHart s n).vq.isEmpty && (getHart s n).mq.isEmpty then false
  else (vqLocks (switchTo n s)).any (fun k => k.wild || k.underGone a d gone)

/-- R186, R31: the entries go once every stream, and every access in a VQ, that holds one of the translations is over. -/
def tlbInv (a d : Word) (scope : Nat) (s : State) : State :=
  let gone := tlbGone a d scope s
  let on (c : Nat) : Bool := coreCovered scope (myCore s) c
  let cores := (s.cores.map (·.1)).filter on
  let t := cores.foldl (fun t c => endStreams (streamUnder a d gone) c t) s
  if t.cores.any (fun c => on c.1 && c.2.cq.any (fun q => streamUnder a d gone q.2))
      || (s.hn :: s.parked.map (·.1)).any (fun n => on (coreOf n) && queueUnder a d gone n t) then waitHere .stream t
  else { resumeHere t with tlb := t.tlb.filter (fun e => !gone.contains e) }

/-- R186: `tlb.inv`. -/
def execTlbInv (a b : BitVec 5) (c : BitVec 4) (s : State) : Host.Outcome State Fault Refusal :=
  done (privileged true (reads [a, b] (fun t => tlbInv (getS t a) (getS t b) c.toNat t)) s)

/-- R187: the line, or the whole scalar data cache, is held no longer; memory has its bytes (R42). An address that does not
translate invalidates nothing. -/
def dropLine (v : Word) (s : State) : State :=
  let drop (p : Nat → Bool) : State := modCore (myCore s) (fun c => { c with dcache := c.dcache.filter (fun k => !p k) }) s
  if wbit v 63 then drop (fun _ => true)
  else if wfld v 52 12 ≠ 0 ∨ inWindow v = true then s
  else match translateAs s (wfld s.hart.asid 0 16) s.hart.ptbase v with
    | .leaf e size => drop (fun k => k = leafPa e size v / 128)
    | _ => s

/-- R187: `l1.inv`. -/
def execL1Inv (a : BitVec 5) (s : State) : Host.Outcome State Fault Refusal :=
  done (reads [a] (fun t => dropLine (getS t a) t) s)

end Sys2Proof.Machine
end

