-- ==== Sys2Proof/Machine/Convoy.lean ====
section
/-! DEFINITION. The life of a convoy: fetch, decode, its scalar slots, its commit, its issue and its retirement (R44, R108,
R151 to R156, R176, R190, R362 to R364, R403 to R409). What a slot does is given by ex. -/

namespace Sys2Proof.Machine

/-- The outcome of a step. -/
abbrev Out := Host.Outcome State Fault Refusal

/-- What follows a next state. -/
def andThen (o : Out) (f : State → Out) : Out :=
  match o with
  | .next s => f s
  | .fault x => .fault x
  | .refused x => .refused x

/-! Fetch (R38, R44, R176) -/

/-- The line k of code, of memory type mt, as the hart fetches it: as memory has it, or as the core's instruction cache still has it, or as the hart
had fetched it before another emptied that cache (R44, R185); which of them is free. -/
def fetchLine (mt k : Nat) (s : State) : State × BitVec 1024 :=
  let m := BitVec.ofNat 1024 (ofBytes (bytesPast mt s (128 * k) 128))
  let a := (Tab.get none s.hart.ahead k).filter (· != m)
  let b := (Tab.get none (getCore s (myCore s)).icache k).filter (· != m)
  let s1 := if a.isSome || b.isSome then { s with free := s.free + 2 } else s
  match a.filter (fun _ => Config.useStaleLine s.free), b.filter (fun _ => Config.useStaleLine (s.free + 1)) with
  | some c, _ => (s1, c)
  | none, some c => (s1, c)
  | none, none =>
    (updH (fun h => { h with ahead := Tab.set none h.ahead k none })
      (modCore (myCore s) (fun c => { c with icache := Tab.set none c.icache k (some m) }) s1), m)

/-- The convoy at the program counter; the cause of a failed fetch. -/
def fetchConvoy (s : State) : State × Except Nat (List (BitVec 32)) :=
  match check s s.hart.pc 16 { ex := true, window := false, align := 16 } with
  | .trap c => (s, .error c)
  | .hole pa => (halt pa s, .error 0)
  | .ok l mt _ =>
    let r := fetchLine mt (paOf l / 128) s
    (r.1, .ok ((range 0 4).map (fun i => r.2.extractLsb' (8 * (paOf l % 128) + 32 * i) 32)))

/-! Decode (R108, R151, R153, R154, R156) -/

/-- The registers that the hart's program order declares: by the latest committed `vdecl` (R108). -/
def programNreg (h : Hart) : Nat :=
  (((h.shadow ++ h.vq).flatMap (·.acts)).filter (fun a => isVdecl a.w.toNat && fld a.w.toNat 8 3 = 4)).foldl
    (fun _ a => 8 * 2 ^ fld a.w.toNat 0 2) h.vnreg

/-- The word raises an illegal-instruction trap. -/
def illegalWord (nreg : Nat) (w : BitVec 32) : Bool :=
  !legal w || (namedV w.toNat).any (fun v => decide (nreg ≤ v))

/-- The slots whose words satisfy p; a slot that holds `nop` is empty. -/
def slotsWhere (ws : List (BitVec 32)) (p : Nat → Bool) : List Nat :=
  (range 0 4).filter (fun k => let w := (nth 0 ws k).toNat; w != 0 && p w)

/-- Two slots name one destination. -/
def sameDest (a b : Nat) : Bool :=
  ((destV a).isSome && destV a = destV b) || ((destM a).isSome && destM a = destM b)

/-- The breaches of R153: the lowest slot involved, and the code. -/
def breaches (ws : List (BitVec 32)) : List (Nat × Nat) :=
  let used := slotsWhere ws (fun _ => true)
  let ctl := slotsWhere ws isControlWord
  let len := slotsWhere ws setsLen
  let vec := slotsWhere ws (fun w => decide (0x1E ≤ majOf w))
  let w (k : Nat) : Nat := (nth 0 ws k).toNat
  (if 1 < ctl.length then [(ctl.headD 0, 1)] else [])
    ++ (if ctl.any (fun k => used.any (fun j => decide (k < j))) then [(ctl.headD 0, 2)] else [])
    ++ (used.filter (fun k => used.any (fun j => decide (k < j) && sameDest (w k) (w j)))).map (fun k => (k, 3))
    ++ (if 1 < len.length then [(len.headD 0, 4)] else [])
    ++ (if 1 < vec.length && vec.any (fun k => isVdecl (w k)) then [(vec.headD 0, 5)] else [])

/-- The breach that is reported: of the lowest slot, then of the lowest code (R403). -/
def breach (ws : List (BitVec 32)) : Option (Nat × Nat) :=
  (breaches ws).foldl (fun o b => match o with
    | none => some b
    | some a => some (if b.1 < a.1 then b else a)) none

/-- Slot k of the convoy at the program counter, as `epc` names it. -/
def epcAt (s : State) (k : Nat) : Word := (s.hart.pc &&& 0xFFFFFFFFFFFFFFF0) ||| word (4 * (k % 4))

/-- The first scalar slot not yet executed, from slot k on (R404). -/
def firstScalar (ws : List (BitVec 32)) (k : Nat) : Nat :=
  ((slotsWhere ws isScalarWord).find? (fun j => decide (k ≤ j))).getD k

/-- The trap of an illegal word or an ill-formed convoy. -/
def decodeTrap (s : State) (ws : List (BitVec 32)) (k : Nat) : Option (Nat × Word × Nat) :=
  match ws.find? (illegalWord (programNreg s.hart)) with
  | some w => some (cIllegal, word w.toNat, firstScalar ws k)
  | none => match breach ws with
    | some (j, c) => some (cConvoy, word c, j)
    | none => none

/-- `mshape` as a slot of the convoy in hand finds it when it commits (R120, R270). -/
def shapeNow (s : State) : Word :=
  (pendingCtl (s.hart.vq.flatMap (·.acts) ++ s.hart.cv.acts) 0x11).getD s.hart.mshape

/-- The registers that are captured for a non-scalar slot: as captures has them, or as the image of a `fop` names them (R105). -/
def capRegs (s : State) (w : Nat) : Nat × Nat × Nat :=
  if majOf w = 0x36 then
    let img := (getSlot s (fld w 22 4)).image
    (imgLenA img, imgLenB img, 0)
  else captures w

/-- The register waits for a value of a convoy in the VQ, or of a `ctl.rd` of the convoy in hand (R363). -/
def pendingReg (h : Hart) (r : Nat) : Bool :=
  r != 0 && !h.vq.isEmpty
    && (h.vq.any (fun e => e.acts.any (fun a => producesReg a.w.toNat = some r))
      || h.cv.acts.any (fun a => isCtlRead a.w.toNat && fld a.w.toNat 21 5 = r))

/-- The values captured for a non-scalar slot (R105, R413). A poison mark on such a register raises no trap and does not go with the
value: R39 has only the scalar slots, `bq` and `bq.not` meet one (DESIGN CHOICE, log 101). A value that a register still waits for comes later (R363). -/
def capture (s : State) (k : Nat) (w : BitVec 32) : Act :=
  let c := capRegs s w.toNat
  let reg (r : Nat) : Word := getS s (BitVec.ofNat 5 r)
  { slot := k, w := w, c0 := reg c.1, c1 := reg c.2.1, c2 := reg c.2.2, mshape := shapeNow s
    regs := if majOf w.toNat = 0x36 then some s.hart.sregs else none
    late := [c.1, c.2.1, c.2.2].filter (pendingReg s.hart) }

/-- A captured slot takes the values that its registers have got meanwhile (R363). -/
def recapture (s : State) (a : Act) : Act :=
  let c := capRegs s a.w.toNat
  let come := a.late.filter (fun r => !pendingReg s.hart r)
  let reg (r : Nat) (v : Word) : Word := if come.contains r then getS s (BitVec.ofNat 5 r) else v
  { a with
    c0 := reg c.1 a.c0, c1 := reg c.2.1 a.c1, c2 := reg c.2.2 a.c2
    regs := a.regs.map (fun t => come.foldl (fun t r => Tab.set 0 t r (reg r 0)) t)
    late := a.late.filter (pendingReg s.hart) }

/-- What has come for the convoy in hand: values that its `ctl.rd` slots wait for, and then those that its captured slots wait for (R363). -/
def settleLate (s : State) : State :=
  let t := deliverReads s
  if t.hart.cv.acts.any (fun a => !a.late.isEmpty) then updCv (fun c => { c with acts := c.acts.map (recapture t) }) t else t

/-- A scalar slot touches a pending register, so that it waits (R363). -/
def touchesPending (s : State) (w : Nat) : Bool := !s.hart.vq.isEmpty && (scalarRegs w).any (pendingReg s.hart)

/-- The non-scalar slots below k. -/
def slotsBelow (ws : List (BitVec 32)) (k : Nat) : List Nat :=
  (range 0 k).filter (fun j => !isScalarWord (nth 0 ws j).toNat)

/-- The convoy goes on where a trap or a halt has left it: nothing has been written there meanwhile (R154, log 23). -/
def takesUp (s : State) (ws : List (BitVec 32)) : Bool :=
  let c := s.hart.cv
  c.words != [] && c.words = ws && c.base = s.hart.pc &&& 0xFFFFFFFFFFFFFFF0
    && (decide (4 ≤ c.slot) || isScalarWord (nth 0 ws c.slot).toNat)

/-- The slot at which the fetched convoy starts (R151, R154). -/
def startSlot (s : State) (ws : List (BitVec 32)) : Nat :=
  let k := s.hart.cv.slot % 4
  if isScalarWord (nth 0 ws k).toNat then k else 0

/-- The slots to be captured before a convoy that starts at slot k goes on: those below that have not been. -/
def uncaptured (ws : List (BitVec 32)) (c : Conv) (k : Nat) : List Nat :=
  if c.sent then [] else (slotsBelow ws k).filter (fun j => !c.acts.any (fun a => a.slot = j))

/-- A fetched convoy with nothing in the way of its decode: its scalar slots may execute. -/
def openConvoy (ws : List (BitVec 32)) (s : State) : State :=
  let base := s.hart.pc &&& 0xFFFFFFFFFFFFFFF0
  let c : Conv := if takesUp s ws then s.hart.cv else { base := base, words := ws, slot := startSlot s ws, npc := base + 16 }
  let miss := if 4 ≤ c.slot then [] else uncaptured ws c c.slot
  let t := updCv (fun _ => { c with live := true }) s
  updCv (fun c => { c with acts := c.acts ++ miss.map (fun j => capture t j (nth 0 ws j)) }) t

/-- A fetched convoy is decoded: it traps, or its scalar slots may execute. -/
def beginConvoy (ws : List (BitVec 32)) (s : State) : State :=
  match decodeTrap s ws (s.hart.cv.slot % 4) with
  | some (c, t, k) => scalarTrap (word c) t (epcAt s k) s
  | none => openConvoy ws s

/-- R153: fetch and decode of the next convoy of the current hart. -/
def decodeNext (s : State) : State :=
  let r := fetchConvoy s
  if r.1.stop.isSome then r.1
  else match r.2 with
    | .error c => scalarTrap (word c) s.hart.pc (s.hart.pc &&& 0xFFFFFFFFFFFFFFF0) r.1
    | .ok ws => beginConvoy ws r.1

/-- The hart has nothing in hand, so that it may fetch. -/
def idleHart (h : Hart) : Bool :=
  h.status = .running && !h.cv.live && h.vq.isEmpty && h.mq.isEmpty && h.rowsDue.isNone

/-- `mattach` and `mdetach` hold the address processor from their commit until they complete (R269); so do the rows that a
resumed context waits for. -/
def attachHolds (h : Hart) : Bool := h.rowsDue.isSome || h.vq.any (fun e => e.acts.any (fun a => isAttachWord a.w.toNat))

/-- CONVOY_DECODE (R153): the address processor runs ahead of the VQ (R362). -/
def execConvoyDecode (s : State) : Host.Outcome State Fault Refusal :=
  done (if s.hart.status = .running && !s.hart.cv.live && !attachHolds s.hart then decodeNext s else s)

/-! Issue and retirement (R364, R403 to R408) -/

/-- The convoy at the head begins to issue. -/
def openHead (e : VqEntry) (s : State) : State :=
  updH (fun h => { h with iss := { group := true, seq := e.seq, re := e.re, flags := e.flags } }) s

/-- The value that a scalar slot has left in a vector-side register governs the slots after it (R152, R413). -/
def applyCtl (a : Act) (s : State) : State :=
  if a.past then s
  else if isStripGrant a.w.toNat then
    (if a.c0 = 0 then ctlStore 0 0 s else updH (fun h => { h with vstart := 0 }) (ctlStore 0 a.c0 s))
  else ctlStore (fld a.w.toNat 0 12) a.c0 s

/-- A slot of a convoy issued again that had completed: only its reading of the ring counts (R76). -/
def passAct (a : Act) (s : State) : State :=
  ringNote ((namedV a.w.toNat).filter (fun v => destV a.w.toNat != some v)) s

/-- Ring loads behind a slot that sets the length take their slots once it has executed (R77). -/
def ringBehind (e : VqEntry) (a : Act) (s : State) : State :=
  if isGrantWord a.w.toNat && s.hart.iss.done.contains a.slot then
    updH (fun h => ringCommit (ringLoads h.ring (e.acts.filter (fun b => decide (a.slot < b.slot)))) h) s
  else s

/-- Behind a fault the slots after one that sets the length complete nothing. -/
def pastCtl (a : Act) (s : State) : State :=
  if setsLen a.w.toNat && !a.past then updIss (fun i => { i with bound := if i.lims.isNone then i.bound.map (fun _ => 0) else i.bound }) s else s

/-- The `ctl.rd` slots of the convoy at the head of the VQ read before its other slots issue: every earlier one has retired. Their
values are delivered when it retires (R120, R363). -/
def takeReads (s : State) (e : VqEntry) : VqEntry :=
  let rs := e.acts.filter (fun a => isCtlRead a.w.toNat && !e.done.contains a.slot)
  { e with
    results := e.results ++ rs.map (fun a => Deliver.reg (fld a.w.toNat 21 5) (readValue s a) 0)
    done := e.done ++ rs.map (·.slot) }

/-- One slot of the convoy at the head. -/
def runAct (ex : BitVec 32 → State → Out) (e : VqEntry) (a : Act) (s : State) : Out :=
  if isSetCtl a then .next (pastCtl a (applyCtl a s))
  else if slotDone e a.slot then .next (passAct a s)
  else andThen (ex a.w (updIss (fun i =>
      { i with
        act := a
        cell := Tab.get 0 e.cells a.slot
        bound := match i.lims with | some l => Tab.get none l a.slot | none => i.bound }) s))
    (fun t => .next (ringBehind e a t))

/-- Its slots, in order. -/
def runActs (ex : BitVec 32 → State → Out) (e : VqEntry) : List Act → State → Out
  | [], s => .next s
  | a :: as, s => andThen (runAct ex e a s) (runActs ex e as)

/-- The accesses of a convoy are made under the `asid`, `ptbase` and `hstat`.SUP of its commit (R31). -/
def enterSpace (e : VqEntry) (s : State) : State := inSpace e.space s

/-- The hart's own stand again; a move that has been left in the MQ keeps the convoy's. -/
def leaveSpace (e : VqEntry) (snap s : State) : State :=
  match e.space with
  | none => s
  | some x =>
    inSpace (some snap.hart.here)
      (updH (fun h => { h with mq := h.mq.map (fun m => if m.seq = e.seq then { m with space := some x } else m) }) s)

/-- The slots acts of the convoy run from the state snap, with f done to the vector side first. -/
def issueActs (ex : BitVec 32 → State → Out) (e : VqEntry) (acts : List Act) (f : Issue → Issue) (snap : State) : Out :=
  andThen (runActs ex e acts (updIss f (openHead e (enterSpace e snap)))) (fun t => .next (leaveSpace e snap t))

/-- What has stopped the convoy, when nothing before it does: a trap at issue or a wait. -/
def stopped (i : Issue) : Option (StopKind × SlotFault) := if i.early.isSome || i.wait.isSome then none else stopOf i

/-- Streams of a waiting convoy that have retired and wait in the copy queue stay there: what the convoy waits for may need
them (R59, R64). -/
def keepIssued (snap t : State) (e : VqEntry) : State × VqEntry :=
  e.acts.foldl (fun r a =>
    let n := a.c2.toNat - 1
    let q := getCq t (myCore t) n
    if isStream a.w.toNat && a.c2 != 0 && q.phase = 1 && (getCq snap (myCore t) n).phase = 3 then
      (setCq (myCore t) n q r.1, { r.2 with cells := Tab.set 0 r.2.cells a.slot q.vl, done := r.2.done ++ [a.slot] })
    else r) (snap, e)

/-- What becomes of the convoy at the head: while it waits it stays there, and the address processor may go on (R362). -/
def endHead (plan : List (Nat × Keep)) (e : VqEntry) (young : List VqEntry) (snap t : State) : State :=
  match t.hart.iss.early, t.hart.iss.wait with
  | none, some r =>
    let p := keepIssued (if r = .lanes ∨ r = .gang then keepLanes snap t else snap) t e
    holdQueue r (updH (fun h => { h with vq := p.2 :: young, iss := {} }) p.1)
  | _, _ => settle plan resumePoint e young snap t

/-- The convoy at the head of the VQ issues, and waits, traps or retires; hart.vq holds the younger ones meanwhile. When it
stops part-way, it is run again from where it stood, up to the slot that has stopped it (R405). -/
def runHead (ex : BitVec 32 → State → Out) (s : State) : Out :=
  match s.hart.vq with
  | [] => .next s
  | e0 :: young =>
    let e := takeReads s e0
    let snap := updH (fun h => { h with vq := young }) s
    andThen (issueActs ex e e.acts id snap) (fun t =>
      match stopped t.hart.iss with
      | none => done (endHead [] e young snap t)
      | some r =>
        let i := t.hart.iss
        let acts := e.acts.filter (fun a => isSetCtl a || !slotDone e a.slot)
        let p := planOf i r acts
        andThen (issueActs ex e (e.acts.filter (fun a =>
            decide (a.slot ≤ r.2.slot) && (slotDone e a.slot || p.run.contains a.slot))) (rerun i (limsOf i r p acts)) snap)
          (fun u => done (endHead p.keep e young snap (updIss (refault r) u))))

/-- CONVOY_ISSUE (R364): the convoy at the head issues when the hart's vector side next acts. -/
def execConvoyIssue (s : State) : Host.Outcome State Fault Refusal :=
  done (match s.hart.vq with
    | [] => s
    | e :: _ => updH (fun h => { h with vwait := none }) (openHead e s))

/-- Every slot of the convoy at the head has completed. -/
def headDone (h : Hart) (e : VqEntry) : Bool := allDone { e with done := e.done ++ h.iss.done }

/-- CONVOY_RETIRE (R364): the convoy at the head retires once its slots have completed. -/
def execConvoyRetire (s : State) : Host.Outcome State Fault Refusal :=
  done (match s.hart.vq with
    | [] => s
    | e :: young =>
      if headDone s.hart (takeReads s e) then retireEntry (takeReads s e) young (updH (fun h => { h with vq := young }) s) else s)

/-! Commit (R152, R155, R190, R362) -/

/-- The acts before the first `fence` or `drain`, and from it on. -/
def splitFence : List Act → List Act × List Act
  | [] => ([], [])
  | a :: as => if isFenceWord a.w.toNat then ([], a :: as) else let r := splitFence as; (a :: r.1, r.2)

/-- Streams among these acts. -/
def streamsOf (acts : List Act) : Nat := (acts.filter (fun a => isStream a.w.toNat)).length

/-- Values for the RQ that these acts owe (R363). -/
def rqOwed (acts : List Act) : Nat := (acts.filter (fun a => (producesReg a.w.toNat).any (· != 0))).length

/-- Conditions for the BQ that these acts owe (R178). -/
def bqOwed (acts : List Act) : Nat := (acts.filter (fun a => producesCond a.w.toNat)).length

/-- Matrix slots among these acts. -/
def mqOwed (acts : List Act) : Nat := (acts.filter (fun a => isMatrixWord a.w.toNat)).length

/-- A queue of n entries, of which used are taken, has no room for k more. -/
def noRoom (n used k : Nat) : Bool := decide (0 < k ∧ n < used + k)

/-- The commit of these acts stalls while a queue that they need is full (R362, R178, R61, with free entries of the CQ), the
interlock table is (R71), or the ring holds them up (R76, R77). A convoy takes all of its entries at once. -/
def stalls (s : State) (free : Nat) (acts : List Act) : Bool :=
  let h := s.hart
  let queued := h.vq.flatMap (·.acts)
  let needs (as : List Act) : Bool := as.any (fun a => takesVq a.w.toNat)
  noRoom 32 (h.vq.filter (fun e => needs e.acts)).length (b2n (needs acts))
    || noRoom 16 (h.mq.length + mqOwed queued) (mqOwed acts)
    || noRoom 8 (rqOwed queued) (rqOwed acts)
    || noRoom 16 (h.bq.length + bqOwed queued) (bqOwed acts)
    || noRoom 32 (locksTaken s) (acts.flatMap (actLocks s false false)).length
    || decide (free < streamsOf acts)
    || ringStalls (programRing h) (ringLoads (programRing h) acts) || ringWaits h acts || attachHolds h

/-- Ring loads that take their slots as these acts commit: not those behind a slot that sets the length (R77), nor those behind
a `vdecl.buf` in the VQ. -/
def ringNow (h : Hart) (acts : List Act) : Nat :=
  if h.vq.any (fun e => e.acts.any (fun a => isVdecl a.w.toNat)) then 0
  else ringLoads h.ring (acts.takeWhile (fun a => !isGrantWord a.w.toNat))

/-- The streams among acts take their entries in slot order. -/
def reserveAll : List Act → State → State × List Act
  | [], s => (s, [])
  | a :: as, s =>
    let r := if isStream a.w.toNat then reserveCq a s else (s, a)
    let q := reserveAll as r.1
    (q.1, r.2 :: q.2)

/-- The acts enter the VQ as one entry; values left by scalar slots alone take effect at once when it is empty. -/
def commitActs (pc : Word) (ws : List (BitVec 32)) (acts : List Act) (s : State) : State :=
  if acts.all isSetCtl && s.hart.vq.isEmpty then acts.foldl (fun t a => applyCtl a t) s
  else if acts.all (fun a => isSetCtl a && a.past) then s
  else
    let r := reserveAll acts s
    { updH (fun h =>
        let g := ringCommit (ringNow h acts) h
        { g with vq := g.vq ++ [{ pc := pc, words := ws, acts := r.2, seq := s.order + 1 }] }) r.1 with order := s.order + 6 }

/-- The address processor goes on with the convoy in hand. -/
def goesOn (s0 s : State) : Bool :=
  s.hart.status = .running && s.hart.cv.live && !s.hart.came && s.hn = s0.hn && s.stop.isNone && !attachHolds s.hart

/-- The slot of the convoy in hand whose control transfer is still to come, or n when none is (R155). -/
def turnSlot (c : Conv) (n : Nat) : Nat := if c.after = .go then n else (slotsWhere c.words isControlWord).headD 0

/-- The last acts of a convoy commit, and its control transfer takes effect (R155, R182, R183). -/
def finishConvoy (ex : BitVec 32 → State → Out) (acts : List Act) (s : State) : Out :=
  let cv := s.hart.cv
  match cv.after with
  | .go => runHead ex (commitActs s.hart.pc cv.words acts (updH (fun h => { h with pc := cv.npc, cv := {} }) s))
  | _ =>
    let k := turnSlot cv 0
    let s1 := commitActs s.hart.pc cv.words acts
      (updCv (fun c => { c with acts := [], after := .go, slot := k, sent := true }) s)
    andThen (runHead ex s1) (fun t => if goesOn s t then ex (nth 0 cv.words k) t else .next t)

/-- The convoy in hand waits to commit: its scalar slots have executed, but for a control transfer that is to come after the rest
(R155, R404; log 85). -/
def stallCommit (r : WaitFor) (s : State) : State := waitHere r (updCv (fun c => { c with slot := turnSlot c 4 }) s)

/-- The slots from a `fence` or `drain` on, with the values that slots before it have left in `vl`, `vtype` or `vstart` and that have
been applied (R413). -/
def restAfter (done : List Act) (a : Act) (post : List Act) : List Act :=
  a :: (done.filter (fun b => isLenCtl b.w.toNat || isStripGrant b.w.toNat)).map (fun b => { b with past := true }) ++ post

/-- The commit of the convoy in hand, up to n parts of it. -/
def commitPhase (ex : BitVec 32 → State → Out) : Nat → State → Out
  | 0, s => .next s
  | n + 1, s0 =>
    let p := splitFence s0.hart.cv.acts
    let r := roomFor (streamsOf p.1) s0
    let s := resumeHere r.1
    if s0.hart.cv.acts.any (fun a => !a.late.isEmpty) then .next (stallCommit .register s0)
    else if stalls s r.2 p.1 then .next (stallCommit .stream r.1)
    else match p.2 with
      | [] => finishConvoy ex p.1 s
      | a :: post =>
        if !p.1.isEmpty then
          let s1 := commitActs s.hart.pc s.hart.cv.words p.1
            (updCv (fun c => { c with acts := restAfter p.1 a post, slot := turnSlot c (4 + a.slot), sent := true }) s)
          andThen (runHead ex s1) (fun t => if goesOn s t then commitPhase ex n t else .next t)
        else
          andThen (ex a.w (updCv (fun c => { c with slot := 4 + a.slot }) s)) (fun t =>
            if goesOn s t then commitPhase ex n (updCv (fun c => { c with acts := post, sent := true }) t)
            else .next (updCv (fun c => if c.live then { c with slot := turnSlot c c.slot } else c) t))

/-- CONVOY_COMMIT (R152): a convoy whose scalar slots have executed enters the VQ. -/
def execConvoyCommit (s : State) : Host.Outcome State Fault Refusal :=
  let cv := s.hart.cv
  let r := roomFor (streamsOf cv.acts) s
  done (if cv.live && decide (4 ≤ cv.slot) && (splitFence cv.acts).2.isEmpty && cv.acts.all (fun a => a.late.isEmpty)
        && !stalls r.1 r.2 cv.acts && cv.after = .go then
      commitActs s.hart.pc cv.words cv.acts (updH (fun h => { h with pc := cv.npc, cv := {}, status := .running }) r.1)
    else s)

/-! The scalar slots (R152) -/

/-- The slots of the convoy in hand, from the one reached on; then the commit. -/
def scalarPhase (ex : BitVec 32 → State → Out) : Nat → State → Out
  | 0, s => .next s
  | n + 1, s0 =>
    let s := settleLate s0
    let k := s.hart.cv.slot
    let w := nth 0 s.hart.cv.words k
    if 4 ≤ k then commitPhase ex 9 s
    else if isScalarWord w.toNat then
      if touchesPending s w.toNat then .next (waitHere .register s) else
      andThen (ex w (updH (fun h =>
          { h with came := false, status := if h.status = .waiting .register then .running else h.status }) s)) (fun t =>
        if goesOn s t then scalarPhase ex n (updCv (fun c => { c with slot := k + 1 }) t) else .next t)
    else scalarPhase ex n (updCv (fun c => { c with slot := k + 1, acts := c.acts ++ [capture s k w] }) s)

/-! The hart -/

/-- An interrupt is taken now: at a convoy boundary, while IE = 1 (R403). -/
def takesIrq (h : Hart) : Bool :=
  h.ie && !h.pend.isEmpty && !h.cv.live && h.cv.slot = 0 && h.answer.isNone && h.vanswer.isNone

/-- The re-issued convoy at the head of the VQ has nothing to do with what is left in the MQ: no matrix slot, nothing that the moves
there read, and no access of bytes of theirs (R46, R275). -/
def apartFromMq (s : State) : Bool :=
  match s.hart.vq with
  | [] => false
  | e :: _ =>
    let reads := s.hart.mq.flatMap (fun m => matrixReads m.act.w.toNat 0)
    let locks := (openActs true e true).flatMap (fun x => actLocks (inSpace e.space s) x.1 x.2.1 x.2.2)
    e.re && s.hart.vwait.isNone
      && e.acts.all (fun a => majOf a.w.toNat != 0x35 && !writesAll a.w.toNat && !groupsMeet reads (destsOf a.w.toNat))
      && !locks.any (fun k => (mqLocks s).any k.clash)

/-- The rows of a resumed context; then the VQ, and work that a trap or a displacement has left in the MQ: the convoys that are
re-issued go first (R369, R406), but for those that the moves in the MQ come before (R46; log 27). -/
def runQueues (ex : BitVec 32 → State → Out) (s : State) : Out :=
  if s.hart.rowsDue.isSome then done (awaitRows s)
  else match s.hart.mq with
    | e :: rest => if apartFromMq s then runHead ex s else done (mqResume e rest s)
    | [] => runHead ex s

/-- The convoy in hand, or the next one. -/
def runConvoy (ex : BitVec 32 → State → Out) (s : State) : Out :=
  if s.hart.cv.live then scalarPhase ex 5 (updH (fun h => { h with came := false }) s)
  else
    let t := decodeNext s
    if t.stop.isNone && t.hart.cv.live then scalarPhase ex 5 t else done t

/-- The current hart acts: its queues first; while what is at their head waits, its address processor runs ahead (R362). -/
def runHart (ex : BitVec 32 → State → Out) (s : State) : Out :=
  if takesIrq s.hart then done (takeInterrupt s)
  else if !s.hart.mq.isEmpty || !s.hart.vq.isEmpty || s.hart.rowsDue.isSome then
    andThen (runQueues ex s) (fun t =>
      if t.hart.vwait.isSome && !attachHolds t.hart && t.hn = s.hn then runConvoy ex t else .next t)
  else runConvoy ex s

/-- A hart that is to be displaced ends the convoy in hand first (R419), and lets its queues retire (R409, R415). -/
def quiesce (ex : BitVec 32 → State → Out) (s : State) : Out :=
  if insideConvoy s.hart then runHart ex s else runQueues ex s

/-- A hart that commits no more is displaced once it can stop (R409): for the head of a queue together with the others that give way to
it, if it still has to (R370). -/
def stopStep (ex : BitVec 32 → State → Out) (s : State) : Out :=
  if canStop s.hart then
    let t := updH (fun h => { h with stopFor := none }) s
    done (match s.hart.stopFor with
      | some (some j) => displaceFor j t
      | _ => displaceHart s.hn t)
  else quiesce ex s

/-- A hart that is to halt does so once its queues allow it (R409): a trap meanwhile is a double trap. -/
def haltStep (ex : BitVec 32 → State → Out) (s : State) : Out :=
  if s.hart.shadow.isEmpty || s.hart.vq.isEmpty then .next (debugHalt (updH (fun h => { h with haltReq := false }) s))
  else runQueues ex s

/-- One step of the current hart: nothing without a context, in debug halt (R360), once every core has stopped
(R444), or while the dies are held in reset (R17). -/
def stepHart (ex : BitVec 32 → State → Out) (s : State) : Out :=
  if s.mgmt.stopped = true ∨ s.mgmt.held = true ∨ s.hart.status = .noContext ∨ s.hart.status = .halted then .next s
  else
    let t := retryDisplace s.hn (performRegs s)
    if t.hart.status = .noContext then .next t
    else if t.hart.haltReq then haltStep ex t
    else if displacing t t.hn && t.hart.answer.isNone then quiesce ex t
    else if t.hart.stopFor.isSome && t.hart.answer.isNone then stopStep ex t
    else runHart ex t

/-- A stop comes n rounds or rows into the next `fop`, `mst` or `mld` of the current hart (R274, R298); with a shadow VQ a stop lets
the live VQ retire (R409). -/
def stopAfter (n : Nat) (s : State) : State :=
  if s.hart.shadow.isEmpty then updH (fun h => { h with cut := some n }) s else s

/-- What reaches the management core: a message, a start of the device, or its own reporting (R439, R443, R444). -/
def isMgmt (i : Instr) : Bool :=
  match i with
  | .ringSetup .. | .start .. | .nodemap .. | .resync .. | .otherTypeMessage .. | .debugHalt .. | .debugRelease ..
  | .haltOnBreak .. | .attest .. | .reset .. | .coldStart | .dumprel .. | .place .. | .eventReport .. => true
  | _ => false

/-- What a core does, which every core that is stopped for heat leaves undone (R444): its harts, its copy engine and its fabric. -/
def isCoreStep (i : Instr) : Bool :=
  match i with
  | .convoyDecode | .convoyCommit | .convoyIssue | .convoyRetire | .interruptTake .. | .storeBufferDrain .. | .tableWalk ..
  | .combiningEntryRetire .. | .streamRetire .. | .streamHeadland .. | .exchangeStart .. | .barrierArrival .. | .laneGroupTake ..
  | .contextResume .. | .fopComplete .. | .fopMoreStop .. | .fopFault .. | .fabricDrainTimeout .. | .waitSpuriousEnd .. => true
  | _ => false

/-- An event that comes to nothing: the dies are held in reset (R17), or every core is stopped (R444). -/
def idleEvent (s : State) (i : Instr) : Bool := (s.mgmt.held && !isMgmt i) || (s.mgmt.stopped && isCoreStep i)

/-- An input that reaches the management core alone. -/
def toMgmt : Input → Bool
  | .resync | .delivery _ => true
  | _ => false

/-- One step: an input when one has come (log 1), else the current hart. out: what an input does that is no event row. While the management core
holds the dies in reset, only what reaches that core itself acts (R17, R441, R445). -/
def stepWith (ex : BitVec 32 → State → Out) (ev : Instr → State → Out) (out : Input → State → State) (s : State) : Out :=
  match s.stop, s.inputs with
  | some f, _ => .fault f
  | none, .event i :: xs => if idleEvent s i then .next { s with inputs := xs } else ev i { s with inputs := xs }
  | none, .turn n :: xs => .next (if n < nHarts then switchTo n { s with inputs := xs } else { s with inputs := xs })
  | none, .cut n :: xs => .next (stopAfter n { s with inputs := xs })
  | none, x :: xs => done (if s.mgmt.held && !toMgmt x then { s with inputs := xs } else out x { s with inputs := xs })
  | none, [] => stepHart ex s

/-- What a slot's word does, given what its instruction does: a word that is none is only to be met in a frame that software
has written (R415, log 48). -/
noncomputable def runWord (run : Instr → State → Out) (w : BitVec 32) (s : State) : Out :=
  match Sys2Proof.decode w with
  | .ok i => run i s
  | .error _ => done (if s.hart.iss.group then slotEarly cIllegal (word w.toNat) s else trap cIllegal (word w.toNat) s)

/-! An instruction placed for the next step (log 2) -/

/-- Where the current hart fetches its next convoy, when its next step is a fetch. -/
def fetchPlace (s : State) : Option Nat :=
  if s.stop.isNone && s.inputs.isEmpty && idleHart s.hart && s.hart.cv.slot = 0 && s.hart.answer.isNone && s.hart.vanswer.isNone
      && !regsLeft s.hart.storeBuf && !takesIrq s.hart && !displacing s s.hn && !s.mgmt.stopped && !s.mgmt.held && !s.hart.haltReq && s.hart.stopFor.isNone then
    match check s s.hart.pc 16 { ex := true, window := false, align := 16 } with
    | .ok (.pa a) _ _ => some a
    | _ => none
  else none

/-- The convoy whose slot 0 is the word and whose other slots are empty, at pa; the hart and its core hold no older copy. -/
def placeWord (pa nbits w : Nat) (s : State) : State :=
  modCore (myCore s) (fun c => { c with icache := Tab.set none c.icache (pa / 128) none })
    (updH (fun h => { h with ahead := Tab.set none h.ahead (pa / 128) none }) (cleanLine pa { s with mem := putBytesRaw s.mem pa (toBytes (w % 2 ^ nbits) 16) }))

/-- The current hart is started as START starts one (R440, R443), at 0x10000 under a translation that maps the low 128 GiB
onto themselves: span table at 0x2000, root at 0x4000. -/
def placeStart (s : State) : State :=
  updH (fun h =>
    { h with
      status := .running
      pc := 0x10000
      hstat := h.hstat ||| 1
      ptbase := 0x2000
      cv := {}
      vq := []
      mq := []
      storeBuf := []
      answer := none
      vwait := none
      vanswer := none
      rowsDue := none
      haltReq := false
      stopFor := none
      pend := [] })
    { s with
      stop := none
      mgmt := { s.mgmt with stopped := false, held := false }
      inputs := []
      tlb := []
      clusters := if displacing s s.hn then Tab.modify {} s.clusters (clusterOf s.hn) (fun c => { c with cmd := 0 }) else s.clusters
      mem := putBytesRaw (putBytesRaw s.mem 0x2000 (toBytes 0x4001 8)) 0x4000 (toBytes 0x1F 8)
      linePois := Tab.drop (fun l => decide (l = 0x40 ∨ l = 0x80)) s.linePois }

end Sys2Proof.Machine
end

