-- ==== Sys2Proof/Machine/Link.lean ====
section
/-! DEFINITION. Kraha ports: flits, their check, and replay (R324 to R326). -/

namespace Sys2Proof.Machine

/-- Kraha ports of the device (R2). -/
def nPorts : Nat := 16

def getPort (s : State) (p : Nat) : Port := Tab.get {} s.ports p
def modPort (p : Nat) (f : Port → Port) (s : State) : State := { s with ports := Tab.modify {} s.ports p f }

/-- This device's node number (R439). -/
def myNode (s : State) : Nat := s.mgmt.node.toNat

/-- The port that leads to a node (R325, log 21). -/
def portTo (n : Nat) : Nat := Config.portOf n % nPorts

/-- A node that a collective can name (R317): firmware has a route to it, and its port is up (R326). -/
def reachable (s : State) (n : Nat) : Bool :=
  s.mgmt.reach.any (fun r => r.toNat = n) && !(getPort s (portTo n)).down

/-- The 248 bytes that the CRC covers (R324). -/
def flitBytes (f : Flit) : List Byte :=
  toBytes f.seq.toNat 4 ++ toBytes f.ack.toNat 4 ++ toBytes f.type.toNat 4 ++ toBytes f.cid.toNat 2 ++ toBytes f.src.toNat 2
    ++ toBytes f.dst.toNat 2 ++ toBytes f.tile.toNat 2 ++ [f.round, f.nblk, f.wg, f.ncon] ++ f.payload

/-- One bit of the CRC-64 of ECMA-182 (log 21): most significant first, initial value 0. -/
def crcBit (c : Nat) : Nat :=
  if 2 ^ 63 ≤ c then Nat.xor (2 * c % 2 ^ 64) 0x42F0E1EBA9EA3693 else 2 * c

/-- n bits of it; zero stays zero. -/
def crcBits : Nat → Nat → Nat
  | 0, c => c
  | _ + 1, 0 => 0
  | n + 1, c + 1 => crcBits n (crcBit (c + 1))

/-- Bytes after a CRC of c. -/
def crcBytes : List Byte → Nat → Nat
  | [], c => c
  | b :: bs, 0 => crcBytes bs (crcBits 8 (b.toNat * 2 ^ 56))
  | b :: bs, c + 1 => crcBytes bs (crcBits 8 (Nat.xor (c + 1) (b.toNat * 2 ^ 56)))

/-- CRC-64 over bytes. -/
def crc64 (bs : List Byte) : Nat := crcBytes bs 0

/-- The CRC of the flit holds. -/
def crcOk (f : Flit) : Bool := f.crc.toNat = crc64 (flitBytes f)

/-- What a node puts in a flit; the port adds SEQ, ACK and CRC. -/
structure FlitBody where
  type : Nat
  cid : Nat := 0
  dst : Nat := 0
  tile : Nat := 0
  round : Nat := 0
  nblk : Nat := 1
  wg : Nat := 0
  ncon : Nat := 0
  payload : Nat := 0
  deriving DecidableEq, Repr

/-- A flit with that body from this node, before a port has given it SEQ, ACK and CRC. -/
def makeFlit (s : State) (b : FlitBody) : Flit :=
  { seq := 0, ack := 0, type := BitVec.ofNat 8 b.type, cid := BitVec.ofNat 16 b.cid, src := s.mgmt.node
    dst := BitVec.ofNat 12 b.dst, tile := BitVec.ofNat 16 b.tile, round := BitVec.ofNat 8 b.round
    nblk := BitVec.ofNat 8 b.nblk, wg := BitVec.ofNat 8 b.wg, ncon := BitVec.ofNat 8 b.ncon
    payload := toBytes b.payload 224, crc := 0 }

/-- The flit as the port sends it next. -/
def stampFlit (q : Port) (f : Flit) : Flit :=
  let g := { f with seq := q.seq, ack := q.rxNext - 1 }
  { g with crc := BitVec.ofNat 64 (crc64 (flitBytes g)) }

/-- The replay buffer has room for n flits more (R325). -/
def Port.room (q : Port) (n : Nat) : Bool := q.due.isEmpty && decide (q.replay.length + n ≤ 1024)

/-- A flit is sent, and kept until it is acknowledged (R325). -/
def Port.emit (q : Port) (f : Flit) : Port := { q with seq := q.seq + 1, replay := q.replay ++ [stampFlit q f] }

/-- Flits that waited for room are sent, in order. -/
def Port.sendDue (q : Port) : Port :=
  loop (fun _ (x : Port) => match x.due with
    | [] => x
    | f :: fs => if x.replay.length < 1024 then { x.emit f with due := fs } else x) 0 q.due.length q

/-- Port p sends a flit as soon as its replay buffer has room. -/
def passFlit (p : Nat) (f : Flit) (s : State) : State :=
  modPort p (fun q => if q.down then q else if q.room 1 then q.emit f else { q with due := q.due ++ [f] }) s

/-- Port p sends a flit of this node. -/
def sendOn (p : Nat) (b : FlitBody) (s : State) : State := passFlit p (makeFlit s b) s

/-- A flit for its node, by the route to it. -/
def sendFlit (b : FlitBody) (s : State) : State := sendOn (portTo b.dst) b s

/-- Rounds and exponents for these nodes can be sent now: their ports are up and the replay buffers have room (R325). -/
def canSend (s : State) (ns : List Nat) : Bool :=
  ns.all (fun n =>
    let q := getPort s (portTo n)
    !q.down && !q.retraining && q.room (ns.filter (fun m => portTo m = portTo n)).length)

/-- Flits up to SEQ have been received in order at the other side: the port's own flits make progress (R326). -/
def ackTo (a : BitVec 32) (q : Port) : Port :=
  let rest := q.replay.dropWhile (fun f => decide ((a - f.seq).toNat < 2 ^ 31))
  if rest.length < q.replay.length then Port.sendDue { q with replay := rest, replays := 0 } else q

/-- The flit is the next of its port and its CRC holds (R325). -/
def flitGood (s : State) (p : Nat) (f : Flit) : Bool := crcOk f && f.seq = (getPort s p).rxNext

/-- The port carries flits. -/
def portUp (s : State) (p : Nat) : Bool := decide (p < nPorts) && !(getPort s p).down && !(getPort s p).retraining

/-- A replay is counted (R326): of the port's own flits, or one that it asks for. -/
def countReplay (own : Bool) (p : Nat) (s : State) : State :=
  report 2 (modPort p (fun q =>
    { q with replays := q.replays + b2n own, asks := q.asks + b2n (!own), nReplays := q.nReplays + 1 }) s)

/-- A flit is dropped and a replay request is sent (R325). -/
def dropFlit (p : Nat) (s : State) : State :=
  countReplay false p (sendOn p { type := 5, payload := (getPort s p).rxNext.toNat } s)

/-- A flit is accepted: the flits that come in make progress, and what it acknowledges is released. -/
def acceptFlit (p : Nat) (f : Flit) (s : State) : State :=
  modPort p (fun q => { ackTo f.ack q with rxNext := q.rxNext + 1, asks := 0 }) s

/-- A replay request: everything from the expected SEQ is sent again, and what is before it has been received (R325). -/
def resend (p : Nat) (f : Flit) (s : State) : State :=
  let e := ofBytes (f.payload.take 4)
  countReplay true p (modPort p (fun q =>
    if q.seq.toNat = e || q.replay.any (fun g => g.seq.toNat = e) then
      let rest := q.replay.dropWhile (fun g => decide (g.seq.toNat ≠ e))
      Port.sendDue { q with replay := rest, replays := if rest.length < q.replay.length then 0 else q.replays }
    else q) s)

/-- REPLAY_LIMIT (R326): the port retrains after 16 replays without progress. -/
def execReplayLimit (port : Nat) (s : State) : Host.Outcome State Fault Refusal :=
  done (if portUp s port && (decide (16 ≤ (getPort s port).replays) || decide (16 ≤ (getPort s port).asks)) then
      modPort port (fun q => { q with retraining := true, nRetrains := q.nRetrains + 1 }) s
    else s)

/-- PORT_RETRAINED (R326): the port carries flits again. -/
def execPortRetrained (port : Nat) (s : State) : Host.Outcome State Fault Refusal :=
  done (if (getPort s port).retraining then modPort port (fun q => { q with retraining := false, replays := 0, asks := 0 }) s else s)

end Sys2Proof.Machine
end

