-- ==== Sys2Proof/Machine/Coll.lean ====
section
/-! DEFINITION. Collectives: conversion, contexts, slots, the flits of a sheaf, and the collective instructions (R137, R308 to
R323, R326). A context's steps are the device's own (log 1): COLLECTIVE_ROUND_SEND, REDUCER_FORWARD and the flits. -/

namespace Sys2Proof.Machine

/-! Conversion (R137, R308) -/

/-- X of a tile (R137). -/
def tileExp (vs : List FVal) : Nat :=
  let ls := vs.filterMap (fun v => match v with
    | .fin _ m _ => if m = 0 then none else some (fLog2 v)
    | _ => none)
  match ls with
  | [] => 0
  | l :: _ => (max 0 (min 254 (ls.foldl max l + 128))).toNat

/-- M of one element under exponent x, modulo 2^w; NAN 1 and SAT 2. -/
def tileMant (w x : Nat) : FVal → Nat × Nat
  | .nan => (0, 1)
  | .inf neg => (wrap (satI w true (if neg then -(2 : Int) ^ 70 else (2 : Int) ^ 70)) w, 2)
  | .fin neg m e =>
    let i := roundI {} neg m (e + ((w : Int) - 1) - ((x : Int) - 127))
    let j := satI w true i
    (wrap j w, if i = j then 0 else 2)

/-- A tile of 256 elements in block fixed point. -/
def convTile (w xf : Nat) (vs : List FVal) (pois : Bool) : OwnTile :=
  let x := if xf = 0 then tileExp vs else xf
  let ms := vs.map (tileMant w x)
  { x := x
    flags := ms.foldl (fun n m => Nat.lor n m.2) (if pois then 4 else 0)
    mants := ms.map (·.1) }

/-- Plane of round q: bit i is bit w - 1 - q of mantissa i (R309). -/
def ownPlane (w q : Nat) (t : OwnTile) : Nat := t.mants.foldr (fun m n => fld m (w - 1 - q) 1 + 2 * n) 0

/-- Element i of digits held as planes, plane b at bit 256 b. -/
def digitAt (ds g i : Nat) : Nat := loop (fun b n => n + fld ds (256 * b + i) 1 * 2 ^ b) 0 (g + 1) 0

/-- The sums of the digits of several inputs, as planes (R310). -/
def addDigits (g : Nat) (ds : List Nat) : Nat :=
  loop (fun i n =>
    let d := (ds.map (fun x => digitAt x g i)).sum
    loop (fun b m => m + fld d b 1 * 2 ^ (256 * b + i)) 0 (g + 1) n) 0 256 0

/-! Contexts -/

def getColl (s : State) (k : Nat) : CollCtx := Tab.get {} s.colls k
def putColl (k : Nat) (c : CollCtx) (s : State) : State := { s with colls := Tab.set {} s.colls k c }

/-- Contexts of each die's engine (R317). -/
def nCtx : Nat := 32

/-- The live context that p picks. -/
def findColl (s : State) (p : CollCtx → Bool) : Option Nat := (s.colls.find? (fun e => e.2.live && p e.2)).map (·.1)

/-- G for NTOT contributions (R309). -/
def guardBits (ntot : Nat) : Nat := if ntot ≤ 1 then 0 else log2 (ntot - 1) + 1

/-- S (R311). -/
def slotBytes (w g : Nat) : Nat := 128 * ceilDiv (64 + 32 * w * (g + 1)) 128

/-- A root: a reducer with no parent (R315). -/
def CollCtx.isRoot (c : CollCtx) : Bool := c.role = .red && c.peer = 0xFFF

/-- Where a reducer sends its sheaf (R320), and a sender. -/
def CollCtx.outs (c : CollCtx) : List Nat :=
  match c.role with
  | .send => [c.peer]
  | .recv => []
  | .red => if c.isRoot then c.forwards else [c.peer]

/-- The nodes that its own flits come from. -/
def CollCtx.ins (c : CollCtx) : List Nat :=
  match c.role with
  | .send => []
  | .recv => [c.peer]
  | .red => c.children

/-- The window after that of tile t ends here. -/
def CollCtx.winEnd (c : CollCtx) (win : Nat) : Nat := min c.ntile (256 * (win + 1))

/-- The tile has ended. -/
def CollCtx.over (c : CollCtx) (t : Nat) : Bool := Tab.get 0 c.ends t != 0

/-- Every tile has ended. -/
def CollCtx.allOver (c : CollCtx) : Bool := (range 0 c.ntile).all c.over

/-- The next round of a tile in the order of R310, from a place in that order on; a tile that has ended sends no more
rounds. -/
def CollCtx.seek (c : CollCtx) : Nat → Nat → Nat → Nat → Option (Nat × Nat × Nat)
  | 0, _, _, _ => none
  | n + 1, win, q, t =>
    if c.ntile ≤ 256 * win then none
    else match findFrom (fun i => decide (c.exps ≤ i) || !c.over i) t (c.winEnd win - t) with
      | some i => some (win, q, i)
      | none => if q + 1 < c.w then c.seek n win (q + 1) (256 * win) else c.seek n (win + 1) 0 (256 * (win + 1))

/-- The round that is next. -/
def CollCtx.nextRound (c : CollCtx) : Option (Nat × Nat × Nat) := c.seek 273 c.win c.q c.tile

/-- Round q of tile t is done with. -/
def CollCtx.passed (c : CollCtx) (win q t : Nat) : CollCtx :=
  { c with
    win := win
    q := q
    tile := t + 1
    pcs := Tab.set 0 c.pcs t (q + 1)
    rounds := Tab.set 0 c.rounds win (q + 1) }

/-! Slots (R311, R312) -/

def hERR : Nat := 2 ^ 15
def hXMIS : Nat := 2 ^ 14
def hDONE : Nat := 2 ^ 10
def hCANCELLED : Nat := 2 ^ 9
def hLINK : Nat := 2 ^ 8

/-- The fixed part of a header: SRC, CID, WM4 and G. -/
def headBase (s : State) (c : CollCtx) : Nat :=
  (if c.role = .recv then c.peer else myNode s) * 2 ^ 52 + c.cid * 2 ^ 32 + (c.w - 4) * 2 ^ 28 + c.g * 2 ^ 25

/-- PC, the flags as R312 shows them, and the end bits of tile t. -/
def tileBits (c : CollCtx) (t : Nat) : Nat :=
  let pc := Tab.get 0 c.pcs t
  let e := Tab.get 0 c.ends t
  let f := Tab.get 0 c.flags t
  e + pc + (if pc != 0 || e != 0 then fld f 0 1 * 2 ^ 11 + fld f 1 1 * 2 ^ 12 + fld f 2 1 * 2 ^ 13 else 0)

/-- Bytes of a slot's place written by the engine: memory, a tile, whose words that it writes whole carry poison no longer
(R84), or the register space, which ignores them. A retired core's window is not reached (R14). -/
def putKey (k : Nat) (bs : List Byte) (s : State) : State :=
  let o := k - regEnd
  if regEnd ≤ k then
    if (getCore s (o / 524288)).retired then s
    else
      { s with
        tiles := putTileRaw s.tiles 0 o bs
        tilePois := (range (ceilDiv o 64) ((o + bs.length) / 64 - ceilDiv o 64)).foldl (fun t w => Tab.set false t w false) s.tilePois }
  else if inRegs k then s
  else { putLines none k bs s with colls := s.colls }

/-- Bytes at an offset of slot t, within one 128-byte unit. -/
def putSlotAt (c : CollCtx) (t off : Nat) (bs : List Byte) (s : State) : State :=
  if c.slots.isEmpty then s else putKey (nth 0 c.slots (t * c.per + off / 128) + off % 128) bs s

/-- A slot that software has written while the collective is live: nothing is said of its contents (R311, log 21). -/
def raceSlot (c : CollCtx) (t : Nat) (s : State) : State :=
  if Tab.get false c.dirty t then
    let s1 := loop (fun u x => putSlotAt c t (128 * u) ((range (128 * u) 128).map (Config.raceByte x.free)) x) 0 c.per s
    { s1 with free := s1.free + 1 }
  else s

/-- The header of tile t is written (R312). -/
def putHeader (c : CollCtx) (t : Nat) (s : State) : State :=
  raceSlot c t (putSlotAt c t 0 (toBytes (headBase s c + tileBits c t) 8) s)

/-- Every byte of every slot becomes zero, and the headers are written (R311). -/
def openSlots (c : CollCtx) (s : State) : State :=
  if c.slots.isEmpty then s
  else
    loop (fun t x => putHeader c t x) 0 c.ntile
      (c.slots.foldl (fun x k => putKey k (toBytes 0 128) x) s)

/-- Round q of tile t lands: its planes, then the counter (R311, R312). -/
def landRound (c : CollCtx) (win q t ds : Nat) (s : State) : CollCtx × State :=
  let c1 := c.passed win q t
  let s1 := loop (fun b x => putSlotAt c t (64 + 32 * ((c.g + 1) * q + b)) (toBytes (ds / 2 ^ (256 * b)) 32) x) 0 (c.g + 1) s
  (c1, putHeader c1 t s1)

/-- Tile t ends with these bits besides DONE, and with CANCELLED after an accepted cancel (R312, R321). -/
def endTile (c : CollCtx) (t bits : Nat) (s : State) : CollCtx × State :=
  if c.over t then (c, s)
  else
    let c1 := { c with ends := Tab.set 0 c.ends t (hDONE + bits + if c.cancelled then hCANCELLED else 0) }
    (c1, putHeader c1 t s)

/-- Every tile that has not ended ends, with these bits besides (R319, R321, R326). -/
def endTiles (c : CollCtx) (bits : Nat) (s : State) : CollCtx × State :=
  loop (fun t r => endTile r.1 t bits r.2) 0 c.ntile (c, s)

/-- The exponent entry of tile t lands: the first flit of the tile (R319, R320). A mismatch ends it with XMIS, poison with
POISON (R308), and else X goes to the slot. -/
def landExp (c : CollCtx) (t x flags : Nat) (bad : Bool) (s : State) : CollCtx × State :=
  let c1 := { c with exps := max c.exps (t + 1), flags := Tab.set 0 c.flags t (flags % 8) }
  if bad then endTile c1 t (hERR + hXMIS) s
  else if nbit flags 2 then endTile c1 t hERR s
  else (c1, putSlotAt c t 8 [BitVec.ofNat 8 x] s)

/-! Sending (R310, R324) -/

/-- The WG field. -/
def wgOf (c : CollCtx) : Nat := c.w - 4 + 16 * c.g

/-- One flit to every consumer that still takes them. -/
def sendOuts (c : CollCtx) (b : FlitBody) (s : State) : State :=
  c.outs.foldl (fun x n => if c.outDone.contains n then x else sendFlit { b with cid := c.cid, dst := n, wg := wgOf c } x) s

/-- The consumers that still take flits can be reached now. -/
def canSendOuts (s : State) (c : CollCtx) : Bool := canSend s (c.outs.filter (fun n => !c.outDone.contains n))

/-- Exponent entries from tile t on: X and the flags, 2 bytes each. -/
def expPayload (es : List (Nat × Nat)) : Nat := es.foldr (fun e n => e.1 % 256 + e.2 % 8 * 256 + 65536 * n) 0

/-- Rounds sent per window, a byte each (R324). -/
def endPayload (c : CollCtx) : Nat := (range 0 16).foldr (fun k n => Tab.get 0 c.rounds k % 256 + 256 * n) 0

/-- The end flit goes to the consumers that have not had it. -/
def sendEnds (c : CollCtx) (s : State) : CollCtx × State :=
  ({ c with outDone := c.outs }, sendOuts c { type := 3, payload := endPayload c } s)

/-- A cancel flit goes upstream, once (R321). -/
def sendCancels (c : CollCtx) (s : State) : CollCtx × State :=
  if c.upSent then (c, s)
  else ({ c with upSent := true }, c.ins.foldl (fun x n => sendFlit { type := 4, cid := c.cid, dst := n } x) s)

/-- The context frees. -/
def freeColl (k : Nat) (s : State) : State := putColl k {} s

/-- The context stays, as it is now. -/
def keepColl (k : Nat) (r : CollCtx × State) : State := putColl k r.1 r.2

/-- A sender's next flit (R310): the exponent entries of its window, sixteen to a flit; a round of a tile; the end. -/
def senderStep (k : Nat) (c : CollCtx) (s : State) : State :=
  if c.stop then freeColl k (sendEnds c s).2
  else match c.nextRound with
    | none => freeColl k (sendEnds c s).2
    | some (win, q, t) =>
      let top := c.winEnd win
      if c.exps < top then
        let es := (range c.exps (min 16 (top - c.exps))).map (fun i => (i, nth {} c.own i))
        let c1 := es.foldl (fun (x : CollCtx) e =>
          let y := { x with flags := Tab.set 0 x.flags e.1 e.2.flags, exps := e.1 + 1 }
          if nbit e.2.flags 2 then { y with ends := Tab.set 0 y.ends e.1 (hDONE + hERR) } else y) c
        putColl k c1 (sendOuts c { type := 2, tile := c.exps, ncon := 1, payload := expPayload (es.map (fun e => (e.2.x, e.2.flags))) } s)
      else
        putColl k (c.passed win q t)
          (sendOuts c { type := 1, tile := t, round := q, nblk := c.g + 1, payload := ownPlane c.w q (nth {} c.own t) } s)

/-- COLLECTIVE_ROUND_SEND (R310). -/
def execCollectiveRoundSend (die ctx : Nat) (s : State) : Host.Outcome State Fault Refusal :=
  let k := die * nCtx + ctx
  let c := getColl s k
  done (if decide (ctx < nCtx) && c.live && c.role = .send && canSendOuts s c then senderStep k c s else s)

/-! Reducing (R310, R320) -/

/-- The entries of tile t from every input and the node itself, when all are held. -/
def expsOf (c : CollCtx) (t : Nat) : Option (List ExpEntry) :=
  let xs := (range 0 c.children.length).map (fun i => Tab.get none (Tab.get {} c.inputs i).exps t)
  if xs.all (·.isSome) then
    some (xs.filterMap id ++ (if c.own.isEmpty then [] else
      let o := nth {} c.own t
      [{ x := o.x, flags := o.flags, ncon := 1, w := c.w, g := c.g }]))
  else none

/-- The digits of round q of tile t from every input and the node itself, when all are held. -/
def digitsOf (c : CollCtx) (q t : Nat) : Option (List Nat) :=
  let xs := (range 0 c.children.length).map (fun i => Tab.get none (Tab.get {} c.inputs i).digits (16 * t + q))
  if xs.all (·.isSome) then
    some (xs.filterMap (fun o => o.map (·.toNat)) ++ (if c.own.isEmpty then [] else [ownPlane c.w q (nth {} c.own t)]))
  else none

/-- What the entries of a tile come to: X, the flags, the contributions, a mismatch (R320). -/
def combineExps (c : CollCtx) (es : List ExpEntry) : Nat × Nat × Nat × Bool :=
  let ncon := (es.map (·.ncon)).sum
  (c.xf, es.foldl (fun n e => Nat.lor n e.flags) 0, ncon,
    es.any (fun e => e.x != c.xf || e.w != c.w || e.g != c.g) || (c.isRoot && ncon != c.ntot))

/-- X of an entry that tells its destinations that the tile has ended with a mismatch: no tile has it (R137; log 21). -/
def mismatchX : Nat := 255

/-- The reducer's next group of exponent entries, when every input has sent it. -/
def reduceExps (k : Nat) (c : CollCtx) (top : Nat) (s : State) : State :=
  let ts := range c.exps (min 16 (top - c.exps))
  let es := ts.map (expsOf c)
  if es.all (·.isSome) then
    let cs := (ts.zip (es.filterMap id)).map (fun e => (e.1, combineExps c e.2))
    let r := cs.foldl (fun (r : CollCtx × State) e => landExp r.1 e.1 e.2.1 e.2.2.1 e.2.2.2.2 r.2) (c, s)
    let ncon := (cs.head?.map (fun e => e.2.2.2.1)).getD 0
    putColl k r.1 (sendOuts c
      { type := 2, tile := c.exps, ncon := ncon
        payload := expPayload (cs.map (fun e => (if e.2.2.2.2 then mismatchX else e.2.1, e.2.2.1))) } r.2)
  else s

/-- Every input has ended. -/
def CollCtx.inputsEnded (c : CollCtx) : Bool := (range 0 c.children.length).all (fun i => (Tab.get {} c.inputs i).ended)

/-- The reducer has all that it will get: its tiles end, its consumers have the end flit, and it frees (R319 to R321). -/
def reduceEnd (k : Nat) (c : CollCtx) (s : State) : State :=
  if c.inputsEnded then freeColl k (sendEnds c (endTiles c 0 s).2).2
  else if c.stop && !c.isRoot then keepColl k (sendEnds c s)
  else s

/-- A reducer's next piece of work. -/
def reducerStep (k : Nat) (c : CollCtx) (s : State) : State :=
  if c.stop && !c.isRoot then reduceEnd k c s
  else match c.nextRound with
    | none => reduceEnd k c s
    | some (win, q, t) =>
      let top := c.winEnd win
      if c.exps < top then
        (if (range c.exps (min 16 (top - c.exps))).all (fun i => (expsOf c i).isSome) then reduceExps k c top s
         else reduceEnd k c s)
      else match digitsOf c q t with
        | none => reduceEnd k c s
        | some ds =>
          let d := addDigits c.g ds
          let r := landRound c win q t d s
          putColl k r.1 (sendOuts c { type := 1, tile := t, round := q, nblk := c.g + 1, payload := d } r.2)

/-- REDUCER_FORWARD (R310). -/
def execReducerForward (die ctx : Nat) (s : State) : Host.Outcome State Fault Refusal :=
  let k := die * nCtx + ctx
  let c := getColl s k
  done (if decide (ctx < nCtx) && c.live && c.role = .red && canSendOuts s c then reducerStep k c s else s)

/-! Flits that arrive (R319 to R321, R325) -/

/-- The planes of a type 1 flit for its j-th tile. -/
def flitDigits (f : Flit) (g j : Nat) : Nat := ofBytes ((f.payload.drop (32 * (g + 1) * j)).take (32 * (g + 1)))

/-- The tiles that a flit's blocks carry, 16 entries or one tile's planes to a unit, within its window. -/
def flitTiles (c : CollCtx) (f : Flit) (n : Nat) : List Nat :=
  let t := f.tile.toNat
  range t (min n (c.winEnd (t / 256) - t))

/-- Exponent entry j of a type 2 flit. -/
def flitExp (f : Flit) (j : Nat) : ExpEntry :=
  let e := ofBytes ((f.payload.drop (2 * j)).take 2)
  { x := fld e 0 8, flags := fld e 8 3, ncon := f.ncon.toNat, w := fld f.wg.toNat 0 4 + 4, g := fld f.wg.toNat 4 3 }

/-- An entry that does not match the receive (R319). -/
def recvMismatch (c : CollCtx) (e : ExpEntry) : Bool :=
  e.w != c.w || e.g != c.g || e.ncon != c.ntot || e.x = mismatchX || (c.xf != 0 && e.x != c.xf)

/-- Exponent entries reach a receive or a reducer; a tile has one entry from each input. -/
def takeExps (c : CollCtx) (i : Nat) (f : Flit) (s : State) : CollCtx × State :=
  let ts := flitTiles c f (16 * min 7 f.nblk.toNat)
  if c.role = .recv then
    ts.foldl (fun r t =>
      if t < r.1.exps then r
      else
        let e := flitExp f (t - f.tile.toNat)
        landExp r.1 t e.x e.flags (recvMismatch c e) r.2) (c, s)
  else
    let x := Tab.get {} c.inputs i
    let y := { x with exps := ts.foldl (fun m t => Tab.set none m t (some (flitExp f (t - f.tile.toNat)))) x.exps }
    ({ c with inputs := Tab.set {} c.inputs i y }, s)

/-- Rounds reach a receive, where they land, or a reducer, which holds them. -/
def takeRounds (c : CollCtx) (i : Nat) (f : Flit) (s : State) : CollCtx × State :=
  let ts := flitTiles c f (min 7 f.nblk.toNat / (c.g + 1))
  let q := f.round.toNat
  if c.role = .recv then
    ts.foldl (fun r t =>
      if decide (t < r.1.exps) && !r.1.over t && Tab.get 0 r.1.pcs t = q && decide (q < c.w) then
        landRound r.1 (t / 256) q t (flitDigits f c.g (t - f.tile.toNat)) r.2
      else r) (c, s)
  else
    let x := Tab.get {} c.inputs i
    let put (m : Tab (Option (BitVec 1280))) (t : Nat) : Tab (Option (BitVec 1280)) :=
      if q < c.w then Tab.set none m (16 * t + q) (some (BitVec.ofNat 1280 (flitDigits f c.g (t - f.tile.toNat)))) else m
    let y := { x with digits := ts.foldl put x.digits }
    ({ c with inputs := Tab.set {} c.inputs i y }, s)

/-- The input of a context that node n is. -/
def inputOf (c : CollCtx) (n : Nat) : Nat := (findFrom (fun i => nth 4096 c.ins i = n) 0 c.ins.length).getD 0

/-- The end flit: a receive ends its tiles and frees; a reducer has one input less (R319). -/
def takeEnd (k : Nat) (c : CollCtx) (i : Nat) (s : State) : State :=
  if c.role = .recv then freeColl k (endTiles c 0 s).2
  else putColl k { c with inputs := Tab.modify {} c.inputs i (fun x => { x with ended := true }) } s

/-- The consumers of a root that have to cancel (R321). -/
def rootCancelled (c : CollCtx) : Bool :=
  c.forwards.all (fun n => c.downCancel.contains n) && (c.slots.isEmpty || c.cancelled)

/-- A cancel flit from a consumer (R321). A root sends no more to that consumer, and passes the cancel on when all have
cancelled. -/
def takeCancel (k : Nat) (c : CollCtx) (n : Nat) (s : State) : State :=
  if c.role = .send then putColl k { c with stop := true } s
  else if c.isRoot then
    let c1 := { c with downCancel := c.downCancel ++ [n] }
    let s1 := if c.outDone.contains n then s
      else sendFlit { type := 3, cid := c.cid, dst := n, wg := wgOf c, payload := endPayload c } s
    let c2 := { c1 with outDone := c1.outDone ++ [n] }
    keepColl k (if rootCancelled c2 then sendCancels c2 s1 else (c2, s1))
  else keepColl k (sendCancels { c with stop := true } s)

/-- The context that a flit is for: by its CID and its sender (R319 to R321). -/
def flitColl (s : State) (f : Flit) : Option Nat :=
  let n := f.src.toNat
  if f.type = 4 then
    findColl s (fun c => c.cid = f.cid.toNat && c.outs.contains n && !c.downCancel.contains n && !c.stop)
  else findColl s (fun c => c.cid = f.cid.toNat && c.ins.contains n)

/-- A flit is delivered to its context. -/
def giveFlit (k : Nat) (f : Flit) (s : State) : State :=
  let c := getColl s k
  let n := f.src.toNat
  match f.type.toNat with
  | 1 => keepColl k (takeRounds c (inputOf c n) f s)
  | 2 => keepColl k (takeExps c (inputOf c n) f s)
  | 3 => takeEnd k c (inputOf c n) s
  | _ => takeCancel k c n s

/-- A flit that this device is not the destination of goes on along its route (R325). -/
def relayFlit (f : Flit) (s : State) : State := passFlit (portTo f.dst.toNat) f s

/-- An accepted flit finds its context, or waits for it (R325). -/
def placeFlit (p : Nat) (f : Flit) (s : State) : State :=
  if f.dst ≠ s.mgmt.node then relayFlit f s
  else match flitColl s f with
    | some k => giveFlit k f s
    | none => modPort p (fun q => { q with held := q.held ++ [f] }) s

/-- The flit is of round traffic: a round or exponents. End and cancel flits travel on credits of their own (R325). -/
def isRoundFlit (f : Flit) : Bool := f.type = 1 || f.type = 2

/-- Round traffic would have to wait and the port's buffer is full, or the port on its way has no room: credits stop its sender
(R325). -/
def heldBack (s : State) (p : Nat) (f : Flit) : Bool :=
  isRoundFlit f
    && (if f.dst = s.mgmt.node then
          (flitColl s f).isNone && decide (64 ≤ ((getPort s p).held.filter isRoundFlit).length)
        else let q := getPort s (portTo f.dst.toNat); !q.down && !q.room 1)

/-- A flit of the given type arrives at a port (R325). -/
def receive (type p : Nat) (f : Flit) (s : State) : State :=
  if f.type.toNat ≠ type ∨ !portUp s p then s
  else if !flitGood s p f then dropFlit p s
  else if type = 0 then acceptFlit p f s
  else if type = 5 then resend p f (acceptFlit p f s)
  else if heldBack s p f then s
  else placeFlit p f (acceptFlit p f s)

/-- ROUND_FLIT (R311). -/
def execRoundFlit (port : Nat) (flit : Flit) (s : State) : Host.Outcome State Fault Refusal :=
  done (receive 1 port flit s)

/-- EXPONENTS_FLIT (R319). -/
def execExponentsFlit (port : Nat) (flit : Flit) (s : State) : Host.Outcome State Fault Refusal :=
  done (receive 2 port flit s)

/-- END_FLIT (R319). -/
def execEndFlit (port : Nat) (flit : Flit) (s : State) : Host.Outcome State Fault Refusal :=
  done (receive 3 port flit s)

/-- CANCEL_FLIT (R321). -/
def execCancelFlit (port : Nat) (flit : Flit) (s : State) : Host.Outcome State Fault Refusal :=
  done (receive 4 port flit s)

/-- REPLAY_REQUEST (R325). -/
def execReplayRequest (port : Nat) (flit : Flit) (s : State) : Host.Outcome State Fault Refusal :=
  done (receive 5 port flit s)

/-- DROPPED_FLIT (R325). -/
def execDroppedFlit (port : Nat) (flit : Flit) (s : State) : Host.Outcome State Fault Refusal :=
  done (if portUp s port && !flitGood s port flit then dropFlit port s else s)

/-- An idle flit: port p receives one, whose SEQ and ACK count like any other's (R324, R325). -/
def idleIn (p : Nat) (f : Flit) (s : State) : State := receive 0 p f s

/-- Port p sends an idle flit. -/
def idleOut (p : Nat) (s : State) : State :=
  if portUp s p && (getPort s p).room 1 then sendOn p { type := 0, nblk := 0 } s else s

/-- The port is down: every collective through it ends at its destinations here with LINK (R326). -/
def linkDown (p : Nat) (s : State) : State :=
  s.colls.foldl (fun x e =>
    if e.2.live && (e.2.ins ++ e.2.outs).any (fun n => portTo n = p) then freeColl e.1 (endTiles e.2 (hERR + hLINK) x).2
    else x) s

/-- RETRAIN_TIMEOUT (R326). -/
def execRetrainTimeout (port : Nat) (s : State) : Host.Outcome State Fault Refusal :=
  done (if (getPort s port).retraining then
      linkDown port (modPort port (fun q => { q with retraining := false, down := true, nFailures := q.nFailures + 1 }) s)
    else s)

/-! Descriptors (R315, R317) -/

/-- A descriptor's fields. -/
structure CollDesc where
  buf : Nat
  own : Nat
  ntile : Nat
  sfmt : Nat
  xf : Nat
  cid : Nat
  peer : Nat
  ntot : Nat
  rest : Nat
  nodes : List Nat
  deriving DecidableEq, Repr

/-- The descriptor from its 64 bytes as a number. -/
def descOf (x : Nat) : CollDesc :=
  let f (b n : Nat) : Nat := fld x (8 * b) (8 * n)
  { buf := f 0 8, own := f 8 8, ntile := f 16 4, sfmt := f 20 1, xf := f 21 1, cid := f 22 2, peer := f 24 2, ntot := f 26 1
    rest := f 27 5, nodes := (range 0 16).map (fun i => f (32 + 2 * i) 2) }

/-- Bytes of a source element (R315). -/
def srcBytes (sfmt : Nat) : Nat := if sfmt = 1 then 4 else 2

/-- Nodes listed with a role: 1 child, 2 forward. -/
def CollDesc.listed (d : CollDesc) (role : Nat) : List Nat :=
  (d.nodes.filter (fun n => fld n 12 2 = role)).map (fun n => n % 4096)

/-- R315 is broken in any form. -/
def badShared (d : CollDesc) : Bool :=
  d.ntile = 0 || decide (4096 < d.ntile) || d.xf = 255 || decide (4096 ≤ d.peer) || d.rest != 0 || decide (3 < d.sfmt)
    || d.ntot = 0 || decide (16 < d.ntot)

/-- R315 is broken in the form's own fields. -/
def badDesc (role : CollRole) (d : CollDesc) : Bool :=
  badShared d || match role with
    | .send => d.sfmt = 0 || d.own != 0 || d.buf % srcBytes d.sfmt != 0
    | .recv => d.sfmt != 0 || d.own != 0 || d.buf % 128 != 0
    | .red =>
      d.xf = 0 || d.ntot = 1 || d.buf % 128 != 0
        || (d.own != 0 && (d.sfmt = 0 || d.own % srcBytes d.sfmt != 0))
        || d.nodes.any (fun n => decide (3 ≤ n / 4096))
        || (d.peer != 0xFFF && (d.buf != 0 || !(d.listed 2).isEmpty))

/-- The nodes that a form names. -/
def CollDesc.named (d : CollDesc) (role : CollRole) : List Nat :=
  if role = .red then d.listed 1 ++ d.listed 2 ++ (if d.peer = 0xFFF then [] else [d.peer]) else [d.peer]

/-- The lowest free context of the hart's die. -/
def freeCtx (s : State) : Option Nat := findFrom (fun k => !(getColl s k).live) (dieOf s.hn * nCtx) nCtx

/-- The status that turns a collective away, in the order 3, 4, 2, 1; 0 when it can start (R317). -/
def collStatus (s : State) (role : CollRole) (d : CollDesc) : Nat :=
  if badDesc role d then 3
  else if (d.named role).any (fun n => !reachable s n) then 4
  else if (findColl s (fun c => c.cid = d.cid && c.role != .send)).isSome then 2
  else if (freeCtx s).isNone then 1
  else 0

/-! Starting (R317 to R320) -/

/-- The places of n pieces of k bytes at va, with the memory types of their pages; a fault traps the hart with the address. An earlier access of the hart to them comes
first (R46, R72, R230). -/
def collPlaces (need : Need) (k : Nat) : Nat → Word → State → State × List (Loc × Nat)
  | 0, _, s => (s, [])
  | n + 1, va, s =>
    if s.hart.iss.bound.isSome || s.hart.iss.wait.isSome || s.stop.isSome then (s, [])
    else match check s va k need with
      | .trap c => (slotFault 0 c va s, [])
      | .hole pa => (halt pa s, [])
      | .ok l mt _ =>
        if exchangeHolds s mt va k l need.wr then (slotWait .stream s, [])
        else
          let t := accessFirst mt va k l need.wr s
          let r := collPlaces need k n (va + word k) (if need.wr && buffered t l k then drainStores t else t)
          (r.1, (l, mt) :: r.2)

/-- One element of a source as the engine reads it, on a page of type mt (R28, R336). -/
def readElem (s : State) (sfmt : Nat) (l : Loc × Nat) : FVal := decode sfmt (readPast l.2 s l.1 (srcBytes sfmt)) false

/-- The source converted, tile by tile. -/
def convertAll (w : Nat) (d : CollDesc) (ls : List (Loc × Nat)) (s : State) : List OwnTile :=
  (range 0 d.ntile).map (fun t =>
    let xs := (ls.drop (256 * t)).take 256
    convTile w d.xf (xs.map (readElem s d.sfmt)) (xs.any (fun l => match l.1 with
      | .pa a => linePoisoned s a (srcBytes d.sfmt)
      | .tile o => tilePoisoned s (myCore s) o (srcBytes d.sfmt))))

/-- Flits that have waited for the new context reach it (R325). -/
def giveHeld (s : State) : State :=
  (range 0 nPorts).foldl (fun x p =>
    let h := (getPort x p).held
    if h.isEmpty then x
    else h.foldl (fun y f => placeFlit p f y) (modPort p (fun q => { q with held := [] }) x)) s

/-- A collective starts in context k. -/
def startColl (k : Nat) (role : CollRole) (w : Nat) (d : CollDesc) (src slots : List (Loc × Nat)) (s : State) : State :=
  let g := guardBits d.ntot
  let c : CollCtx :=
    { live := true, role := role, asid := wfld s.hart.asid 0 16, cid := d.cid, w := w, g := g, ntot := d.ntot
      ntile := d.ntile, xf := d.xf, peer := d.peer
      children := if role = .red then d.listed 1 else []
      forwards := if role = .red then d.listed 2 else []
      slots := slots.map (fun l => locKey s l.1)
      per := slotBytes w g / 128
      own := if src.isEmpty then [] else convertAll w d src s }
  giveHeld (openSlots c (putColl k c s))

/-- The source that a form converts, and the slots that it fills. -/
def sourceOf (role : CollRole) (d : CollDesc) : Option Nat :=
  match role with
  | .send => some d.buf
  | .recv => none
  | .red => if d.own = 0 then none else some d.own
def hasSlots (role : CollRole) (d : CollDesc) : Bool :=
  match role with
  | .send => false
  | .recv => true
  | .red => d.buf != 0

/-- A collective slot once its descriptor is read. -/
def collWith (role : CollRole) (w dst : Nat) (d : CollDesc) (s : State) : State :=
  match collStatus s role d with
  | 0 =>
    let eb := srcBytes d.sfmt
    let r := match sourceOf role d with
      | some a => collPlaces { rd := true, test := false } eb (256 * d.ntile) (word a) s
      | none => (s, [])
    let u := if hasSlots role d then
        collPlaces { wr := true } 128 (d.ntile * (slotBytes w (guardBits d.ntot) / 128)) (word d.buf) r.1
      else (r.1, [])
    let t := u.1
    if t.hart.iss.bound.isSome || t.hart.iss.wait.isSome || t.stop.isSome then t
    else match freeCtx t with
      | some k => result (.reg dst 0 0) (startColl k role w d r.2 u.2 t)
      | none => t
  | st => result (.reg dst (word st) 0) s

/-- `coll.send`, `coll.recv` and `coll.red`: the descriptor is read, and the collective starts or is turned away. -/
def collRun (role : CollRole) (w dst : Nat) (s0 : State) : State :=
  let s := noteViolation s0.hart.pmode s0
  match check s (cap0 s) 64 (needLoad 64) with
  | .trap c => slotFault 0 c (cap0 s) s
  | .hole pa => halt pa s
  | .ok l mt _ =>
    if exchangeHolds s mt (cap0 s) 64 l false then slotWait .stream s
    else
      let t := accessFirst mt (cap0 s) 64 l false s
      collWith role w dst (descOf (readPast mt t l 64)) t

/-- An access of the hart before the slot in hand is not over: a stream, or a store that is older than the slot's convoy. -/
def earlierOpen (s : State) : Bool :=
  !(inFlight s s.hn).isEmpty
    || (if s.hart.iss.seq = 0 then !s.hart.storeBuf.isEmpty else storesLeft s (.hart s.hn) s.hart.iss.seq)

/-- `coll.send` first waits for every earlier access of the hart, streams among them (R318). -/
def collSendRun (w dst : Nat) (s : State) : State :=
  let t := performNow s
  if earlierOpen t then slotWait .stream t else collRun .send w dst t

/-- The checks at issue: R156 for the forms that start something, purity for all (R317). -/
def collCheck (starts : Bool) (s : State) : Option (Nat × Word) :=
  firstTrap [(starts && s.hart.vill, cVtype, s.hart.vtype), (s.hart.pmode && !demotes s, cPurity, curWord s)]

/-- R318: `coll.send`. -/
def execCollSend (d a : BitVec 5) (w : BitVec 4) (s : State) : Host.Outcome State Fault Refusal :=
  done (vslot (getS s a) 0 0 (runSlot .other (collCheck true) (fun _ => []) (collSendRun (w.toNat + 4) d.toNat)) s)

/-- R319: `coll.recv`. -/
def execCollRecv (d a : BitVec 5) (w : BitVec 4) (s : State) : Host.Outcome State Fault Refusal :=
  done (vslot (getS s a) 0 0 (runSlot .other (collCheck true) (fun _ => []) (collRun .recv (w.toNat + 4) d.toNat)) s)

/-- R320: `coll.red`. -/
def execCollRed (d a : BitVec 5) (w : BitVec 4) (s : State) : Host.Outcome State Fault Refusal :=
  done (vslot (getS s a) 0 0 (runSlot .other (collCheck true) (fun _ => []) (collRun .red (w.toNat + 4) d.toNat)) s)

/-! `coll.cancel` and `coll.stat` (R321, R322) -/

/-- The live context of the hart's `asid` with the CID that sa names. -/
def namedColl (s : State) (p : CollCtx → Bool) : Option Nat :=
  findColl s (fun c => c.cid = wfld (cap0 s) 0 16 && c.asid = wfld s.hart.asid 0 16 && p c)

def collCancelRun (dst : Nat) (s0 : State) : State :=
  let s := noteViolation s0.hart.pmode s0
  match namedColl s (fun c => c.role = .recv || c.isRoot) with
  | none => result (.reg dst 1 0) s
  | some k =>
    let c := getColl s k
    if c.cancelled || c.allOver then result (.reg dst 1 0) s
    else
      let c1 := { c with cancelled := true }
      result (.reg dst 0 0)
        (keepColl k (if c1.role = .recv || rootCancelled c1 then sendCancels c1 s else (c1, s)))

/-- R321: `coll.cancel`. -/
def execCollCancel (d a : BitVec 5) (s : State) : Host.Outcome State Fault Refusal :=
  done (vslot (getS s a) 0 0 (runSlot .other (collCheck false) (fun _ => []) (collCancelRun d.toNat)) s)

/-- The role that `coll.stat` shows. -/
def roleCode : CollRole → Nat
  | .send => 1
  | .recv => 2
  | .red => 3

/-- The context is ending (R322). -/
def CollCtx.ending (c : CollCtx) : Bool :=
  match c.role with
  | .send => c.stop || c.nextRound.isNone
  | .recv => c.allOver
  | .red => (c.stop && !c.isRoot) || c.inputsEnded && c.nextRound.isNone

/-- The lowest PC over the tiles; for a send over those sent so far, poisoned ones apart. -/
def lowestPc (c : CollCtx) : Nat :=
  let ts := if c.role = .send then (range 0 c.exps).filter (fun t => !c.over t) else range 0 c.ntile
  match ts with
  | [] => 0
  | t :: _ => ts.foldl (fun n t => min n (Tab.get 0 c.pcs t)) (Tab.get 0 c.pcs t)

/-- The word of R322. -/
def statWord (s : State) (c : CollCtx) : Nat :=
  let ors := (range 0 c.ntile).foldl (fun n t => Nat.lor n (tileBits c t)) 0
  headBase s c + roleCode c.role * 2 ^ 48 + fld ors 11 5 * 2 ^ 11 + b2n c.ending * 2 ^ 10 + fld ors 8 2 * 2 ^ 8 + lowestPc c

def collStatRun (dst : Nat) (s0 : State) : State :=
  let s := noteViolation s0.hart.pmode s0
  match namedColl s (fun _ => true) with
  | none => result (.reg dst 0 0) s
  | some k => result (.reg dst (word (statWord s (getColl s k))) 0) s

/-- R322: `coll.stat`. -/
def execCollStat (d a : BitVec 5) (s : State) : Host.Outcome State Fault Refusal :=
  done (vslot (getS s a) 0 0 (runSlot .other (collCheck false) (fun _ => []) (collStatRun d.toNat)) s)

end Sys2Proof.Machine
end

