-- ==== Sys2Proof/Machine/Mgmt.lean ====
section
/-! DEFINITION. The management core: messages, starting and halting harts, attestation, reset, fatal stops, throttling and
retirement (R13, R14, R111, R182, R409, R439 to R445). -/

namespace Sys2Proof.Machine

def modMgmt (f : Mgmt → Mgmt) (s : State) : State := { s with mgmt := f s.mgmt }

/-! Messages (R439, R440) -/

/-- The 64 bytes of a message of the core. -/
def msgBytes (ack : BitVec 32) (m : Msg) : List Byte :=
  (toBytes m.seq.toNat 4 ++ toBytes ack.toNat 4 ++ [BitVec.ofNat 8 m.type, BitVec.ofNat 8 m.payload.length]
    ++ toBytes m.tag.toNat 2 ++ m.payload ++ toBytes 0 52).take 64

/-- A message is written to its slot of the ring in host memory (log 20). -/
def writeMsg (m : Msg) (s : State) : State :=
  match s.mgmt.rings with
  | none => s
  | some (_, b) =>
    let pa := hostBase + b + 64 * (m.seq.toNat % 256)
    if populated s pa 64 then putBytesBy none pa (msgBytes s.mgmt.expect m) s else s

/-- The core sends a message: it numbers and keeps it, and writes it to the ring. -/
def sendMsg (type : Nat) (tag : BitVec 16) (payload : List Byte) (s : State) : State :=
  let m : Msg := { seq := s.mgmt.next, type := type, tag := tag, payload := payload.take 52 }
  writeMsg m (modMgmt (fun g => { g with next := g.next + 1, sent := g.sent ++ [m] }) s)

/-- REPLY: the status, then results (R439). -/
def reply (tag : BitVec 16) (status : Nat) (results : List Byte) (s : State) : State :=
  sendMsg 9 tag (BitVec.ofNat 8 status :: results) s

/-- Results longer than one message, in several (log 20). -/
def replyLong (tag : BitVec 16) (status : Nat) : Nat → List Byte → State → State
  | 0, _, s => s
  | k + 1, bs, s =>
    let t := reply tag status (bs.take 51) s
    if bs.length ≤ 51 then t else replyLong tag status k (bs.drop 51) t

/-- The host has all messages before ACK. -/
def ackMsgs (a : BitVec 32) (g : Mgmt) : Mgmt :=
  { g with sent := g.sent.dropWhile (fun m => decide ((a - 1 - m.seq).toNat < 2 ^ 31)) }

/-- The bring-up has not come past its first two steps: no firmware runs, or no host is joined (R17, R441, R443). -/
def notUp (s : State) : Bool := decide (s.mgmt.steps < 2)

/-- A message is accepted when it carries the next expected SEQ, and dropped when not (R440). -/
def accept (m : MsgHead) (f : State → State) (s : State) : State :=
  if m.seq = s.mgmt.expect ∧ notUp s = false then f (modMgmt (fun g => ackMsgs m.ack { g with expect := g.expect + 1 }) s) else s

/-- RING_SETUP (R439): the ring bases and HEXT; a later extent waits for a warm reset (R21). -/
def execRingSetup (msg : MsgHead) (toCore toHost hext : Nat) (s : State) : Host.Outcome State Fault Refusal :=
  done (accept msg (fun t =>
    if t.mgmt.rings.isNone then { modMgmt (fun g => { g with rings := some (toCore, toHost) }) t with hext := hext }
    else modMgmt (fun g => { g with rings := some (toCore, toHost), hextNext := some hext }) t) s)

/-- A hart that holds no context runs from the entry convoy with SUP = 1 (R440, R443); one of a retired core does not
(R14). -/
def startHart (entry : Word) (n : Nat) (s : State) : State :=
  if (getHart s n).status = .noContext && !(getCore s (coreOf n)).retired && decide (n < nHarts) then
    modHart n (fun h => { emptyHart h with status := .running, pc := entry &&& 0xFFFFFFFFFFFFFFF0, hstat := 0x9 }) s
  else s

/-- START (R439). -/
def execStart (msg : MsgHead) (harts : List Nat) (entry : Word) (s : State) : Host.Outcome State Fault Refusal :=
  done (accept msg (fun t =>
    reply msg.tag 0 [] (if t.mgmt.held then t else harts.foldl (fun u n => startHart entry n u) t)) s)

/-- NODEMAP (R439): the node number, and the members of the node and of the pool (R334). -/
def execNodemap (msg : MsgHead) (node : BitVec 12) (nodeSet poolSet reach : List (BitVec 12)) (s : State) :
    Host.Outcome State Fault Refusal :=
  done (accept msg (fun t =>
    reply msg.tag 0 [] (modMgmt (fun g => { g with node := node, nodeSet := nodeSet, poolSet := poolSet, reach := reach }) t)) s)

/-- RESYNC (R440): what the host has is let go, and the core sends the rest of its messages again. -/
def execResync (msg : MsgHead) (s : State) : Host.Outcome State Fault Refusal :=
  done (accept msg (fun t => t.mgmt.sent.foldl (fun u m => writeMsg m u) t) s)

/-- The core asks the host to send its messages again, from the SEQ that it expects next (R439, R440). When it does so is firmware's
matter (log 1, log 20). -/
def askResync (s : State) : State := if notUp s then s else sendMsg 8 0 [] s

/-- Firmware's delivery setting names hart n (R439; log 20). -/
def setDelivery (n : Nat) (s : State) : State :=
  if notUp s || decide (nHarts ≤ n) then s else modMgmt (fun g => { g with mgmtHart := n }) s

/-- A message of a type that the core does not know (R439). -/
def execOtherTypeMessage (msg : MsgHead) (_type : Byte) (s : State) : Host.Outcome State Fault Refusal :=
  done (accept msg (reply msg.tag 0xFF []) s)

/-! Debug control (R182, R184, R409) -/

/-- The hart halts, at once or when its queues are empty; a `wait` ends (R184), and a deferred `fut.ld` is cancelled. -/
def haltHart (n : Nat) (s : State) : State :=
  let h := getHart s n
  if h.status = .noContext ∨ h.status = .halted then s
  else
    let s1 := modHart n (fun g =>
      if g.status = .waiting .wait then { g with answer := some (0, 0) } else g)
      { s with deferred := s.deferred.filter (fun d => d.hart != n) }
    if h.shadow.isEmpty || h.vq.isEmpty then asHart n debugHalt s1
    else modHart n (fun g => { g with haltReq := true }) s1

/-- The hart goes on where it was. -/
def releaseHart (n : Nat) (s : State) : State :=
  modHart n (fun h =>
    if h.status = .halted then { h with status := .running, hstat := setBit h.hstat 6 false, haltReq := false }
    else { h with haltReq := false }) s

/-- DEBUG_HALT (R439, R409). -/
def execDebugHalt (msg : MsgHead) (hart : Nat) (s : State) : Host.Outcome State Fault Refusal :=
  done (accept msg (fun t => reply msg.tag 0 [] (haltHart hart t)) s)

/-- DEBUG_RELEASE (R439). -/
def execDebugRelease (msg : MsgHead) (hart : Nat) (s : State) : Host.Outcome State Fault Refusal :=
  done (accept msg (fun t => reply msg.tag 0 [] (releaseHart hart t)) s)

/-- HALT_ON_BREAK (R182). -/
def execHaltOnBreak (msg : MsgHead) (hart : Nat) (on : Bool) (s : State) : Host.Outcome State Fault Refusal :=
  done (accept msg (fun t => reply msg.tag 0 [] (modHart hart (fun h => { h with brkHalt := on }) t)) s)

/-! Attestation (R442) -/

/-- What the attestation covers. -/
def attestBody (s : State) (nonce : List Byte) : List Byte :=
  Config.firmwareDigest ++ toBytes Config.placerVersion.toNat 4 ++ toBytes (0x0880 * 65536 + Config.stepping * 256) 8
    ++ (range 0 4).flatMap (fun i => toBytes (featureWord i) 8) ++ Config.fuseDigest
    ++ (range 0 160).flatMap (fun c => toBytes (getCore s c).lanefal.toNat 8) ++ nonce

/-- ATTEST: the signed reply, and the certificate in three more (R442). -/
def execAttest (msg : MsgHead) (nonce : List Byte) (s : State) : Host.Outcome State Fault Refusal :=
  done (accept msg (fun t =>
    let b := attestBody t nonce
    let t1 := replyLong msg.tag 0 64 (b ++ Config.signature b) t
    (range 0 3).foldl (fun u i => reply msg.tag 0 ((Config.certificate.drop (51 * i)).take 51) u) t1) s)

/-! Retirement (R13, R14, R111) -/

/-- The harts are displaced, as far as they can be now; one that holds no context in `task.take` (R360) gives up its place. -/
def clearHarts (ns : List Nat) (s : State) : State × Bool :=
  let t := ns.foldl (fun t n =>
    if idleTaker (getHart t n) then asHart n (fun u => updH emptyHart (releaseGroups u.hn u)) t
    else if (getHart t n).status = .noContext then t
    else displaceHart n t) s
  (t, ns.all (fun n => (getHart t n).status = .noContext))

/-- Every hart of core c that holds a context is displaced; false: one could not be. -/
def emptyCore (c : Nat) (s : State) : State × Bool := clearHarts (range (8 * c) 8) s

/-- Every retired stream of core c goes on as far as it can. -/
def finishStreams (c : Nat) (s : State) : State :=
  (bySeq s c ((range 0 16).filter (fun e => (getCq s c e).live))).foldl (fun t e => finishStream c e t) s

/-- The core is retired once its harts are displaced and their streams are over (R14, R81), and an event is reported. While one
cannot be, firmware has yet to retire it (log 79). -/
def retireCore (c : Nat) (s : State) : State :=
  if (getCore s c).retired then s
  else
    let r := emptyCore c s
    let t := finishStreams c r.1
    if !r.2 then r.1
    else if (range 0 16).any (fun e => (getCq t c e).live) then t
    else report 4 (modCore c (fun k => { k with retired := true }) t)

/-- The sums of lanes that sets of core c's groups can have, as a bit mask. -/
def laneSums (s : State) (c : Nat) : Nat :=
  (range 0 16).foldl (fun b g => Nat.lor b (b * 2 ^ groupLanes s c g)) 1

/-- Frames of cluster k whose home is core c and whose M no grant there gives any longer. -/
def stranded (s : State) (k c : Nat) : List Nat :=
  (getCluster s k).resumeList.filter (fun f =>
    (Tab.get {} (getCluster s k).frames f).home = c && !nbit (laneSums s c) (fld (frameWord s k f 0) 40 7))

/-- Firmware sends the supervisor a message that names frame f of cluster k, with an interrupt (R111, R439). -/
def tellSupervisor (k f : Nat) (s : State) : State :=
  let t := raiseIrq s.mgmt.mgmtHart 2 (s.mgmt.hartSeq.setWidth 64) s
  modMgmt (fun g => { g with hartSeq := g.hartSeq + 1, told := g.told ++ [(g.hartSeq, k, f)] }) t

/-- A lane is retired once its owner is displaced (R111). -/
def retireLane (c lane : Nat) (s : State) : State :=
  let o := ownerOf s c (lane / 4)
  let r := if o = 0 then (s, true) else clearHarts [8 * c + (o - 1)] s
  if r.2 then
    let s1 := report 5 (modCore c (fun k => { k with lanefal := setBit k.lanefal lane true }) r.1)
    let s2 := (stranded s1 (c / 16) c).foldl (fun t f => tellSupervisor (c / 16) f t) s1
    if activeLanes 65535 (getCore s2 c).lanefal.toNat < 4 then retireCore c s2 else s2
  else r.1

/-- LANE_RETIRE (R111). -/
def execLaneRetire (core lane : Nat) (s : State) : Host.Outcome State Fault Refusal := done (retireLane core lane s)

/-- CORE_RETIRE (R14). -/
def execCoreRetire (core : Nat) (s : State) : Host.Outcome State Fault Refusal := done (retireCore core s)

/-! Reset (R443) -/

/-- Core c has fewer than 4 lanes and is not retired yet (R107). -/
def fewLanes (s : State) (c : Nat) : Bool :=
  !(getCore s c).retired && decide (activeLanes 65535 (getCore s c).lanefal.toNat < 4)

/-- The cores with nothing but the record of what has been retired (R13), those of which p holds among them. -/
def bareCores (p : Nat → Bool) (s : State) : Tab Core :=
  (range 0 160).foldl (fun t c =>
    Tab.set {} t c { lanefal := (getCore s c).lanefal, retired := (getCore s c).retired || p c }) []

/-- The cores as steps 5 and 6 leave them: retirements stand, and a core with fewer than 4 lanes is retired. -/
def resetCores (s : State) : Tab Core := bareCores (fewLanes s) s

/-- Each retirement that a reset makes is reported (R14). s: the state before it. -/
def reportRetired (s t : State) : State := (range 0 160).foldl (fun u c => if fewLanes s c then report 4 u else u) t

/-- Memory without the dump region. -/
def dropDump (m : List Host.Cell) : List Host.Cell := Tab.drop (fun a => decide (dumpBase ≤ a ∧ a < hbmEnd)) m

/-- Memory once the L2 holds nothing (R336, R443). -/
def seenMem (s : State) : List Host.Cell :=
  s.far.foldl (fun m e => match e.2 with
    | some b => Tab.set memDefault m e.1 b
    | none => m) s.mem

/-- The key of a line, or of an aligned word, of unit n lies in the dump region. -/
def inDump (n k : Nat) : Bool := decide (dumpBase ≤ n * k ∧ n * k < hbmEnd)

/-- A warm reset: the harts, the queues and the registers are reset; memory, tokens (R438), links and the management
channel stay; a released dump region is scrubbed (R34, R445). -/
def warmReset (s : State) : State :=
  let rel := s.mgmt.dumpRel
  { State.reset with
    hn := s.hn
    mem := if rel then dropDump (seenMem s) else seenMem s
    linePois := if rel then Tab.drop (inDump 128) s.linePois else s.linePois
    full := if rel then Tab.drop (inDump 8) s.full else s.full
    cores := resetCores s
    ingress := s.ingress
    egress := s.egress
    mgmt := { s.mgmt with held := decide (s.mgmt.steps < 6), fatal := none, stopped := false, dumpRel := false, hextNext := none }
    ports := s.ports
    cxlLen := s.cxlLen
    hext := s.mgmt.hextNext.getD s.hext
    time := s.time
    order := s.order
    free := s.free
    inputs := s.inputs
    stop := s.stop }

/-- RESET (R443). -/
def execReset (msg : MsgHead) (s : State) : Host.Outcome State Fault Refusal :=
  done (accept msg (fun t => reply msg.tag 0 [] (reportRetired t (warmReset t))) s)

/-- The populated length of each CXL port, as firmware finds it: at most 1 TiB, and 6 TiB in all (R20; log 91). -/
def discover (k : Nat) : Tab Nat :=
  ((range 0 12).foldl (fun (r : Tab Nat × Nat) p =>
    let n := min (128 * Config.cxlLines k p) (min 0x10000000000 r.2)
    (Tab.set 0 r.1 p n, r.2 - n)) ([], 0x60000000000)).1

/-- The boot ROM accepts the firmware image at cold start k: the digest of its key is the fused one, the signature over the image's
digest verifies under that key, and its version is no older than the rollback counter (R441). -/
def imageAccepted (k : Nat) : Bool :=
  sm3 (Config.flashKey k) = Config.fusedKeyDigest
    && Config.sm2Verifies (Config.flashKey k) (sm3 (Config.flashImage k)) (Config.flashSignature k)
    && decide (Config.rollbackCounter k ≤ Config.imageVersion (Config.flashImage k))

/-- The steps of R443 that cold start k comes through: each starts only when the one before it has succeeded, and the last two
cannot fail. -/
def stepsDone (k : Nat) : Nat :=
  if imageAccepted k = false then 0
  else if Config.jointTrained k = false then 1
  else if Config.hbmTrained k = false then 2
  else if Config.portsTrained k = false then 3
  else 6

/-- A cold start (R443), as far as it comes: HBM is scrubbed (R34) once it has trained, the CXL ports are looked at after that; CXL and
host memory, and the record of retirements, stay. A step that fails leaves the dies in reset (R17, R441); a rejected image is
reported over the sideband. -/
def coldStart (s : State) : State :=
  let n := stepsDone s.free
  { State.reset with
    mem := if 3 ≤ n then Tab.drop (fun a => inHbm a) (seenMem s) else seenMem s
    linePois := if 3 ≤ n then Tab.drop (fun l => inHbm (128 * l)) s.linePois else s.linePois
    cores := if n = 6 then resetCores s else bareCores (fun _ => false) s
    mgmt := { steps := n, held := n != 6, sideband := if n = 0 then [Config.rejectStatus s.free] else [] }
    cxlLen := if 3 ≤ n then discover s.free else []
    order := s.order
    free := s.free + 1
    inputs := s.inputs
    stop := s.stop }

/-- COLD_START (R443). -/
def execColdStart (s : State) : Host.Outcome State Fault Refusal := done (if stepsDone s.free = 6 then reportRetired s (coldStart s) else coldStart s)

/-! Fatal stop (R445) -/

/-- Where each section of the dump begins, as offsets in its region: the contexts, the queue tables, the slot tables, tile memory, the
error logs and the last sequence numbers. The manual gives the sections no order and no place (DESIGN CHOICE, log 19). -/
def dumpOffsets (k : Nat) : List Nat :=
  let b := 4096 + Config.dumpSlack k % 0x400000 * 128
  let q := b + nHarts * 0x108000
  let f := q + 640 * 8192
  let t := f + 2560 * 4096
  let l := t + 160 * 0x80000
  [b, q, f, t, l, l + 4096]

/-- A section's part: its bytes at offset o, cut to n. -/
def dumpPart (o n : Nat) (bs : List Byte) (s : State) : State := putLines none (dumpBase + o) (bs.take n) s

/-- A hart's context in the layout of R411, accumulators and all. -/
def dumpHart (b n : Nat) (s : State) : State :=
  if (getHart s n).status = .noContext then s
  else asHart n (fun t =>
    let at' := standsAt t.hart
    (framePieces t true (headerWords t true t.hart.rows at'.1 at'.2)).foldl (fun u p => dumpPart (b + n * 0x108000 + p.1) p.2.length p.2 u) t) s

/-- The table of queue j: its registers, and the records that it holds on chip. -/
def dumpQueue (s : State) (j : Nat) : List Byte :=
  let q := getQueue s j
  let rec' (r : QRec) : List Byte := toBytes r.addr.toNat 8 ++ r.bytes
  [q.ctl.toNat, q.ring.toNat, q.ptb.toNat, q.fva.toNat, b2n q.spf, q.head, q.spilled, q.onchip.length].flatMap (fun v => toBytes v 8)
    ++ q.onchip.flatMap rec' ++ (q.reserve.map rec').getD []

/-- Slot i of the fabric slot table of core c. -/
def dumpSlot (s : State) (c i : Nat) : List Byte :=
  let x := Tab.get {} (getCore s c).slots i
  [b2n x.valid, x.asid, x.addr, x.bytes].flatMap (fun v => toBytes v 8) ++ x.image.flatMap (fun w => toBytes w.toNat 8)

/-- The error logs: what has been counted, by source and by stack (R36, R444). -/
def dumpLogs (s : State) : List Byte :=
  (range 0 256).flatMap (fun i => toBytes (Tab.get 0 s.mgmt.events i) 8) ++ (range 0 256).flatMap (fun i => toBytes (Tab.get 0 s.mgmt.corrected i) 8)

/-- The number of a cause in the dump's header (log 19). -/
def causeNo : FatalCause → Nat
  | .doubleBit => 1 | .bridge => 2 | .thermal => 3 | .watchdog => 4

/-- The header: the cause, `time`, the section offsets, the digest of the dump, and the signature over these. -/
def dumpHeader (c : FatalCause) (s : State) (digest : List Byte) : List Byte :=
  let b := toBytes (causeNo c) 8 ++ toBytes s.time.toNat 8 ++ (dumpOffsets s.free).flatMap (fun o => toBytes o 8) ++ digest
  (b ++ Config.signature b ++ toBytes 0 4096).take 4096

/-- The dump (R445): its sections, the bytes between them as firmware leaves them (log 19), and its header last. -/
def writeDump (c : FatalCause) (s : State) : State :=
  let o (i : Nat) : Nat := nth 0 (dumpOffsets s.free) i
  let s0 := loop (fun i u => putBytesBy none (dumpBase + i) [Config.dumpByte s.free i] u) 0 (hbmEnd - dumpBase) s
  let s1 := loop (fun n t => dumpHart (o 0) n t) 0 nHarts s0
  let s2 := loop (fun j t => dumpPart (o 1 + j * 8192) 8192 (dumpQueue s j) t) 0 640 s1
  let s3 := loop (fun i t => dumpPart (o 2 + i * 4096) 4096 (dumpSlot s (i / 16) (i % 16)) t) 0 2560 s2
  let s4 := loop (fun k t => dumpPart (o 3 + k * 0x80000) 0x80000 (toBytes (getTile s k 0 0x80000) 0x80000) t) 0 160 s3
  let s5 := dumpPart (o 5) 8 (toBytes s.mgmt.next.toNat 4 ++ toBytes s.mgmt.expect.toNat 4) (dumpPart (o 4) 4096 (dumpLogs s) s4)
  takeFree (dumpPart 0 4096 (dumpHeader c s (sm3 (getBytes s5 (dumpBase + 4096) (hbmEnd - dumpBase - 4096)))) s5)

/-- Harts, streams and collectives are cut off. -/
def cutOff (s : State) : State :=
  { s with
    hart := {}
    parked := []
    cores := bareCores (fun _ => false) s
    colls := []
    deferred := [] }

/-- An event message: its source and its count (R444; log 20). -/
def sendEvent (source n : Nat) (s : State) : State := sendMsg 10 0 (BitVec.ofNat 8 source :: toBytes n 4) s

def fatalStop (c : FatalCause) (s : State) : State :=
  sendEvent 7 1 (modMgmt (fun g => { g with fatal := some c, held := true }) (cutOff (writeDump c s)))

/-- FATAL_STOP (R445). -/
def execFatalStop (cause : FatalCause) (s : State) : Host.Outcome State Fault Refusal := done (fatalStop cause s)

/-- WATCHDOG_EXPIRY (R445). -/
def execWatchdogExpiry (s : State) : Host.Outcome State Fault Refusal := done (fatalStop .watchdog s)

/-- DUMPREL (R445): the region is released; status 1 tells of a dump whose signature does not verify (log 20). -/
def execDumprel (msg : MsgHead) (s : State) : Host.Outcome State Fault Refusal :=
  done (accept msg (fun t =>
    reply msg.tag (if Config.dumpVerifies (getBytes t dumpBase 4096) then 0 else 1) []
      (modMgmt (fun g => { g with dumpRel := true }) t)) s)

/-! Heat, power and errors (R36, R444) -/

/-- THROTTLE_STEP: 100 MHz less, down to 1.2 GHz; counted. -/
def execThrottleStep (s : State) : Host.Outcome State Fault Refusal :=
  done (if s.mgmt.clockStep < 12 then report 3 (modMgmt (fun g => { g with clockStep := g.clockStep + 1 }) s) else s)

/-- THERMAL_STOP: every core stops. -/
def execThermalStop (s : State) : Host.Outcome State Fault Refusal :=
  done (modMgmt (fun g => { g with stopped := true }) s)

/-- EVENT_REPORT: what a source has counted is sent. -/
def execEventReport (source : Nat) (s : State) : Host.Outcome State Fault Refusal :=
  let n := Tab.get 0 s.mgmt.events source
  done (if n = 0 then s
    else sendEvent source n (modMgmt (fun g => { g with events := Tab.set 0 g.events source 0 }) s))

/-- PATROL_SCRUB (R36): corrected data are written back, and hold what they held. -/
def execPatrolScrub (s : State) : Host.Outcome State Fault Refusal := done s

end Sys2Proof.Machine
end

