-- ==== Sys2Proof/Machine/Events.lean ====
section
/-! DEFINITION. The device's own steps beside the harts' instructions (log 1): slices, walkers, streams, lanes, contexts,
queues, slots and registers, each when its event comes. A step whose rule asks for nothing in the state at hand leaves it
as it is. -/

namespace Sys2Proof.Machine

/-- Does f as hart n of the device, when it holds a context and runs or waits. -/
def onHart (n : Nat) (f : State → State) (s : State) : State :=
  let st := (getHart s n).status
  if n < nHarts ∧ st ≠ .noContext ∧ st ≠ .halted then asHart n f s else s

/-! Harts -/

/-- INTERRUPT_TAKE (R403). -/
def execInterruptTake (hart : Nat) (s : State) : Host.Outcome State Fault Refusal :=
  done (onHart hart (fun t => if takesIrq t.hart then takeInterrupt t else t) s)

/-- The contexts displaced from hart n. -/
def displacedFrom (s : State) (n : Nat) : List Member :=
  ((heldFrames s (clusterOf n)).filter (fun f => frameHart s (clusterOf n) f = n)).map (Member.frame (clusterOf n))

/-- STORE_BUFFER_DRAIN (R45): the oldest store of the hart performs, also of one that is halted; where it has none, those that a
context displaced from it has left. -/
def execStoreBufferDrain (hart : Nat) (s : State) : Host.Outcome State Fault Refusal :=
  done (if nHarts ≤ hart then s
    else if (getHart s hart).storeBuf = [] then (displacedFrom s hart).foldl (fun u m =>
        match m with
        | .frame k f => performFrameRegs k f (drainFor m u)
        | .hart _ => drainFor m u) s
    else asHart hart (fun t => performRegs (drainOne t)) s)


/-- WAIT_SPURIOUS_END (R184). -/
def execWaitSpuriousEnd (hart : Nat) (s : State) : Host.Outcome State Fault Refusal :=
  done (onHart hart (fun t => if t.hart.status = .waiting .wait then updH (fun h => { h with answer := some (0, 0) }) t else t) s)

/-! Slices (R36, R37, R42, R43, R48 to R53) -/

/-- Bytes that another agent writes, where memory has them; a line that is written whole carries poison no longer (R37). -/
def agentWrite (pa : Nat) (bs : List Byte) (s : State) : State :=
  if populated s pa bs.length then putLines none pa bs s else s

/-- The L2 holds a line no longer: the scalar data caches are told (R42), and bytes of it that another device has written are
seen from now on (R336; log 92). -/
def evictLine (l : Nat) (s : State) : State :=
  let s1 := { s with cores := dropCached s.cores (128 * l) 128 }
  (s.far.filter (fun e => e.1 / 128 = l)).foldl (fun t e => match e.2 with
    | some b => putBytesBy none e.1 [b] t
    | none => t) s1

/-- Another device writes pool memory while this one's L2 holds the line: a read sees that only past the L2 (R336). -/
def poolWrite (pa : Nat) (bs : List Byte) (s : State) : State :=
  if cxlBase ≤ pa ∧ populated s pa bs.length = true then
    { s with far := ((range 0 bs.length).zip bs).foldl (fun t x => Tab.set none t (pa + x.1) (some x.2)) s.far }
  else s

/-- SLICE_REQUEST (R48): a read changes nothing. -/
def execSliceRequest (req : SliceReq) (s : State) : Host.Outcome State Fault Refusal :=
  done (match req with
    | .read _ => s
    | .write pa bytes => agentWrite pa bytes s
    | .evict line => evictLine line s
    | .poison line => spoilLine (128 * line) s)

/-- WRITE_PERFORM (R43). -/
def execWritePerform (pa : Nat) (bytes : List Byte) (s : State) : Host.Outcome State Fault Refusal :=
  done (agentWrite pa bytes s)

/-- A future word lies at pa. -/
def futureAt (s : State) (pa : Nat) : Bool := pa % 8 = 0 && populated s pa 8

/-- The hart waits for the answer to a request that no slice has yet. -/
def awaits (s : State) (n : Nat) : Bool :=
  (getHart s n).status = .waiting .future && (getHart s n).answer.isNone && !s.deferred.any (fun d => d.hart = n)

/-- FUT_LD_APPLY (R49 to R51, R53). -/
def execFutLdApply (hart pa : Nat) (d b : BitVec 5) (s : State) : Host.Outcome State Fault Refusal :=
  done (if futureAt s pa && awaits s hart then
      if linePoisoned s pa 8 then answerFut hart 0 2 s
      else
        let r := sliceLd hart pa d.toNat b.toNat s
        match r.2 with
        | some (v, st) => answerFut hart v st r.1
        | none => r.1
    else s)

/-- FUT_ST_APPLY (R49, R52). -/
def execFutStApply (pa : Nat) (data : Word) (s : State) : Host.Outcome State Fault Refusal :=
  done (if futureAt s pa then (sliceSt none pa data s).1 else s)

/-- FUT_CLR_APPLY (R49). -/
def execFutClrApply (pa : Nat) (s : State) : Host.Outcome State Fault Refusal :=
  done (if futureAt s pa then setFull pa false s else s)

/-- FUT_CANCEL (R53). -/
def execFutCancel (hart : Nat) (s : State) : Host.Outcome State Fault Refusal :=
  done { s with deferred := s.deferred.filter (fun d => d.hart != hart) }

/-! Soft errors (R35, R36, R39, R84) -/

/-- What a soft error does. A corrected one is counted, those of a stack of HBM for that stack; a double-bit error poisons the
line or the word that holds it, and one in a tag or a queue entry is fatal. -/
def upsetNow (u : Upset) (s : State) : State :=
  match u with
  | .corrected k =>
    report 1 (match k with
      | some i => modMgmt (fun g => { g with corrected := Tab.modify 0 g.corrected i (· + 1) }) s
      | none => s)
  | .line pa => if populated s pa 1 then spoilLine pa s else s
  | .tileWord core off =>
    if core < 160 ∧ off < 524288 then { s with tilePois := Tab.set false s.tilePois (tileKey core off / 64) true } else s
  | .vector n v w =>
    if n < nHarts ∧ v < 64 ∧ w < 1024 then modHart n (fun h => { h with vpois := Tab.set false h.vpois (v * 1024 + w) true }) s else s
  | .mask n m w =>
    if n < nHarts ∧ m < 8 ∧ w < 128 then modHart n (fun h => { h with mpois := Tab.set false h.mpois (m * 128 + w) true }) s else s
  | .acc n t r w =>
    if n < nHarts ∧ t < 4 ∧ r < (getHart s n).rows ∧ w < 512 then
      modHart n (fun h => { h with accPois := Tab.set false h.accPois (512 * (48 * t + r) + w) true }) s
    else s
  | .tag => fatalStop .doubleBit s

/-- What an input does that is no event row (log 1). -/
def takeInput (x : Input) (s : State) : State :=
  match x with
  | .upset u => upsetNow u s
  | .idleIn p f => idleIn p f s
  | .idleOut p => idleOut p s
  | .pool pa bs => poolWrite pa bs s
  | .resync => askResync s
  | .delivery n => setDelivery n s
  | .event _ => s
  | .turn _ => s
  | .cut _ => s

/-! Translation (R29) -/

/-- An entry joins the TLBs of its level and place. When all n entries are taken, the oldest makes room: the spec names no
replacement (DESIGN CHOICE, log 78). -/
def addTlb (n : Nat) (e : TlbEntry) (s : State) : State :=
  let mine (t : TlbEntry) : Bool := t.l2 = e.l2 && (if e.l2 then t.core / 16 = e.core / 16 else t.core = e.core)
  let same (t : TlbEntry) : Bool := mine t && t.asid = e.asid && t.vpage = e.vpage && t.size = e.size
  let l := s.tlb.filter (fun t => !same t)
  let l := if n ≤ (l.filter mine).length then
      (match (l.filter mine).head? with | some x => l.erase x | none => l)
    else l
  { s with tlb := l ++ [e] }

/-- The walk of the page of va for the current hart: its leaf enters the L2 TLB of the cluster and the L1 TLB of the core. -/
def walkPage (va : Word) (s : State) : State :=
  if wfld va 52 12 ≠ 0 ∨ inWindow va = true then s
  else match walk s s.hart.ptbase va with
    | .leaf w size =>
      let e : TlbEntry :=
        { core := myCore s, l2 := false, asid := wfld s.hart.asid 0 16, vpage := va.toNat / 2 ^ size, size := size, leaf := w }
      addTlb 64 e (addTlb 8192 { e with l2 := true } s)
    | .fault _ => s
    | .hole pa => halt pa s

/-- TABLE_WALK (R29): only a page that no TLB of the hart has is walked. -/
def execTableWalk (hart : Nat) (va : Word) (s : State) : Host.Outcome State Fault Refusal :=
  done (onHart hart (fun t =>
    if (tlbHit t (myCore t) (wfld t.hart.asid 0 16) va).isSome then t else walkPage va t) s)

/-! Combined atomics and streams -/

/-- COMBINING_ENTRY_RETIRE (R230): the oldest entry. -/
def execCombiningEntryRetire (core : Nat) (s : State) : Host.Outcome State Fault Refusal :=
  done (match (getCore s core).comb with
    | [] => s
    | e :: es => combApply e (modCore core (fun k => { k with comb := es }) s))

/-- The next headland of an entry: one for each row that it writes (R66). After the last one come the arrivals that waited for
it. -/
def headlandOf (core entry : Nat) (s : State) : State :=
  let q := getCq s core entry
  if q.phase = 2 ∧ q.heads ≠ [] then setCq core entry { q with heads := q.heads.tail } s
  else flushArrivals q.owner (sendHeadland core entry s)

/-- STREAM_RETIRE (R64): the data of a retired stream move now, unless an earlier stream or the gang's other members keep it
waiting. -/
def execStreamRetire (core entry : Nat) (s : State) : Host.Outcome State Fault Refusal := done (moveNow core entry s)

/-- STREAM_HEADLAND (R66, R69). -/
def execStreamHeadland (core entry : Nat) (s : State) : Host.Outcome State Fault Refusal := done (headlandOf core entry s)

/-- EXCHANGE_START (R59), of the gang of the context that the hart holds. -/
def execExchangeStart (hart : Nat) (s : State) : Host.Outcome State Fault Refusal := done (startExchange (seatOf s hart) s)

/-- BARRIER_ARRIVAL (R205): an arrival of the hart's context, or of one displaced from it, counts once the accesses before it have
performed. -/
def execBarrierArrival (hart : Nat) (s : State) : Host.Outcome State Fault Refusal :=
  done (if hart < nHarts then
      let t := if (getHart s hart).pendArrivals = [] then s
        else asHart hart (fun t => flushArrivals (.hart t.hn) (performNow t)) s
      (displacedFrom t hart).foldl (fun u m => flushArrivals m u) t
    else s)

/-! Lanes, contexts and tasks -/

/-- LANE_GROUP_TAKE (R365). -/
def execLaneGroupTake (hart : Nat) (s : State) : Host.Outcome State Fault Refusal :=
  done (if negotiating s hart then (negotiate hart (getHart s hart).req s).1 else s)

/-- RECLAIM_TIMEOUT (R365). -/
def execReclaimTimeout (hart : Nat) (s : State) : Host.Outcome State Fault Refusal :=
  done (if (ownedList s hart).any (marked s (coreOf hart)) then displaceHart hart s else s)

/-- CONTEXT_RESUME (R367). -/
def execContextResume (hart : Nat) (s : State) : Host.Outcome State Fault Refusal :=
  done (if hart < nHarts ∧ isFree s hart = true then resumeOn hart 0 s else s)

/-- TASK_DISPATCH (R370). -/
def execTaskDispatch (cluster : Nat) (s : State) : Host.Outcome State Fault Refusal :=
  done (if cluster < 10 then control cluster s else s)

/-- The word is `task.done` (R199). -/
def isTaskDone (w : Nat) : Bool := majOf w = 0x1F && fld w 0 7 = 2

/-- The scalar slot in hand has done its work, unless it waits or has trapped. -/
def slotOver (s : State) : State :=
  if s.hart.cv.live && s.hart.status = .running then updCv (fun c => { c with slot := c.slot + 1 }) s else s

/-- A hart that waits in the `task.done` of the last member completes its task. -/
def completeHere (s : State) : State :=
  let w := nth 0 s.hart.cv.words s.hart.cv.slot
  match s.hart.bound with
  | some b =>
    if s.hart.cv.live && isTaskDone w.toNat && s.hart.status = .waiting .stream then
      completeTask (BitVec.ofNat 5 (fld w.toNat 21 5)) b (getS s (BitVec.ofNat 5 (fld w.toNat 16 5))) slotOver s
    else s
  | none => s

/-- TASK_COMPLETION (R199): the accesses of the last member have performed. -/
def execTaskCompletion (queue tid : Nat) (s : State) : Host.Outcome State Fault Refusal :=
  done (match (getTask s queue tid).members with
    | [.hart n] => onHart n (fun t => if t.hart.bound = some { queue := queue, tid := tid } then completeHere t else t) s
    | _ => s)

/-- REUSE_LOOKUP (R381). -/
def execReuseLookup (queue : Nat) (s : State) : Host.Outcome State Fault Refusal :=
  done (match readyHead s queue with
    | some r => if decide (queue < 640) && lookDue s queue r then lookupHead queue s else s
    | none => s)

/-- BOUND_LAUNCH (R195). -/
def execBoundLaunch (chan : Nat) (s : State) : Host.Outcome State Fault Refusal :=
  done (if chan < 256 then launch chan s else s)

/-- RING_REFILL (R373). -/
def execRingRefill (queue : Nat) (s : State) : Host.Outcome State Fault Refusal :=
  done (if queue < 640 then refill queue 33 s else s)

/-- MATTACH_GRANT (R368): the first of the quad's order. A context that waited for the rows of its frame has them back (R369). -/
def execMattachGrant (quad : Nat) (s : State) : Host.Outcome State Fault Refusal :=
  done (match attachQueue s quad with
    | [] => s
    | n :: _ =>
      let r := serveAttach n s
      if r.2 then
        modHart n (fun h =>
          { h with
            granted := (getHart s n).rowsDue.isNone
            vwait := none
            status := if h.status = .waiting .attach then .running else h.status }) r.1
      else r.1)

/-! Fabric invocations (R291, R295 to R297). A `fop` goes through all of its rounds as it issues (log 17); these steps find
an invocation that has stopped part-way in its slot. -/

/-- The bound of an inbound register edge of a suspended run: the length it was given. -/
def runLen (sl : FabSlot) (port : Nat) : Nat :=
  match edgesWhere sl.image (fun w => ePort w = port) with
  | e :: _ => (Tab.get {} sl.run.edges e).lim
  | [] => 0

/-- Does f with the invocation that has stopped part-way in slot i of core c, as its hart. -/
def onRun (c i : Nat) (f : Nat → Nat → Fab → State → State) (s : State) : State :=
  let sl := Tab.get {} (getCore s c).slots i
  match sl.owner with
  | some n =>
    if sl.run.live && (getHart s n).fopStop.contains i && coreOf n = c then
      onHart n (fun t => f (runLen sl 0) (runLen sl 1)
        { st := t, run := sl.run, img := sl.image, mask := 0, va := 0, vb := 0, vd := 0, room := t.hart.maxVl, seed := t.free } t) s
    else s
  | none => s

/-- FOP_COMPLETE (R295). -/
def execFopComplete (core slot : Nat) (s : State) : Host.Outcome State Fault Refusal :=
  done (onRun core slot (fun la lb g t => if g.complete then fopFinish slot la lb g else t) s)

/-- FOP_MORE_STOP (R296). -/
def execFopMoreStop (core slot : Nat) (s : State) : Host.Outcome State Fault Refusal :=
  done (onRun core slot (fun la lb g t => if hasVd g.img && decide (g.room ≤ g.run.out) then fopMore slot la lb g else t) s)

/-- The `fop` that goes on with slot i when its convoy, of that slot alone, is issued again at the head of the current hart's
queues (R297, R298): its entry, its act, and the younger convoys. -/
def fopHead (s : State) (i : Nat) : Option (VqEntry × Act × List VqEntry) :=
  match s.hart.vq with
  | e :: young => match e.acts with
    | [a] =>
      if majOf a.w.toNat = 0x36 && fld a.w.toNat 22 4 = i && e.re && !slotDone e a.slot
          && s.hart.mq.isEmpty && s.hart.rowsDue.isNone then some (e, a, young) else none
    | _ => none
  | [] => none

/-- The state in which that `fop` is issued. -/
def fopIssued (e : VqEntry) (a : Act) (young : List VqEntry) (s : State) : State :=
  updIss (fun i => { i with act := a, cell := Tab.get 0 e.cells a.slot })
    (openHead e (enterSpace e (updH (fun h => { h with vq := young }) s)))

/-- The checks at its issue (R294), and the invocation as it goes on. -/
def fopRefused (i : Nat) (a : Act) (t : State) : Bool :=
  let w := a.w.toNat
  (fopCheck (nbit w 0) (fld w 16 6) (fld w 10 6) (fld w 4 6) i t).isSome
def fopOnward (i : Nat) (a : Act) (t : State) : Fab :=
  let w := a.w.toNat
  fopGo (nbit w 0) (fld w 16 6) (fld w 10 6) (fld w 4 6) i (fld w 1 3) t

/-- What R297 records of the invocation at its fault, in the slot's issue t. -/
def fopRecorded (i : Nat) (g : Fab) (t : State) : State :=
  updIss (fun _ => t.hart.iss) (fopStopped i (fopLa t (getSlot t i).image) (fopLb t (getSlot t i).image) g)

/-- The invocation in slot i goes on and meets a fault: its state is recorded, and its convoy traps under the prefix rule
(R297). One that meets none is left to the issue of its convoy. -/
def fopFaults (i : Nat) (e : VqEntry) (a : Act) (young : List VqEntry) (s : State) : State :=
  let t := fopIssued e a young s
  let g := fopOnward i a t
  match g.fault with
  | some (c, v) =>
    if fopRefused i a t then s
    else
      let snap := updH (fun h => { h with vq := young }) s
      settle [(a.slot, .all)] resumePoint e young snap (leaveSpace e snap (finishSlot .other (slotFault g.run.out c v (fopRecorded i g t))))
  | none => s

/-- FOP_FAULT (R297): a fault of the invocation that goes on. What has stopped, and no convoy goes on with yet, stays
recorded. -/
def execFopFault (core slot : Nat) (s : State) : Host.Outcome State Fault Refusal :=
  done (onRun core slot (fun la lb g t =>
    match fopHead t slot with
    | some (e, a, young) => fopFaults slot e a young t
    | none => fopStopped slot la lb g) s)

/-- FABRIC_DRAIN_TIMEOUT (R291): a run that no hart owns is given up. -/
def execFabricDrainTimeout (core slot : Nat) (s : State) : Host.Outcome State Fault Refusal :=
  let sl := Tab.get {} (getCore s core).slots slot
  done (if sl.valid && sl.run.live && sl.owner.isNone then asHart (8 * core) (drainSlot slot) s else s)

/-! Channels and registers -/

/-- INGRESS_RAISE (R437). -/
def execIngressRaise (chan : Nat) (value : Word) (s : State) : Host.Outcome State Fault Refusal :=
  done (if chan < 256 then raiseToken chan value s else s)

/-- EGRESS_POP (R437). -/
def execEgressPop (chan : Nat) (s : State) : Host.Outcome State Fault Refusal :=
  done (if (getOut s chan).tokens.isEmpty then s else modOut chan popToken s)

/-- LFAULT_CLEAR (R436). -/
def execLfaultClear (chan : Nat) (s : State) : Host.Outcome State Fault Refusal :=
  done (if chan < 256 then clearLfault chan s else s)

/-- SKIP (R436). -/
def execSkip (chan : Nat) (s : State) : Host.Outcome State Fault Refusal :=
  done (if chan < 256 then skipToken chan s else s)

/-- GANG_WORD_WRITE (R361). -/
def execGangWordWrite (cluster h : Nat) (value : Word) (s : State) : Host.Outcome State Fault Refusal :=
  done (if cluster < 10 ∧ h < 128 then gangWrite cluster h (wfld value 0 5) s else s)

/-- QCTL_RESUME (R374). -/
def execQctlResume (queue : Nat) (s : State) : Host.Outcome State Fault Refusal :=
  done (if queue < 640 then queueResume queue s else s)

/-- A command of this code is written to the cluster's command register (R415). -/
def commandIf (code cluster : Nat) (cmd : Word) (s : State) : State :=
  if cluster < 10 ∧ wfld cmd 56 4 = code then command cluster cmd (fun _ => true) s else s

/-- DISPLACE (R415). -/
def execDisplace (cluster : Nat) (cmd : Word) (s : State) : Host.Outcome State Fault Refusal := done (commandIf 1 cluster cmd s)

/-- HOLD (R415). -/
def execHold (cluster : Nat) (cmd : Word) (s : State) : Host.Outcome State Fault Refusal := done (commandIf 2 cluster cmd s)

/-- RESUME (R415). -/
def execResume (cluster : Nat) (cmd : Word) (s : State) : Host.Outcome State Fault Refusal := done (commandIf 3 cluster cmd s)

/-- FREE (R415). -/
def execFree (cluster : Nat) (cmd : Word) (s : State) : Host.Outcome State Fault Refusal := done (commandIf 4 cluster cmd s)

/-- ADOPT (R415). -/
def execAdopt (cluster : Nat) (cmd : Word) (s : State) : Host.Outcome State Fault Refusal := done (commandIf 5 cluster cmd s)

/-- RSALT_COMMIT (R386). -/
def execRsaltCommit (value : Word) (s : State) : Host.Outcome State Fault Refusal := done (rsaltStore 3 value s)

/-- RFLUSH (R386). -/
def execRflush (value : Word) (s : State) : Host.Outcome State Fault Refusal := done (rflushStore value s)

/-- RCTL_WRITE (R385, R386). -/
def execRctlWrite (value : Word) (s : State) : Host.Outcome State Fault Refusal := done (rctlStore value s)

/-- REGISTER_WRITE (R7, R372): an aligned 8-byte write to the device register space. -/
def execRegisterWrite (pa : Nat) (value : Word) (s : State) : Host.Outcome State Fault Refusal :=
  done (if inRegs pa && pa % 8 = 0 then mmioWrite pa value (fun _ => true) s else s)

end Sys2Proof.Machine
end

