-- ==== Sys2Proof/Machine/Scalar.lean ====
section
/-! DEFINITION. Integer arithmetic and logic of the address processor (R164, R167 to R169). -/

namespace Sys2Proof.Machine

/-- sd := f(a, b) of two registers (R167). -/
def alu2 (f : Word → Word → Word) (d a b : BitVec 5) (s : State) : State :=
  reads [a, b] (fun t => setS d (f (getS t a) (getS t b)) t) s

/-- sd := f(a) of one register or of a register and an immediate. -/
def alu1 (f : Word → Word) (d a : BitVec 5) (s : State) : State :=
  reads [a] (fun t => setS d (f (getS t a)) t) s

/-- 1 or 0. -/
def boolWord (b : Bool) : Word := if b then 1 else 0

/-- The shift count of a register shift, b[5:0]. -/
def sh6 (b : Word) : Nat := b.toNat % 64

/-- Signed quotient, rounded toward zero, with the borderline cases of R168. -/
def divS (a b : Word) : Word := if b = 0 then -1 else wordI (a.toInt.tdiv b.toInt)
/-- Unsigned quotient. -/
def divU (a b : Word) : Word := if b = 0 then -1 else word (a.toNat / b.toNat)
/-- Signed remainder; its sign is that of a. -/
def remS (a b : Word) : Word := if b = 0 then a else wordI (a.toInt.tmod b.toInt)
/-- Unsigned remainder. -/
def remU (a b : Word) : Word := if b = 0 then a else word (a.toNat % b.toNat)
/-- High 64 bits of the signed and of the unsigned product (R168). -/
def mulHi (a b : Word) : Word := wordI ((a.toInt * b.toInt) / 2 ^ 64)
def mulHiU (a b : Word) : Word := word (a.toNat * b.toNat / 2 ^ 64)

/-- R167: a + b. -/
def execAdd (d a b : BitVec 5) (s : State) : Host.Outcome State Fault Refusal := done (alu2 (fun x y => x + y) d a b s)

/-- R167: a - b. -/
def execSub (d a b : BitVec 5) (s : State) : Host.Outcome State Fault Refusal := done (alu2 (fun x y => x - y) d a b s)

/-- R167: a and b. -/
def execAnd (d a b : BitVec 5) (s : State) : Host.Outcome State Fault Refusal := done (alu2 (fun x y => x &&& y) d a b s)

/-- R167: a or b. -/
def execOr (d a b : BitVec 5) (s : State) : Host.Outcome State Fault Refusal := done (alu2 (fun x y => x ||| y) d a b s)

/-- R167: a xor b. -/
def execXor (d a b : BitVec 5) (s : State) : Host.Outcome State Fault Refusal := done (alu2 (fun x y => x ^^^ y) d a b s)

/-- R167: a × 2^sh. -/
def execSll (d a b : BitVec 5) (s : State) : Host.Outcome State Fault Refusal := done (alu2 (fun x y => x <<< sh6 y) d a b s)

/-- R167: floor(zext(a) / 2^sh). -/
def execSrl (d a b : BitVec 5) (s : State) : Host.Outcome State Fault Refusal := done (alu2 (fun x y => x >>> sh6 y) d a b s)

/-- R167: floor(sext(a) / 2^sh). -/
def execSra (d a b : BitVec 5) (s : State) : Host.Outcome State Fault Refusal := done (alu2 (fun x y => x.sshiftRight (sh6 y)) d a b s)

/-- R167: signed minimum. -/
def execMin (d a b : BitVec 5) (s : State) : Host.Outcome State Fault Refusal := done (alu2 (fun x y => if x.slt y then x else y) d a b s)

/-- R167: signed maximum. -/
def execMax (d a b : BitVec 5) (s : State) : Host.Outcome State Fault Refusal := done (alu2 (fun x y => if x.slt y then y else x) d a b s)

/-- R167: unsigned minimum. -/
def execMinn (d a b : BitVec 5) (s : State) : Host.Outcome State Fault Refusal := done (alu2 (fun x y => if x.ult y then x else y) d a b s)

/-- R167: unsigned maximum. -/
def execMaxn (d a b : BitVec 5) (s : State) : Host.Outcome State Fault Refusal := done (alu2 (fun x y => if x.ult y then y else x) d a b s)

/-- R167: 1 if a < b signed. -/
def execSlt (d a b : BitVec 5) (s : State) : Host.Outcome State Fault Refusal := done (alu2 (fun x y => boolWord (x.slt y)) d a b s)

/-- R167: 1 if a < b unsigned. -/
def execSltn (d a b : BitVec 5) (s : State) : Host.Outcome State Fault Refusal := done (alu2 (fun x y => boolWord (x.ult y)) d a b s)

/-- R167: a if the old value of sd is nonzero, else b. -/
def execSel (d a b : BitVec 5) (s : State) : Host.Outcome State Fault Refusal :=
  done (reads [d, a, b] (fun t => setS d (if getS t d ≠ 0 then getS t a else getS t b) t) s)

/-- R168: the low 64 bits of a × b. -/
def execMul (d a b : BitVec 5) (s : State) : Host.Outcome State Fault Refusal := done (alu2 (fun x y => x * y) d a b s)

/-- R168: the high 64 bits of the signed product. -/
def execMulh (d a b : BitVec 5) (s : State) : Host.Outcome State Fault Refusal := done (alu2 mulHi d a b s)

/-- R168: the high 64 bits of the unsigned product. -/
def execMulhn (d a b : BitVec 5) (s : State) : Host.Outcome State Fault Refusal := done (alu2 mulHiU d a b s)

/-- R168: the signed quotient. -/
def execDiv (d a b : BitVec 5) (s : State) : Host.Outcome State Fault Refusal := done (alu2 divS d a b s)

/-- R168: the unsigned quotient. -/
def execDivn (d a b : BitVec 5) (s : State) : Host.Outcome State Fault Refusal := done (alu2 divU d a b s)

/-- R168: the signed remainder. -/
def execRem (d a b : BitVec 5) (s : State) : Host.Outcome State Fault Refusal := done (alu2 remS d a b s)

/-- R168: the unsigned remainder. -/
def execRemn (d a b : BitVec 5) (s : State) : Host.Outcome State Fault Refusal := done (alu2 remU d a b s)

/-- R167: leading zero bits. -/
def execClz (d a : BitVec 5) (s : State) : Host.Outcome State Fault Refusal := done (alu1 (fun x => word (leadingZeros x.toNat 64)) d a s)

/-- R167: trailing zero bits. -/
def execCtz (d a : BitVec 5) (s : State) : Host.Outcome State Fault Refusal := done (alu1 (fun x => word (trailingZeros x.toNat 64)) d a s)

/-- R167: the number of 1 bits. -/
def execPopc (d a : BitVec 5) (s : State) : Host.Outcome State Fault Refusal := done (alu1 (fun x => word (popcount x.toNat 64)) d a s)

/-- R167: the bytes in reverse order. -/
def execBswap (d a : BitVec 5) (s : State) : Host.Outcome State Fault Refusal := done (alu1 (fun x => word (byteSwap x.toNat 8)) d a s)

/-- R167: a + the sign-extended immediate. -/
def execAddi (d a : BitVec 5) (i : BitVec 16) (s : State) : Host.Outcome State Fault Refusal :=
  done (alu1 (fun x => x + simm i) d a s)

/-- R167: a and the zero-extended immediate. -/
def execAndi (d a : BitVec 5) (i : BitVec 16) (s : State) : Host.Outcome State Fault Refusal :=
  done (alu1 (fun x => x &&& zimm i) d a s)

/-- R167: a or the zero-extended immediate. -/
def execOri (d a : BitVec 5) (i : BitVec 16) (s : State) : Host.Outcome State Fault Refusal :=
  done (alu1 (fun x => x ||| zimm i) d a s)

/-- R167: a xor the zero-extended immediate. -/
def execXori (d a : BitVec 5) (i : BitVec 16) (s : State) : Host.Outcome State Fault Refusal :=
  done (alu1 (fun x => x ^^^ zimm i) d a s)

/-- R167: 1 if a < the immediate, signed. -/
def execSlti (d a : BitVec 5) (i : BitVec 16) (s : State) : Host.Outcome State Fault Refusal :=
  done (alu1 (fun x => boolWord (x.slt (simm i))) d a s)

/-- R167: 1 if a < the sign-extended immediate read as unsigned. -/
def execSltni (d a : BitVec 5) (i : BitVec 16) (s : State) : Host.Outcome State Fault Refusal :=
  done (alu1 (fun x => boolWord (x.ult (simm i))) d a s)

/-- R167: a × 2^imm16[5:0]. -/
def execSlli (d a : BitVec 5) (h : BitVec 6) (s : State) : Host.Outcome State Fault Refusal :=
  done (alu1 (fun x => x <<< h.toNat) d a s)

/-- R167: logical right shift by imm16[5:0]. -/
def execSrli (d a : BitVec 5) (h : BitVec 6) (s : State) : Host.Outcome State Fault Refusal :=
  done (alu1 (fun x => x >>> h.toNat) d a s)

/-- R167: arithmetic right shift by imm16[5:0]. -/
def execSrai (d a : BitVec 5) (h : BitVec 6) (s : State) : Host.Outcome State Fault Refusal :=
  done (alu1 (fun x => x.sshiftRight h.toNat) d a s)

/-- R169: sd := the signed immediate × 2^16. -/
def execLdhi (d : BitVec 5) (i : BitVec 20) (s : State) : Host.Outcome State Fault Refusal :=
  done (setS d (simm i <<< 16) s)

/-- R169: sd := the convoy's address + 16 × the signed offset. -/
def execAdrc (d : BitVec 5) (o : BitVec 20) (s : State) : Host.Outcome State Fault Refusal :=
  done (setS d (target s.hart.pc o) s)

end Sys2Proof.Machine
end

