-- ==== Sys2Proof/Machine/LoadStore.lean ====
section
/-! DEFINITION. Scalar loads, stores and atomics (R165, R166, R170 to R174). -/

namespace Sys2Proof.Machine

/-! Loads -/

/-- The value of n loaded bytes for sd (R170): sign-extended, or zero-extended with z. -/
def loadValue (n : Nat) (z : Bool) (x : Nat) : Word := if z then word x else wordI (sext x (8 * n))

/-- The core's scalar data cache holds the line of a load on a page of MT = 0 (R42); no line of the window, which it does not
cache (R28). -/
def cacheLoad (l : Loc) (mt : Nat) (s : State) : State :=
  match l with
  | .pa a =>
    if mt ≠ 0 then s
    else modCore (myCore s) (fun c => if c.dcache.contains (a / 128) then c else { c with dcache := a / 128 :: c.dcache }) s
  | .tile _ => s

/-- A load of n bytes at va (R171). One that overlaps a buffered store only in part waits until it has performed (R45). The
device registers answer aligned 8-byte accesses on supervisor pages only (R372). -/
def loadAt (n : Nat) (z : Bool) (d : BitVec 5) (va : Word) (s : State) : State :=
  scalarAt (needLoad n) va n (fun l mt t =>
    if isReg l then
      (if n = 8 ∧ mt = 2 then
        afterStores (fun u => let r := mmioRead (paOf l) u; setS d r.1 r.2) t
      else setS d 0 t)
    else
      let u := if partlyBuffered t l n then drainStores t else t
      if partlyBuffered u l n then waitHere .stream u
      else setS d (loadValue n z (ownRead u l n)) (cacheLoad l mt u)) s

/-- `ld.x sd, [sa+off]`. A `.aq` load needs nothing more where accesses are sent one after the other (R172). -/
def loadOff (n : Nat) (z : Bool) (d a : BitVec 5) (o : BitVec 13) (s : State) : State :=
  reads [a] (fun t => loadAt n z d (getS t a + o.signExtend 64) t) s

/-- `ld.x sd, [sa, sb]`. -/
def loadIdx (n : Nat) (z : Bool) (d a b : BitVec 5) (s : State) : State :=
  reads [a, b] (fun t => loadAt n z d (getS t a + getS t b) t) s

/-! Stores -/

/-- A store enters the store buffer, whose oldest entry performs when it is full (R45); where it cannot, the store stalls. -/
def bufferStore (l : Loc) (n v : Nat) (dev : Bool) (k : Option Nat) (s : State) : State :=
  let t := if 32 ≤ s.hart.storeBuf.length then drainOne s else s
  if 32 ≤ t.hart.storeBuf.length then waitHere .stream t
  else
    updH (fun h => { h with storeBuf := h.storeBuf ++ [{ loc := l, n := n, val := v, seq := k, made := t.order, dev := dev }] }) t

/-- A store to a page of MT = 1 or 2, or to a device register, performs at the controller by f (R28, R372), unless a release or an
earlier store in the buffer waits: then it queues behind it (R172). -/
def deviceStore (l : Loc) (n v : Nat) (k : Option Nat) (f : State → State) (s : State) : State :=
  let t := drainStores s
  if k.isNone && t.hart.storeBuf.isEmpty then f t else bufferStore l n v true k t

/-- A store of n bytes at va (R171); k: it is a release that waits for what the hart did before. -/
def storeAt (n : Nat) (va v : Word) (k : Option Nat) (s : State) : State :=
  scalarAt { needStore n with late := k.isSome } va n (fun l mt t =>
    let x := v.toNat % 2 ^ (8 * n)
    if isReg l then
      (if n = 8 ∧ mt = 2 then deviceStore l n x k (mmioWrite (paOf l) v (fun m => m != t.hn)) t else t)
    else if mt = 0 then bufferStore l n x false k t
    else deviceStore l n x k (writeLoc l n x) t) s

/-- A `.rl` store performs after every earlier access (R172). -/
def orderStore (rl : Bool) (f : Option Nat → State → State) (s : State) : State := if rl then releasing f s else f none s

/-- `st.x sd, [sa+off]`. -/
def storeOff (n : Nat) (rl : Bool) (d a : BitVec 5) (o : BitVec 13) (s : State) : State :=
  reads [a, d] (fun t => orderStore rl (storeAt n (getS t a + o.signExtend 64) (getS t d)) t) s

/-- `st.x sd, [sa, sb]`. -/
def storeIdx (n : Nat) (rl : Bool) (d a b : BitVec 5) (s : State) : State :=
  reads [a, b, d] (fun t => orderStore rl (storeAt n (getS t a + getS t b) (getS t d)) t) s

/-! Atomics -/

/-- f(old, b, sd) of R173 on n bytes; none: no write is made. -/
def amoNew (op n old b d : Nat) : Option Nat :=
  if op = 7 then (if old = d % 2 ^ (8 * n) then some (b % 2 ^ (8 * n)) else none)
  else some (atomicInt op n old (b % 2 ^ (8 * n)))

/-- The atomic at its place, after the hart's earlier stores (R173, R174). -/
def amoAt (op n : Nat) (d : BitVec 5) (b : Word) (l : Loc) (s : State) : State :=
  afterStores (fun t =>
    let old := readLoc t l n
    let t1 := match amoNew op n old b.toNat (getS t d).toNat with
      | some v => writeLoc l n v t
      | none => t
    setS d (loadValue n false old) t1) s

/-- R173: order codes 2 and 3 release. -/
def amo (op : Nat) (d a b : BitVec 5) (o : BitVec 2) (w : BitVec 1) (s : State) : State :=
  let n := if w = 0 then 4 else 8
  reads (if op = 7 then [a, b, d] else [a, b]) (fun t =>
    (if 2 ≤ o.toNat then released else id)
      (fun u => scalarAt (needAtomic n) (getS u a) n (fun l _ x => amoAt op n d (getS x b) l x) u) t) s

/-- R170: load 1 byte, sign-extended. -/
def execLdB (d a : BitVec 5) (o : BitVec 13) (s : State) : Host.Outcome State Fault Refusal :=
  done (loadOff 1 false d a o s)

/-- R170: load 2 bytes, sign-extended. -/
def execLdH (d a : BitVec 5) (o : BitVec 13) (s : State) : Host.Outcome State Fault Refusal :=
  done (loadOff 2 false d a o s)

/-- R170: load 4 bytes, sign-extended. -/
def execLdW (d a : BitVec 5) (o : BitVec 13) (s : State) : Host.Outcome State Fault Refusal :=
  done (loadOff 4 false d a o s)

/-- R170: load 8 bytes, sign-extended. -/
def execLdD (d a : BitVec 5) (o : BitVec 13) (s : State) : Host.Outcome State Fault Refusal :=
  done (loadOff 8 false d a o s)

/-- R170: load 1 byte, zero-extended. -/
def execLdBn (d a : BitVec 5) (o : BitVec 13) (s : State) : Host.Outcome State Fault Refusal :=
  done (loadOff 1 true d a o s)

/-- R170: load 2 bytes, zero-extended. -/
def execLdHn (d a : BitVec 5) (o : BitVec 13) (s : State) : Host.Outcome State Fault Refusal :=
  done (loadOff 2 true d a o s)

/-- R170: load 4 bytes, zero-extended. -/
def execLdWn (d a : BitVec 5) (o : BitVec 13) (s : State) : Host.Outcome State Fault Refusal :=
  done (loadOff 4 true d a o s)

/-- R170: load 1 byte, sign-extended, acquire (R172). -/
def execLdBAq (d a : BitVec 5) (o : BitVec 13) (s : State) : Host.Outcome State Fault Refusal :=
  done (loadOff 1 false d a o s)

/-- R170: load 2 bytes, sign-extended, acquire (R172). -/
def execLdHAq (d a : BitVec 5) (o : BitVec 13) (s : State) : Host.Outcome State Fault Refusal :=
  done (loadOff 2 false d a o s)

/-- R170: load 4 bytes, sign-extended, acquire (R172). -/
def execLdWAq (d a : BitVec 5) (o : BitVec 13) (s : State) : Host.Outcome State Fault Refusal :=
  done (loadOff 4 false d a o s)

/-- R170: load 8 bytes, sign-extended, acquire (R172). -/
def execLdDAq (d a : BitVec 5) (o : BitVec 13) (s : State) : Host.Outcome State Fault Refusal :=
  done (loadOff 8 false d a o s)

/-- R170: load 1 byte, zero-extended, acquire (R172). -/
def execLdBnAq (d a : BitVec 5) (o : BitVec 13) (s : State) : Host.Outcome State Fault Refusal :=
  done (loadOff 1 true d a o s)

/-- R170: load 2 bytes, zero-extended, acquire (R172). -/
def execLdHnAq (d a : BitVec 5) (o : BitVec 13) (s : State) : Host.Outcome State Fault Refusal :=
  done (loadOff 2 true d a o s)

/-- R170: load 4 bytes, zero-extended, acquire (R172). -/
def execLdWnAq (d a : BitVec 5) (o : BitVec 13) (s : State) : Host.Outcome State Fault Refusal :=
  done (loadOff 4 true d a o s)

/-- R170: load 1 byte at sa + sb, sign-extended; q: acquire (R172). -/
def execLdBX (d a b : BitVec 5) (_q : BitVec 1) (s : State) : Host.Outcome State Fault Refusal :=
  done (loadIdx 1 false d a b s)

/-- R170: load 2 bytes at sa + sb, sign-extended; q: acquire (R172). -/
def execLdHX (d a b : BitVec 5) (_q : BitVec 1) (s : State) : Host.Outcome State Fault Refusal :=
  done (loadIdx 2 false d a b s)

/-- R170: load 4 bytes at sa + sb, sign-extended; q: acquire (R172). -/
def execLdWX (d a b : BitVec 5) (_q : BitVec 1) (s : State) : Host.Outcome State Fault Refusal :=
  done (loadIdx 4 false d a b s)

/-- R170: load 8 bytes at sa + sb, sign-extended; q: acquire (R172). -/
def execLdDX (d a b : BitVec 5) (_q : BitVec 1) (s : State) : Host.Outcome State Fault Refusal :=
  done (loadIdx 8 false d a b s)

/-- R170: load 1 byte at sa + sb, zero-extended; q: acquire (R172). -/
def execLdBnX (d a b : BitVec 5) (_q : BitVec 1) (s : State) : Host.Outcome State Fault Refusal :=
  done (loadIdx 1 true d a b s)

/-- R170: load 2 bytes at sa + sb, zero-extended; q: acquire (R172). -/
def execLdHnX (d a b : BitVec 5) (_q : BitVec 1) (s : State) : Host.Outcome State Fault Refusal :=
  done (loadIdx 2 true d a b s)

/-- R170: load 4 bytes at sa + sb, zero-extended; q: acquire (R172). -/
def execLdWnX (d a b : BitVec 5) (_q : BitVec 1) (s : State) : Host.Outcome State Fault Refusal :=
  done (loadIdx 4 true d a b s)

/-- R170: store 1 byte. -/
def execStB (d a : BitVec 5) (o : BitVec 13) (s : State) : Host.Outcome State Fault Refusal :=
  done (storeOff 1 false d a o s)

/-- R170: store 2 bytes. -/
def execStH (d a : BitVec 5) (o : BitVec 13) (s : State) : Host.Outcome State Fault Refusal :=
  done (storeOff 2 false d a o s)

/-- R170: store 4 bytes. -/
def execStW (d a : BitVec 5) (o : BitVec 13) (s : State) : Host.Outcome State Fault Refusal :=
  done (storeOff 4 false d a o s)

/-- R170: store 8 bytes. -/
def execStD (d a : BitVec 5) (o : BitVec 13) (s : State) : Host.Outcome State Fault Refusal :=
  done (storeOff 8 false d a o s)

/-- R170: store 1 byte, release (R172). -/
def execStBRl (d a : BitVec 5) (o : BitVec 13) (s : State) : Host.Outcome State Fault Refusal :=
  done (storeOff 1 true d a o s)

/-- R170: store 2 bytes, release (R172). -/
def execStHRl (d a : BitVec 5) (o : BitVec 13) (s : State) : Host.Outcome State Fault Refusal :=
  done (storeOff 2 true d a o s)

/-- R170: store 4 bytes, release (R172). -/
def execStWRl (d a : BitVec 5) (o : BitVec 13) (s : State) : Host.Outcome State Fault Refusal :=
  done (storeOff 4 true d a o s)

/-- R170: store 8 bytes, release (R172). -/
def execStDRl (d a : BitVec 5) (o : BitVec 13) (s : State) : Host.Outcome State Fault Refusal :=
  done (storeOff 8 true d a o s)

/-- R170: store 1 byte at sa + sb; q: release (R172). -/
def execStBX (d a b : BitVec 5) (q : BitVec 1) (s : State) : Host.Outcome State Fault Refusal :=
  done (storeIdx 1 (q = 1) d a b s)

/-- R170: store 2 bytes at sa + sb; q: release (R172). -/
def execStHX (d a b : BitVec 5) (q : BitVec 1) (s : State) : Host.Outcome State Fault Refusal :=
  done (storeIdx 2 (q = 1) d a b s)

/-- R170: store 4 bytes at sa + sb; q: release (R172). -/
def execStWX (d a b : BitVec 5) (q : BitVec 1) (s : State) : Host.Outcome State Fault Refusal :=
  done (storeIdx 4 (q = 1) d a b s)

/-- R170: store 8 bytes at sa + sb; q: release (R172). -/
def execStDX (d a b : BitVec 5) (q : BitVec 1) (s : State) : Host.Outcome State Fault Refusal :=
  done (storeIdx 8 (q = 1) d a b s)

/-- R173: atomic add. Scopes add nothing within one device (log 9). -/
def execAmoAdd (d a b : BitVec 5) (_c : BitVec 4) (o : BitVec 2) (w : BitVec 1) (s : State) :
    Host.Outcome State Fault Refusal := done (amo 0 d a b o w s)

/-- R173: atomic and. Scopes add nothing within one device (log 9). -/
def execAmoAnd (d a b : BitVec 5) (_c : BitVec 4) (o : BitVec 2) (w : BitVec 1) (s : State) :
    Host.Outcome State Fault Refusal := done (amo 1 d a b o w s)

/-- R173: atomic or. Scopes add nothing within one device (log 9). -/
def execAmoOr (d a b : BitVec 5) (_c : BitVec 4) (o : BitVec 2) (w : BitVec 1) (s : State) :
    Host.Outcome State Fault Refusal := done (amo 2 d a b o w s)

/-- R173: atomic exclusive or. Scopes add nothing within one device (log 9). -/
def execAmoXor (d a b : BitVec 5) (_c : BitVec 4) (o : BitVec 2) (w : BitVec 1) (s : State) :
    Host.Outcome State Fault Refusal := done (amo 3 d a b o w s)

/-- R173: atomic swap. Scopes add nothing within one device (log 9). -/
def execAmoSwap (d a b : BitVec 5) (_c : BitVec 4) (o : BitVec 2) (w : BitVec 1) (s : State) :
    Host.Outcome State Fault Refusal := done (amo 4 d a b o w s)

/-- R173: atomic signed minimum. Scopes add nothing within one device (log 9). -/
def execAmoMin (d a b : BitVec 5) (_c : BitVec 4) (o : BitVec 2) (w : BitVec 1) (s : State) :
    Host.Outcome State Fault Refusal := done (amo 5 d a b o w s)

/-- R173: atomic signed maximum. Scopes add nothing within one device (log 9). -/
def execAmoMax (d a b : BitVec 5) (_c : BitVec 4) (o : BitVec 2) (w : BitVec 1) (s : State) :
    Host.Outcome State Fault Refusal := done (amo 6 d a b o w s)

/-- R173: atomic compare with sd and swap. Scopes add nothing within one device (log 9). -/
def execAmoCas (d a b : BitVec 5) (_c : BitVec 4) (o : BitVec 2) (w : BitVec 1) (s : State) :
    Host.Outcome State Fault Refusal := done (amo 7 d a b o w s)

end Sys2Proof.Machine
end

