-- ==== Sys2Proof/Machine/Place.lean ====
section
/-! DEFINITION. Novpazar graph images, PLACE and the granary (R427 to R434). What the placer chooses is an opaque value of
Config (log 18). -/

namespace Sys2Proof.Machine

/-- 64-bit words of a list of bytes. -/
def wordsOf (bs : List Byte) : List Word := (range 0 (bs.length / 8)).map (fun i => word (ofBytes ((bs.drop (8 * i)).take 8)))

/-! The NGI (R427 to R429) -/

def ngiNodes (g : List Word) : Nat := wfld (g.headD 0) 40 8
def ngiEdges (g : List Word) : Nat := wfld (g.headD 0) 32 8
def ngiBmax (g : List Word) : Nat := wfld (g.headD 0) 16 8
/-- Words 0 and 1 of node n. -/
def nodeTile (g : List Word) (n : Nat) : Word := nth 0 g (8 + 2 * n)
def nodeInfo (g : List Word) (n : Nat) : Word := nth 0 g (9 + 2 * n)
def nodeKind (g : List Word) (n : Nat) : Nat := wfld (nodeInfo g n) 62 2
def nodeAdj (g : List Word) (n : Nat) : Nat := wfld (nodeInfo g n) 0 7
/-- Edge record e. -/
def edgeRec (g : List Word) (e : Nat) : Word := nth 0 g (8 + 2 * ngiNodes g + e)
def recSrc (w : Word) : Nat := wfld w 57 7
def recDst (w : Word) : Nat := wfld w 47 7
def recDport (w : Word) : Nat := wfld w 45 2
def recSport (w : Word) : Nat := wfld w 54 3

/-- Feature word i has bit k. -/
def hasFeature (i k : Nat) : Bool := nbit (featureWord i) k

/-- Node n names something that the feature vector does not have (R426). -/
def lacks (g : List Word) (n : Nat) : Bool :=
  let w := nodeTile g n
  match nodeKind g n with
  | 0 => !hasFeature 1 (cOp w) || !hasFeature 2 (32 + cFmt w)
  | 1 => decide (mMode w < 8) && !hasFeature 2 (48 + mMode w)
  | 2 => !hasFeature 2 (56 + eXf w)
  | _ => false

/-- The tile word of node n is malformed for another reason. -/
def badTileWord (g : List Word) (n : Nat) : Bool :=
  let w := nodeTile g n
  if lacks g n then false
  else match nodeKind g n with
    | 0 => badCompute w
    | 1 => mMode w = 0 || badMem w
    | 2 => badEdgeAlone w
    | _ => false

/-- Fibre stores among the sources of the edges into an input port of node n. -/
def fibresInto (g : List Word) (n port : Nat) : List Nat :=
  (((range 0 (ngiEdges g)).map (edgeRec g)).filter (fun w =>
    recDst w = n && recDport w = port && nodeKind g (recSrc w) = 1 && mMode (nodeTile g (recSrc w)) = 4)).map recSrc

/-- Compute node n takes its inputs A and B from two fibre stores (R428). -/
def comparesFibres (g : List Word) (n : Nat) : Bool :=
  nodeKind g n = 0 && (fibresInto g n 0).any (fun a => (fibresInto g n 1).any (· != a))

/-- The rule of R428 on ADJ and fibre stores is broken by node n. -/
def badAdj (g : List Word) (n : Nat) : Bool :=
  (comparesFibres g n && !((fibresInto g n 0 ++ fibresInto g n 1).contains (nodeAdj g n)))
    || (nodeKind g n = 1
      && (range 0 (ngiNodes g)).any (fun c =>
        comparesFibres g c && (fibresInto g c 0 ++ fibresInto g c 1).contains n && nodeAdj g n != c))

/-- Word 1 of node n is malformed. -/
def badNodeInfo (g : List Word) (n : Nat) : Bool :=
  let k := nodeKind g n; let a := nodeAdj g n
  k = 3 || wfld (nodeInfo g n) 7 55 != 0 || (a != 0x7F && decide (ngiNodes g ≤ a))
    || decide ((if k = 2 then 8 else 32) ≤ ((range 0 n).filter (fun j => nodeKind g j = k)).length)
    || badAdj g n

/-- The header, for an NGI of len bytes. -/
def badNgiHeader (g : List Word) (len : Nat) : Bool :=
  let h := g.headD 0
  wfld h 48 16 != 0x0100 || ngiNodes g = 0 || decide (72 < ngiNodes g) || ngiEdges g = 0 || wfld h 24 8 != 0 || wfld h 0 6 != 0
    || len != 64 + 16 * ngiNodes g + 8 * ngiEdges g

/-- The ports of an edge record are none that its kinds of node have (R280, R429). -/
def badPorts (g : List Word) (w : Word) : Bool :=
  (nodeKind g (recSrc w) != 0 && recSport w != 0) || decide ((2 - nodeKind g (recDst w)) < recDport w)

/-- Word i of an NGI of len bytes is malformed. -/
def badNgiWord (g : List Word) (len i : Nat) : Bool :=
  let n := ngiNodes g
  if i = 0 then badNgiHeader g len
  else if i < 8 then nth 0 g i != 0
  else if i < 8 + 2 * n then (if i % 2 = 0 then badTileWord g ((i - 8) / 2) else badNodeInfo g ((i - 9) / 2))
  else
    let w := nth 0 g i
    decide (n ≤ recSrc w) || decide (n ≤ recDst w) || wfld w 32 12 != 0 || badPorts g w

/-- The byte offset of its first malformed word. -/
def ngiMalformedAt (g : List Word) (len : Nat) : Option Nat :=
  if badNgiHeader g len then some 0 else (findFrom (badNgiWord g len) 0 (len / 8)).map (fun i => 8 * i)

/-! The placer's answer (R430) -/

/-- The tile that node n gets. -/
def tileFor (ts : List Nat) (n : Nat) : Nat := nth 0 ts n

/-- Tiles t and u of these kinds are neighbours: edge tile e is one only of the tile at (0, e) (R83, R277). -/
def nextTo (k t l u : Nat) : Bool :=
  let p := fabXY k t; let q := fabXY l u
  if k = 2 then l != 2 && q = (0, t)
  else if l = 2 then p = (0, u)
  else decide ((max p.1 q.1 - min p.1 q.1) + (max p.2 q.2 - min p.2 q.2) = 1)

/-- Route word r is the arc of edge record w: its ends, ports and initial token (R280, R429). -/
def arcFor (g : List Word) (ts : List Nat) (w r : Word) : Bool :=
  rSk r = nodeKind g (recSrc w) && rSrc r = tileFor ts (recSrc w) && rSport r = recSport w
    && rDk r = nodeKind g (recDst w) && rDst r = tileFor ts (recDst w) && rDport r = recDport w
    && rInit r = wbit w 44 && rIval r = wfld w 0 32

/-- Node n has a tile of its kind to itself, with its word, beside that of the node it names in ADJ. -/
def nodePlaced (g img : List Word) (ts : List Nat) (n : Nat) : Bool :=
  let k := nodeKind g n; let a := nodeAdj g n
  (fabIdx img k (tileFor ts n)).isSome && fabWord img k (tileFor ts n) = nodeTile g n
    && !(range 0 n).any (fun j => nodeKind g j = k && tileFor ts j = tileFor ts n)
    && (a = 0x7F || nextTo k (tileFor ts n) (nodeKind g a) (tileFor ts a))

/-- The image holds the graph on these tiles (R430): every node and every edge, and nothing else; a tile of its blocks that no node
uses has word 0, and every edge tile that it names is used (R276). -/
def holdsGraph (g img : List Word) (ts : List Nat) : Bool :=
  let nodes := range 0 (ngiNodes g)
  let edges := (range 0 (ngiEdges g)).map (edgeRec g)
  nodes.all (nodePlaced g img ts)
    && (range 0 3).all (fun k => (fabTiles img k).all (fun t =>
      (k != 2 && fabWord img k t = 0) || nodes.any (fun n => nodeKind g n = k && tileFor ts n = t)))
    && (imgRoutes img).length = ngiEdges g
    && edges.all (fun w => (imgRoutes img).any (arcFor g ts w))
    && (imgRoutes img).all (fun r => edges.any (fun w => arcFor g ts w r))

/-- An image that R430 allows: well formed, in the mask's blocks and no more than BMAX, with the graph's lengths, and the graph on
the tiles ts. -/
def goodPlacement (g img : List Word) (ts : List Nat) (mask : Nat) : Bool :=
  (malformedAt img).isNone && img.length = imgWords (imgHdr img) && Nat.land (imgBlocks img) (mask % 65536) = imgBlocks img
    && (ngiBmax g = 0 || decide (popcount (imgBlocks img) 16 ≤ ngiBmax g))
    && imgLenA img = wfld (g.headD 0) 11 5 && imgLenB img = wfld (g.headD 0) 6 5 && holdsGraph g img ts

/-- The image of these bytes holds the graph of the NGI on the tiles ts. -/
def fitsOn (bs : List Byte) (mask : Nat) (img : List Byte) (ts : List Nat) : Bool :=
  img.length % 8 = 0 && goodPlacement (wordsOf bs) (wordsOf img) ts mask

/-- Image number n, as long as its header says (R276): every image has a number below 2 to the 64 × 335. -/
def imageNo (n : Nat) : List Byte := toBytes n (8 * imgWords (word n))

/-- Assignment number n of tiles to at most 72 nodes. -/
def tilesNo (n : Nat) : List Nat := (range 0 72).map (fun i => fld n (6 * i) 6)

/-- The first image of all that some assignment of tiles fits: none only where no placement fits the mask and BMAX (R430). -/
def firstFit (bs : List Byte) (mask : Nat) : Option (List Byte) :=
  (findFrom (fun n => (findFrom (fun m => fitsOn bs mask (imageNo n) (tilesNo m)) 0 (2 ^ (6 * 72))).isSome) 0
    (2 ^ (64 * 335))).map imageNo

/-- The placer's image for an NGI: the one that it chooses, if it is one that R430 allows, else another; none when no placement fits
(log 18). -/
def placed (bs : List Byte) (mask : Nat) : Option (List Byte) :=
  match (Config.placeImage bs mask Config.placerVersion).filter
      (fun img => fitsOn bs mask img (Config.placeNodes bs mask Config.placerVersion)) with
  | some img => some img
  | none => firstFit bs mask

/-! The granary (R432 to R434) -/

/-- The feature vector as 32 bytes. -/
def featureBytes : List Byte := (range 0 4).flatMap (fun i => toBytes (featureWord i) 8)

/-- K, as the bytes that SM3 delivers. -/
def granaryKey (bs : List Byte) (mask : Nat) : List Byte := sm3 (bs ++ featureBytes ++ toBytes mask 2)

/-- The slot of a key, in CXL pool memory (R21, R432): none without a granary. -/
def granarySlot (s : State) (key : List Byte) : Option Nat :=
  if Config.granarySlots = 0 then none
  else
    let a := cxlBase + Config.granaryBase + 4096 * (ofBytes key % 2 ^ 32 % Config.granarySlots)
    if a < cxlBase + 12 * 0x10000000000 ∧ populated s a 4096 = true then some a else none

/-- The image in a slot, when the lookup is a hit (R433): the slot is read past the L2 (R336). -/
def granaryHit (st : State) (a : Nat) (key : List Byte) : Option (List Byte) :=
  let s := if st.far = [] then st else beyondL2 a 4096 st
  let len := getMem s (a + 12) 4
  if getMem s a 8 ≠ 0 ∧ getMem s a 8 = ofBytes key % 2 ^ 64 ∧ getBytes s (a + 16) 32 = key
      ∧ getBytes s (a + 80) 32 = featureBytes ∧ getMem s (a + 8) 4 = Config.placerVersion.toNat ∧ len ≤ 4096 - 128
      ∧ sm3 (getBytes s (a + 128) len) = getBytes s (a + 48) 32 ∧ ¬ (range 0 32).any (fun l => linePoisoned s (a + 128 * l) 1)
  then some (getBytes s (a + 128) len) else none

/-- A result is published: everything from byte 8 on, then TAG (R434). -/
def publish (slot : Option Nat) (key img : List Byte) (s : State) : State :=
  match slot with
  | none => s
  | some a =>
    if 4096 - 128 < img.length then s
    else
      agentWrite a (toBytes (ofBytes key) 8)
        (agentWrite (a + 8)
          (toBytes Config.placerVersion.toNat 4 ++ toBytes img.length 4 ++ key ++ sm3 img ++ featureBytes ++ toBytes 0 16 ++ img) s)

/-! PLACE -/

/-- The image reaches the buffer, and the reply tells its length; 5 when the buffer cannot hold it. -/
def deliverImage (tag : BitVec 16) (status : Nat) (img : List Byte) (dst dstLen : Nat) (f : State → State) (s : State) : State :=
  if dstLen < img.length ∨ populated s dst img.length = false then reply tag 5 [] s
  else f (reply tag status (toBytes img.length 8) (agentWrite dst img s))

/-- PLACE for a well-formed NGI of these bytes. -/
def placeNgi (tag : BitVec 16) (bs : List Byte) (mask dst dstLen : Nat) (s : State) : State :=
  let key := granaryKey bs mask
  let slot := granarySlot s key
  match slot.bind (fun a => granaryHit s a key) with
  | some img => deliverImage tag 1 img dst dstLen (fun t => t) s
  | none => match placed bs mask with
    | none => reply tag 3 [] s
    | some img => deliverImage tag 0 img dst dstLen (publish slot key img) s

/-- The request (R430): an NGI that does not lie in memory, or not at a multiple of 64, is malformed from its first word on
(log 18). -/
def placeNow (tag : BitVec 16) (ngi len mask dst dstLen : Nat) (s : State) : State :=
  let bs := getBytes s ngi len
  let g := wordsOf bs
  if ngi % 64 ≠ 0 ∨ populated s ngi len = false then reply tag 2 (toBytes 0 8) s
  else match ngiMalformedAt g len with
    | some off => reply tag 2 (toBytes off 8) s
    | none =>
      if (range 0 (ngiNodes g)).any (lacks g) then reply tag 4 [] s
      else placeNgi tag bs (mask % 65536) dst dstLen s

/-- PLACE (R430 to R434). -/
def execPlace (msg : MsgHead) (ngi len mask dst dstLen : Nat) (s : State) : Host.Outcome State Fault Refusal :=
  done (accept msg (placeNow msg.tag ngi len mask dst dstLen) s)

end Sys2Proof.Machine
end

