-- ==== Sys2Proof/Machine/VInt.lean ====
section
/-! DEFINITION. Integer vector instructions (R231 to R237). -/

namespace Sys2Proof.Machine

/-! The operations: a and b as bits, w the element width sew (R236) -/

/-- Modulo 2^w. -/
def iAdd (w a b : Nat) : Nat := (a + b) % 2 ^ w
def iSub (w a b : Nat) : Nat := (a + 2 ^ w - b) % 2 ^ w
def iRsub (w a b : Nat) : Nat := iSub w b a
def iMul (w a b : Nat) : Nat := a * b % 2 ^ w

/-- The high half of the exact product. -/
def iMulhI (w a b : Nat) : Nat := wrap (sext a w * sext b w / (2 : Int) ^ w) w
def iMulhN (w a b : Nat) : Nat := a * b / 2 ^ w

/-- Quotients toward zero; a zero divisor gives all ones. -/
def iDivI (w a b : Nat) : Nat := if b = 0 then 2 ^ w - 1 else wrap ((sext a w).tdiv (sext b w)) w
def iDivN (w a b : Nat) : Nat := if b = 0 then 2 ^ w - 1 else a / b
/-- Remainders with the sign of a; a zero divisor gives a. -/
def iRemI (w a b : Nat) : Nat := if b = 0 then a else wrap ((sext a w).tmod (sext b w)) w
def iRemN (_w a b : Nat) : Nat := if b = 0 then a else a % b

def iMinI (w a b : Nat) : Nat := if sext a w ≤ sext b w then a else b
def iMinN (_w a b : Nat) : Nat := min a b
def iMaxI (w a b : Nat) : Nat := if sext a w ≤ sext b w then b else a
def iMaxN (_w a b : Nat) : Nat := max a b

def iAnd (_w a b : Nat) : Nat := Nat.land a b
def iOr (_w a b : Nat) : Nat := Nat.lor a b
def iXor (_w a b : Nat) : Nat := Nat.xor a b

/-- Shifts by b mod w. -/
def iSll (w a b : Nat) : Nat := a * 2 ^ (b % w) % 2 ^ w
def iSrl (w a b : Nat) : Nat := a / 2 ^ (b % w)
def iSra (w a b : Nat) : Nat := wrap (sext a w / (2 : Int) ^ (b % w)) w

/-- An exact value clamped to the signed or the unsigned range of w bits. -/
def clampI (w : Nat) (i : Int) : Nat := wrap (max (-(2 : Int) ^ (w - 1)) (min ((2 : Int) ^ (w - 1) - 1) i)) w
def clampN (w : Nat) (i : Int) : Nat := (max 0 (min ((2 : Int) ^ w - 1) i)).toNat

def iSaddI (w a b : Nat) : Nat := clampI w (sext a w + sext b w)
def iSaddN (w a b : Nat) : Nat := clampN w ((a : Int) + b)
def iSsubI (w a b : Nat) : Nat := clampI w (sext a w - sext b w)
def iSsubN (w a b : Nat) : Nat := clampN w ((a : Int) - b)

/-- floor((a + b + 1) / 2). -/
def iAvgI (w a b : Nat) : Nat := wrap ((sext a w + sext b w + 1) / 2) w
def iAvgN (_w a b : Nat) : Nat := (a + b + 1) / 2

/-- R237: the exact sum at 2w bits. -/
def iWaddI (w a b : Nat) : Nat := wrap (sext a w + sext b w) (2 * w)
def iWaddN (_w a b : Nat) : Nat := a + b
/-- R237: a has 2w bits; it is shifted by b mod 2w and clamped to w bits. -/
def iNarrowI (w a b : Nat) : Nat := clampI w (sext a (2 * w) / (2 : Int) ^ (b % (2 * w)))
def iNarrowN (w a b : Nat) : Nat := clampN w ((a / 2 ^ (b % (2 * w)) : Nat) : Int)

/-! The three forms -/

/-- The checks at issue (R231, R232, R233, R237): widths wd and wa of the destination and of va; vb, when it is a vector. -/
def intCheck (wd wa : Nat) (d a : Nat) (b : Option Nat) (s : State) : Option (Nat × Word) :=
  let w := s.hart.sew
  firstTrap
    [badVtype s,
     badOperand (s.hart.plane || (decide (1 < wd ∨ 1 < wa) && decide (64 < 2 * w))
        || !dstOk s d (wd * w) || !srcOk s a (wa * w) || !overlapOk s d (wd * w) a (wa * w)
        || (match b with
            | some v => !srcOk s v w || !overlapOk s d (wd * w) v w
            | none => false)) s]

/-- `.vv`. -/
def intVv (f : Nat → Nat → Nat → Nat) (wd wa : Nat) (d a b : BitVec 6) (m : BitVec 3) : State → State :=
  vslot 0 0 0 (runSlot .elem (intCheck wd wa d.toNat a.toNat (some b.toNat))
    (fun s => [(d.toNat, extent s (wd * s.hart.sew))])
    (fun s =>
      let w := s.hart.sew
      mapElems m.toNat d.toNat (wd * w)
        (fun t i => f w (srcElem t a.toNat i (wa * w)) (srcElem t b.toNat i w))
        (fun t i => srcPois t a.toNat i (wa * w) || srcPois t b.toNat i w)
        (ringNote [a.toNat, b.toNat] s)))

/-- `.vx` and `.vi`: b is the same for every element. -/
def intScalar (f : Nat → Nat → Nat → Nat) (wd wa : Nat) (d a : BitVec 6) (b : State → Nat) (m : BitVec 3) : State → State :=
  runSlot .elem (intCheck wd wa d.toNat a.toNat none)
    (fun s => [(d.toNat, extent s (wd * s.hart.sew))])
    (fun s =>
      let w := s.hart.sew
      mapElems m.toNat d.toNat (wd * w)
        (fun t i => f w (srcElem t a.toNat i (wa * w)) (b s % 2 ^ w))
        (fun t i => srcPois t a.toNat i (wa * w))
        (ringNote [a.toNat] s))

def intVx (f : Nat → Nat → Nat → Nat) (wd wa : Nat) (d a : BitVec 6) (b : BitVec 5) (m : BitVec 3) (s : State) : State :=
  vslot 0 (getS s b) 0 (intScalar f wd wa d a (fun t => (cap1 t).toNat) m) s

def intVi (f : Nat → Nat → Nat → Nat) (wd wa : Nat) (d a : BitVec 6) (i : Nat) (m : BitVec 3) : State → State :=
  vslot 0 0 0 (intScalar f wd wa d a (fun _ => i) m)

/-- A sign-extended imm8 (R147), to be taken modulo 2^sew. -/
def imm8 (i : BitVec 8) : Nat := (i.signExtend 64).toNat

/-! The instructions -/

/-- R236: `vadd`, vector and vector. -/
def execVaddVv (d a b : BitVec 6) (m : BitVec 3) (s : State) : Host.Outcome State Fault Refusal := done (intVv iAdd 1 1 d a b m s)

/-- R236: `vsub`, vector and vector. -/
def execVsubVv (d a b : BitVec 6) (m : BitVec 3) (s : State) : Host.Outcome State Fault Refusal := done (intVv iSub 1 1 d a b m s)

/-- R236: `vrsub`, vector and vector. -/
def execVrsubVv (d a b : BitVec 6) (m : BitVec 3) (s : State) : Host.Outcome State Fault Refusal := done (intVv iRsub 1 1 d a b m s)

/-- R236: `vmul`, vector and vector. -/
def execVmulVv (d a b : BitVec 6) (m : BitVec 3) (s : State) : Host.Outcome State Fault Refusal := done (intVv iMul 1 1 d a b m s)

/-- R236: `vmulhI`, vector and vector. -/
def execVmulhIVv (d a b : BitVec 6) (m : BitVec 3) (s : State) : Host.Outcome State Fault Refusal := done (intVv iMulhI 1 1 d a b m s)

/-- R236: `vmulhN`, vector and vector. -/
def execVmulhNVv (d a b : BitVec 6) (m : BitVec 3) (s : State) : Host.Outcome State Fault Refusal := done (intVv iMulhN 1 1 d a b m s)

/-- R236: `vdivI`, vector and vector. -/
def execVdivIVv (d a b : BitVec 6) (m : BitVec 3) (s : State) : Host.Outcome State Fault Refusal := done (intVv iDivI 1 1 d a b m s)

/-- R236: `vdivN`, vector and vector. -/
def execVdivNVv (d a b : BitVec 6) (m : BitVec 3) (s : State) : Host.Outcome State Fault Refusal := done (intVv iDivN 1 1 d a b m s)

/-- R236: `vremI`, vector and vector. -/
def execVremIVv (d a b : BitVec 6) (m : BitVec 3) (s : State) : Host.Outcome State Fault Refusal := done (intVv iRemI 1 1 d a b m s)

/-- R236: `vremN`, vector and vector. -/
def execVremNVv (d a b : BitVec 6) (m : BitVec 3) (s : State) : Host.Outcome State Fault Refusal := done (intVv iRemN 1 1 d a b m s)

/-- R236: `vminI`, vector and vector. -/
def execVminIVv (d a b : BitVec 6) (m : BitVec 3) (s : State) : Host.Outcome State Fault Refusal := done (intVv iMinI 1 1 d a b m s)

/-- R236: `vminN`, vector and vector. -/
def execVminNVv (d a b : BitVec 6) (m : BitVec 3) (s : State) : Host.Outcome State Fault Refusal := done (intVv iMinN 1 1 d a b m s)

/-- R236: `vmaxI`, vector and vector. -/
def execVmaxIVv (d a b : BitVec 6) (m : BitVec 3) (s : State) : Host.Outcome State Fault Refusal := done (intVv iMaxI 1 1 d a b m s)

/-- R236: `vmaxN`, vector and vector. -/
def execVmaxNVv (d a b : BitVec 6) (m : BitVec 3) (s : State) : Host.Outcome State Fault Refusal := done (intVv iMaxN 1 1 d a b m s)

/-- R236: `vand`, vector and vector. -/
def execVandVv (d a b : BitVec 6) (m : BitVec 3) (s : State) : Host.Outcome State Fault Refusal := done (intVv iAnd 1 1 d a b m s)

/-- R236: `vor`, vector and vector. -/
def execVorVv (d a b : BitVec 6) (m : BitVec 3) (s : State) : Host.Outcome State Fault Refusal := done (intVv iOr 1 1 d a b m s)

/-- R236: `vxor`, vector and vector. -/
def execVxorVv (d a b : BitVec 6) (m : BitVec 3) (s : State) : Host.Outcome State Fault Refusal := done (intVv iXor 1 1 d a b m s)

/-- R236: `vsll`, vector and vector. -/
def execVsllVv (d a b : BitVec 6) (m : BitVec 3) (s : State) : Host.Outcome State Fault Refusal := done (intVv iSll 1 1 d a b m s)

/-- R236: `vsrl`, vector and vector. -/
def execVsrlVv (d a b : BitVec 6) (m : BitVec 3) (s : State) : Host.Outcome State Fault Refusal := done (intVv iSrl 1 1 d a b m s)

/-- R236: `vsra`, vector and vector. -/
def execVsraVv (d a b : BitVec 6) (m : BitVec 3) (s : State) : Host.Outcome State Fault Refusal := done (intVv iSra 1 1 d a b m s)

/-- R236: `vsaddI`, vector and vector. -/
def execVsaddIVv (d a b : BitVec 6) (m : BitVec 3) (s : State) : Host.Outcome State Fault Refusal := done (intVv iSaddI 1 1 d a b m s)

/-- R236: `vsaddN`, vector and vector. -/
def execVsaddNVv (d a b : BitVec 6) (m : BitVec 3) (s : State) : Host.Outcome State Fault Refusal := done (intVv iSaddN 1 1 d a b m s)

/-- R236: `vssubI`, vector and vector. -/
def execVssubIVv (d a b : BitVec 6) (m : BitVec 3) (s : State) : Host.Outcome State Fault Refusal := done (intVv iSsubI 1 1 d a b m s)

/-- R236: `vssubN`, vector and vector. -/
def execVssubNVv (d a b : BitVec 6) (m : BitVec 3) (s : State) : Host.Outcome State Fault Refusal := done (intVv iSsubN 1 1 d a b m s)

/-- R236: `vavgI`, vector and vector. -/
def execVavgIVv (d a b : BitVec 6) (m : BitVec 3) (s : State) : Host.Outcome State Fault Refusal := done (intVv iAvgI 1 1 d a b m s)

/-- R236: `vavgN`, vector and vector. -/
def execVavgNVv (d a b : BitVec 6) (m : BitVec 3) (s : State) : Host.Outcome State Fault Refusal := done (intVv iAvgN 1 1 d a b m s)

/-- R237: `vwaddI`, vector and vector. -/
def execVwaddIVv (d a b : BitVec 6) (m : BitVec 3) (s : State) : Host.Outcome State Fault Refusal := done (intVv iWaddI 2 1 d a b m s)

/-- R237: `vwaddN`, vector and vector. -/
def execVwaddNVv (d a b : BitVec 6) (m : BitVec 3) (s : State) : Host.Outcome State Fault Refusal := done (intVv iWaddN 2 1 d a b m s)

/-- R237: `vnarrowI`, vector and vector. -/
def execVnarrowIVv (d a b : BitVec 6) (m : BitVec 3) (s : State) : Host.Outcome State Fault Refusal := done (intVv iNarrowI 1 2 d a b m s)

/-- R237: `vnarrowN`, vector and vector. -/
def execVnarrowNVv (d a b : BitVec 6) (m : BitVec 3) (s : State) : Host.Outcome State Fault Refusal := done (intVv iNarrowN 1 2 d a b m s)

/-- R236, R234: `vadd`, vector and scalar. -/
def execVaddVx (d a : BitVec 6) (b : BitVec 5) (m : BitVec 3) (s : State) : Host.Outcome State Fault Refusal := done (intVx iAdd 1 1 d a b m s)

/-- R236, R234: `vsub`, vector and scalar. -/
def execVsubVx (d a : BitVec 6) (b : BitVec 5) (m : BitVec 3) (s : State) : Host.Outcome State Fault Refusal := done (intVx iSub 1 1 d a b m s)

/-- R236, R234: `vrsub`, vector and scalar. -/
def execVrsubVx (d a : BitVec 6) (b : BitVec 5) (m : BitVec 3) (s : State) : Host.Outcome State Fault Refusal := done (intVx iRsub 1 1 d a b m s)

/-- R236, R234: `vmul`, vector and scalar. -/
def execVmulVx (d a : BitVec 6) (b : BitVec 5) (m : BitVec 3) (s : State) : Host.Outcome State Fault Refusal := done (intVx iMul 1 1 d a b m s)

/-- R236, R234: `vmulhI`, vector and scalar. -/
def execVmulhIVx (d a : BitVec 6) (b : BitVec 5) (m : BitVec 3) (s : State) : Host.Outcome State Fault Refusal := done (intVx iMulhI 1 1 d a b m s)

/-- R236, R234: `vmulhN`, vector and scalar. -/
def execVmulhNVx (d a : BitVec 6) (b : BitVec 5) (m : BitVec 3) (s : State) : Host.Outcome State Fault Refusal := done (intVx iMulhN 1 1 d a b m s)

/-- R236, R234: `vdivI`, vector and scalar. -/
def execVdivIVx (d a : BitVec 6) (b : BitVec 5) (m : BitVec 3) (s : State) : Host.Outcome State Fault Refusal := done (intVx iDivI 1 1 d a b m s)

/-- R236, R234: `vdivN`, vector and scalar. -/
def execVdivNVx (d a : BitVec 6) (b : BitVec 5) (m : BitVec 3) (s : State) : Host.Outcome State Fault Refusal := done (intVx iDivN 1 1 d a b m s)

/-- R236, R234: `vremI`, vector and scalar. -/
def execVremIVx (d a : BitVec 6) (b : BitVec 5) (m : BitVec 3) (s : State) : Host.Outcome State Fault Refusal := done (intVx iRemI 1 1 d a b m s)

/-- R236, R234: `vremN`, vector and scalar. -/
def execVremNVx (d a : BitVec 6) (b : BitVec 5) (m : BitVec 3) (s : State) : Host.Outcome State Fault Refusal := done (intVx iRemN 1 1 d a b m s)

/-- R236, R234: `vminI`, vector and scalar. -/
def execVminIVx (d a : BitVec 6) (b : BitVec 5) (m : BitVec 3) (s : State) : Host.Outcome State Fault Refusal := done (intVx iMinI 1 1 d a b m s)

/-- R236, R234: `vminN`, vector and scalar. -/
def execVminNVx (d a : BitVec 6) (b : BitVec 5) (m : BitVec 3) (s : State) : Host.Outcome State Fault Refusal := done (intVx iMinN 1 1 d a b m s)

/-- R236, R234: `vmaxI`, vector and scalar. -/
def execVmaxIVx (d a : BitVec 6) (b : BitVec 5) (m : BitVec 3) (s : State) : Host.Outcome State Fault Refusal := done (intVx iMaxI 1 1 d a b m s)

/-- R236, R234: `vmaxN`, vector and scalar. -/
def execVmaxNVx (d a : BitVec 6) (b : BitVec 5) (m : BitVec 3) (s : State) : Host.Outcome State Fault Refusal := done (intVx iMaxN 1 1 d a b m s)

/-- R236, R234: `vand`, vector and scalar. -/
def execVandVx (d a : BitVec 6) (b : BitVec 5) (m : BitVec 3) (s : State) : Host.Outcome State Fault Refusal := done (intVx iAnd 1 1 d a b m s)

/-- R236, R234: `vor`, vector and scalar. -/
def execVorVx (d a : BitVec 6) (b : BitVec 5) (m : BitVec 3) (s : State) : Host.Outcome State Fault Refusal := done (intVx iOr 1 1 d a b m s)

/-- R236, R234: `vxor`, vector and scalar. -/
def execVxorVx (d a : BitVec 6) (b : BitVec 5) (m : BitVec 3) (s : State) : Host.Outcome State Fault Refusal := done (intVx iXor 1 1 d a b m s)

/-- R236, R234: `vsll`, vector and scalar. -/
def execVsllVx (d a : BitVec 6) (b : BitVec 5) (m : BitVec 3) (s : State) : Host.Outcome State Fault Refusal := done (intVx iSll 1 1 d a b m s)

/-- R236, R234: `vsrl`, vector and scalar. -/
def execVsrlVx (d a : BitVec 6) (b : BitVec 5) (m : BitVec 3) (s : State) : Host.Outcome State Fault Refusal := done (intVx iSrl 1 1 d a b m s)

/-- R236, R234: `vsra`, vector and scalar. -/
def execVsraVx (d a : BitVec 6) (b : BitVec 5) (m : BitVec 3) (s : State) : Host.Outcome State Fault Refusal := done (intVx iSra 1 1 d a b m s)

/-- R236, R234: `vsaddI`, vector and scalar. -/
def execVsaddIVx (d a : BitVec 6) (b : BitVec 5) (m : BitVec 3) (s : State) : Host.Outcome State Fault Refusal := done (intVx iSaddI 1 1 d a b m s)

/-- R236, R234: `vsaddN`, vector and scalar. -/
def execVsaddNVx (d a : BitVec 6) (b : BitVec 5) (m : BitVec 3) (s : State) : Host.Outcome State Fault Refusal := done (intVx iSaddN 1 1 d a b m s)

/-- R236, R234: `vssubI`, vector and scalar. -/
def execVssubIVx (d a : BitVec 6) (b : BitVec 5) (m : BitVec 3) (s : State) : Host.Outcome State Fault Refusal := done (intVx iSsubI 1 1 d a b m s)

/-- R236, R234: `vssubN`, vector and scalar. -/
def execVssubNVx (d a : BitVec 6) (b : BitVec 5) (m : BitVec 3) (s : State) : Host.Outcome State Fault Refusal := done (intVx iSsubN 1 1 d a b m s)

/-- R236, R234: `vavgI`, vector and scalar. -/
def execVavgIVx (d a : BitVec 6) (b : BitVec 5) (m : BitVec 3) (s : State) : Host.Outcome State Fault Refusal := done (intVx iAvgI 1 1 d a b m s)

/-- R236, R234: `vavgN`, vector and scalar. -/
def execVavgNVx (d a : BitVec 6) (b : BitVec 5) (m : BitVec 3) (s : State) : Host.Outcome State Fault Refusal := done (intVx iAvgN 1 1 d a b m s)

/-- R237, R234: `vwaddI`, vector and scalar. -/
def execVwaddIVx (d a : BitVec 6) (b : BitVec 5) (m : BitVec 3) (s : State) : Host.Outcome State Fault Refusal := done (intVx iWaddI 2 1 d a b m s)

/-- R237, R234: `vwaddN`, vector and scalar. -/
def execVwaddNVx (d a : BitVec 6) (b : BitVec 5) (m : BitVec 3) (s : State) : Host.Outcome State Fault Refusal := done (intVx iWaddN 2 1 d a b m s)

/-- R237, R234: `vnarrowI`, vector and scalar. -/
def execVnarrowIVx (d a : BitVec 6) (b : BitVec 5) (m : BitVec 3) (s : State) : Host.Outcome State Fault Refusal := done (intVx iNarrowI 1 2 d a b m s)

/-- R237, R234: `vnarrowN`, vector and scalar. -/
def execVnarrowNVx (d a : BitVec 6) (b : BitVec 5) (m : BitVec 3) (s : State) : Host.Outcome State Fault Refusal := done (intVx iNarrowN 1 2 d a b m s)

/-- R236, R234: `vadd`, vector and immediate. -/
def execVaddVi (d a : BitVec 6) (i : BitVec 8) (m : BitVec 3) (s : State) : Host.Outcome State Fault Refusal := done (intVi iAdd 1 1 d a (imm8 i) m s)

/-- R236, R234: `vrsub`, vector and immediate. -/
def execVrsubVi (d a : BitVec 6) (i : BitVec 8) (m : BitVec 3) (s : State) : Host.Outcome State Fault Refusal := done (intVi iRsub 1 1 d a (imm8 i) m s)

/-- R236, R234: `vand`, vector and immediate. -/
def execVandVi (d a : BitVec 6) (i : BitVec 8) (m : BitVec 3) (s : State) : Host.Outcome State Fault Refusal := done (intVi iAnd 1 1 d a (imm8 i) m s)

/-- R236, R234: `vor`, vector and immediate. -/
def execVorVi (d a : BitVec 6) (i : BitVec 8) (m : BitVec 3) (s : State) : Host.Outcome State Fault Refusal := done (intVi iOr 1 1 d a (imm8 i) m s)

/-- R236, R234: `vxor`, vector and immediate. -/
def execVxorVi (d a : BitVec 6) (i : BitVec 8) (m : BitVec 3) (s : State) : Host.Outcome State Fault Refusal := done (intVi iXor 1 1 d a (imm8 i) m s)

/-- R236, R234: `vsll`, vector and shift count. -/
def execVsllVi (d a : BitVec 6) (i : BitVec 6) (m : BitVec 3) (s : State) : Host.Outcome State Fault Refusal := done (intVi iSll 1 1 d a i.toNat m s)

/-- R236, R234: `vsrl`, vector and shift count. -/
def execVsrlVi (d a : BitVec 6) (i : BitVec 6) (m : BitVec 3) (s : State) : Host.Outcome State Fault Refusal := done (intVi iSrl 1 1 d a i.toNat m s)

/-- R236, R234: `vsra`, vector and shift count. -/
def execVsraVi (d a : BitVec 6) (i : BitVec 6) (m : BitVec 3) (s : State) : Host.Outcome State Fault Refusal := done (intVi iSra 1 1 d a i.toNat m s)

/-- R236, R234: `vsaddI`, vector and immediate. -/
def execVsaddIVi (d a : BitVec 6) (i : BitVec 8) (m : BitVec 3) (s : State) : Host.Outcome State Fault Refusal := done (intVi iSaddI 1 1 d a (imm8 i) m s)

/-- R236, R234: `vsaddN`, vector and immediate. -/
def execVsaddNVi (d a : BitVec 6) (i : BitVec 8) (m : BitVec 3) (s : State) : Host.Outcome State Fault Refusal := done (intVi iSaddN 1 1 d a i.toNat m s)

/-- R236, R234: `vminI`, vector and immediate. -/
def execVminIVi (d a : BitVec 6) (i : BitVec 8) (m : BitVec 3) (s : State) : Host.Outcome State Fault Refusal := done (intVi iMinI 1 1 d a (imm8 i) m s)

/-- R236, R234: `vminN`, vector and immediate. -/
def execVminNVi (d a : BitVec 6) (i : BitVec 8) (m : BitVec 3) (s : State) : Host.Outcome State Fault Refusal := done (intVi iMinN 1 1 d a i.toNat m s)

/-- R236, R234: `vmaxI`, vector and immediate. -/
def execVmaxIVi (d a : BitVec 6) (i : BitVec 8) (m : BitVec 3) (s : State) : Host.Outcome State Fault Refusal := done (intVi iMaxI 1 1 d a (imm8 i) m s)

/-- R236, R234: `vmaxN`, vector and immediate. -/
def execVmaxNVi (d a : BitVec 6) (i : BitVec 8) (m : BitVec 3) (s : State) : Host.Outcome State Fault Refusal := done (intVi iMaxN 1 1 d a i.toNat m s)

/-- R237, R234: `vnarrowI`, vector and shift count. -/
def execVnarrowIVi (d a : BitVec 6) (i : BitVec 6) (m : BitVec 3) (s : State) : Host.Outcome State Fault Refusal := done (intVi iNarrowI 1 2 d a i.toNat m s)

/-- R237, R234: `vnarrowN`, vector and shift count. -/
def execVnarrowNVi (d a : BitVec 6) (i : BitVec 6) (m : BitVec 3) (s : State) : Host.Outcome State Fault Refusal := done (intVi iNarrowN 1 2 d a i.toNat m s)

end Sys2Proof.Machine
end

