-- ==== Sys2Proof/Machine/VReduce.lean ====
section
/-! DEFINITION. Reductions (R141, R142, R250 to R253). -/

namespace Sys2Proof.Machine

/-- The active elements below `vl`, ascending. -/
def activeIdx (s : State) (m : Nat) : List Nat := (range 0 (vlN s)).filter (governs s m)

/-- A start value or a source that is poisoned poisons the result (R39). -/
def redPois (s : State) (d wd a wa m : Nat) : Bool :=
  elemPois s d 0 wd || (range 0 (vlN s)).any (governPois s m) || (activeIdx s m).any (fun i => srcPois s a i wa)

/-- R252: a reduction that starts part-way. -/
def badStart (s : State) : Bool := s.hart.vstart != 0 && !s.hart.vres

/-- The result of a reduction reaches element 0 of vd, and is taken back when the convoy traps (R235). -/
def redWrite (d wd : Nat) (x : Nat) (p : Bool) (s : State) : State :=
  setElem d 0 wd x p (updIss (fun i => { i with undoV := i.undoV ++ [(i.act.slot, d)] }) s)

/-! Integer reductions -/

/-- `.i` and `.n` (R251), over sew bits. -/
def redInt (f : Nat → Nat → Nat → Nat) (d a : BitVec 6) (m : BitVec 3) : State → State :=
  vslot 0 0 0 (runSlot .whole
    (fun s =>
      let w := s.hart.sew
      firstTrap [badVtype s, badOperand (s.hart.plane || !srcOk s a.toNat w || !dstOk s d.toNat w || badStart s) s])
    (fun s => [(d.toNat, extent s s.hart.sew)])
    (fun s =>
      let w := s.hart.sew
      let x := (activeIdx s m.toNat).foldl (fun acc i => f w acc (srcElem s a.toNat i w)) (elem s d.toNat 0 w)
      redWrite d.toNat w x (redPois s d.toNat w a.toNat w m.toNat) (ringNote [a.toNat] s)))

/-! Floating-point reductions -/

/-- The ordered sum (R141). -/
def orderedSum (w : Word) (s : State) (a : Nat) (idx : List Nat) (start : FVal) : FVal :=
  idx.foldl (fun acc i => decode (fmtD w) (roundD w (fAdd (fmtRnd w) acc (srcVal w (fmtA w) s a i)) i) false) start

/-- `combine` (R163, R142): the node built with SR index i. -/
def combine (w : Word) (i : Nat) : Option FVal → Option FVal → Option FVal
  | none, b => b
  | a, none => a
  | some a, some b => some (decode (fmtD w) (roundD w (fAdd (fmtRnd w) a b) i) false)

/-- Level l + 1 of the tree from level l, whose first node stands at position pos. -/
def treeLevel (w : Word) (n l : Nat) : Nat → List (Option FVal) → List (Option FVal)
  | _, [] => []
  | _, [a] => [a]
  | pos, a :: b :: t => combine w (n * l + pos) a b :: treeLevel w n l (pos + 2 ^ (l + 1)) t

/-- All levels. -/
def treeUp (w : Word) (n : Nat) : Nat → Nat → List (Option FVal) → Option FVal
  | _, 0, t => t.headD none
  | l, k + 1, t => treeUp w n (l + 1) k (treeLevel w n l 0 t)

/-- The smallest power of two that is not less than x, 1 for 0 (R142). -/
def pow2Ceil (x : Nat) : Nat := if x ≤ 1 then 1 else 2 ^ bitLen (x - 1)

/-- The tree sum (R142). -/
def treeSum (w : Word) (s : State) (a m : Nat) (start : FVal) : FVal :=
  let n := pow2Ceil (vlN s)
  let leaves := (range 0 n).map (fun i =>
    if i < vlN s && governs s m i then some (srcVal w (fmtA w) s a i) else none)
  match treeUp w n 0 (log2 n) leaves with
  | none => start
  | some v => decode (fmtD w) (roundD w (fAdd (fmtRnd w) start v) (n * log2 n)) false

/-- The extreme by value, -0 below +0, NaNs ignored unless all are NaN (R251). -/
def extremeF (mx : Bool) : FVal → FVal → FVal
  | .nan, b => b
  | a, .nan => a
  | a, b =>
    let less : Bool := match fCmp a b with
      | some c => decide (c < 0) || (c = 0 && a.isNeg && !b.isNeg)
      | none => false
    if less = mx then b else a

/-- `.f` (R251): FA and FD are 0 to 3; with no active element the result is the start value as it was read (R124, R134). -/
def redFloat (f : Word → State → List Nat → FVal → Nat) (d a : BitVec 6) (m fs : BitVec 3) (s : State) : State :=
  vslot 0 0 (fmtReg s fs) (runSlot .whole
    (fun s =>
      let w := cap2 s
      firstTrap
        [badVtype s, badFormat (badUn w) s,
         badOperand (s.hart.plane || !srcOk s a.toNat (fmtStore (fmtA w)) || !dstOk s d.toNat (fmtStore (fmtD w))
           || badStart s) s])
    (fun s => [(d.toNat, extent s (fmtStore (fmtD (cap2 s))))])
    (fun s =>
      let w := cap2 s
      let wd := fmtStore (fmtD w)
      let idx := activeIdx s m.toNat
      let old := elem s d.toNat 0 wd
      let x := f w s idx (decode (fmtD w) old (fmtFtzi w))
      redWrite d.toNat wd x (redPois s d.toNat wd a.toNat (fmtStore (fmtA w)) m.toNat) (ringNote [a.toNat] s))) s

/-- The bits in FD of a value that is exact there. -/
def exactD (w : Word) (v : FVal) : Nat := roundTo (fmtD w) {} v

/-- `vredmax.f` and `vredmin.f`. -/
def redExtreme (mx : Bool) (d a : BitVec 6) (m fs : BitVec 3) : State → State :=
  redFloat (fun w s idx st =>
    if idx.isEmpty then exactD w st
    else roundD w (idx.foldl (fun acc i => extremeF mx acc (srcVal w (fmtA w) s a.toNat i)) st) 0) d a m fs

/-! The instructions -/

/-- R251: the ordered sum. -/
def execVredsumOF (d a : BitVec 6) (m f : BitVec 3) (s : State) : Host.Outcome State Fault Refusal :=
  done (redFloat (fun w t idx st => exactD w (orderedSum w t a.toNat idx st)) d a m f s)

/-- R251: the sum modulo 2^sew. -/
def execVredsumOI (d a : BitVec 6) (m : BitVec 3) (s : State) : Host.Outcome State Fault Refusal := done (redInt iAdd d a m s)

/-- R251: the sum modulo 2^sew. -/
def execVredsumON (d a : BitVec 6) (m : BitVec 3) (s : State) : Host.Outcome State Fault Refusal := done (redInt iAdd d a m s)

/-- R251: the tree sum. -/
def execVredsumTF (d a : BitVec 6) (m f : BitVec 3) (s : State) : Host.Outcome State Fault Refusal :=
  done (redFloat (fun w t _ st => exactD w (treeSum w t a.toNat m.toNat st)) d a m f s)

/-- R251: the sum modulo 2^sew. -/
def execVredsumTI (d a : BitVec 6) (m : BitVec 3) (s : State) : Host.Outcome State Fault Refusal := done (redInt iAdd d a m s)

/-- R251: the sum modulo 2^sew. -/
def execVredsumTN (d a : BitVec 6) (m : BitVec 3) (s : State) : Host.Outcome State Fault Refusal := done (redInt iAdd d a m s)

/-- R251: the maximum. -/
def execVredmaxF (d a : BitVec 6) (m f : BitVec 3) (s : State) : Host.Outcome State Fault Refusal := done (redExtreme true d a m f s)

/-- R251: the signed maximum. -/
def execVredmaxI (d a : BitVec 6) (m : BitVec 3) (s : State) : Host.Outcome State Fault Refusal := done (redInt iMaxI d a m s)

/-- R251: the unsigned maximum. -/
def execVredmaxN (d a : BitVec 6) (m : BitVec 3) (s : State) : Host.Outcome State Fault Refusal := done (redInt iMaxN d a m s)

/-- R251: the minimum. -/
def execVredminF (d a : BitVec 6) (m f : BitVec 3) (s : State) : Host.Outcome State Fault Refusal := done (redExtreme false d a m f s)

/-- R251: the signed minimum. -/
def execVredminI (d a : BitVec 6) (m : BitVec 3) (s : State) : Host.Outcome State Fault Refusal := done (redInt iMinI d a m s)

/-- R251: the unsigned minimum. -/
def execVredminN (d a : BitVec 6) (m : BitVec 3) (s : State) : Host.Outcome State Fault Refusal := done (redInt iMinN d a m s)

/-- R251: bitwise and. -/
def execVredandI (d a : BitVec 6) (m : BitVec 3) (s : State) : Host.Outcome State Fault Refusal := done (redInt iAnd d a m s)

/-- R251: bitwise and. -/
def execVredandN (d a : BitVec 6) (m : BitVec 3) (s : State) : Host.Outcome State Fault Refusal := done (redInt iAnd d a m s)

/-- R251: bitwise or. -/
def execVredorI (d a : BitVec 6) (m : BitVec 3) (s : State) : Host.Outcome State Fault Refusal := done (redInt iOr d a m s)

/-- R251: bitwise or. -/
def execVredorN (d a : BitVec 6) (m : BitVec 3) (s : State) : Host.Outcome State Fault Refusal := done (redInt iOr d a m s)

/-- R251: bitwise exclusive or. -/
def execVredxorI (d a : BitVec 6) (m : BitVec 3) (s : State) : Host.Outcome State Fault Refusal := done (redInt iXor d a m s)

/-- R251: bitwise exclusive or. -/
def execVredxorN (d a : BitVec 6) (m : BitVec 3) (s : State) : Host.Outcome State Fault Refusal := done (redInt iXor d a m s)

end Sys2Proof.Machine
end

