-- ==== Sys2Proof/Machine/Dispatch.lean ====
section
/-! DEFINITION. One arm for each instruction and step of the opcode table. -/

namespace Sys2Proof.Machine

def exec (i : Instr) (s : State) : Host.Outcome State Fault Refusal :=
  match i with
  | .nop => Sys2Proof.Machine.execNop s
  | .trap b => Sys2Proof.Machine.execTrap b s
  | .eret => Sys2Proof.Machine.execEret s
  | .wait => Sys2Proof.Machine.execWait s
  | .brk => Sys2Proof.Machine.execBrk s
  | .fenceI => Sys2Proof.Machine.execFenceI s
  | .tlbInv a b c => Sys2Proof.Machine.execTlbInv a b c s
  | .l1Inv a => Sys2Proof.Machine.execL1Inv a s
  | .add d a b => Sys2Proof.Machine.execAdd d a b s
  | .sub d a b => Sys2Proof.Machine.execSub d a b s
  | .and d a b => Sys2Proof.Machine.execAnd d a b s
  | .or d a b => Sys2Proof.Machine.execOr d a b s
  | .xor d a b => Sys2Proof.Machine.execXor d a b s
  | .sll d a b => Sys2Proof.Machine.execSll d a b s
  | .srl d a b => Sys2Proof.Machine.execSrl d a b s
  | .sra d a b => Sys2Proof.Machine.execSra d a b s
  | .min d a b => Sys2Proof.Machine.execMin d a b s
  | .max d a b => Sys2Proof.Machine.execMax d a b s
  | .minn d a b => Sys2Proof.Machine.execMinn d a b s
  | .maxn d a b => Sys2Proof.Machine.execMaxn d a b s
  | .slt d a b => Sys2Proof.Machine.execSlt d a b s
  | .sltn d a b => Sys2Proof.Machine.execSltn d a b s
  | .sel d a b => Sys2Proof.Machine.execSel d a b s
  | .mul d a b => Sys2Proof.Machine.execMul d a b s
  | .mulh d a b => Sys2Proof.Machine.execMulh d a b s
  | .mulhn d a b => Sys2Proof.Machine.execMulhn d a b s
  | .div d a b => Sys2Proof.Machine.execDiv d a b s
  | .divn d a b => Sys2Proof.Machine.execDivn d a b s
  | .rem d a b => Sys2Proof.Machine.execRem d a b s
  | .remn d a b => Sys2Proof.Machine.execRemn d a b s
  | .clz d a => Sys2Proof.Machine.execClz d a s
  | .ctz d a => Sys2Proof.Machine.execCtz d a s
  | .popc d a => Sys2Proof.Machine.execPopc d a s
  | .bswap d a => Sys2Proof.Machine.execBswap d a s
  | .addi d a imm => Sys2Proof.Machine.execAddi d a imm s
  | .andi d a imm => Sys2Proof.Machine.execAndi d a imm s
  | .ori d a imm => Sys2Proof.Machine.execOri d a imm s
  | .xori d a imm => Sys2Proof.Machine.execXori d a imm s
  | .slti d a imm => Sys2Proof.Machine.execSlti d a imm s
  | .sltni d a imm => Sys2Proof.Machine.execSltni d a imm s
  | .slli d a h => Sys2Proof.Machine.execSlli d a h s
  | .srli d a h => Sys2Proof.Machine.execSrli d a h s
  | .srai d a h => Sys2Proof.Machine.execSrai d a h s
  | .ldhi d imm => Sys2Proof.Machine.execLdhi d imm s
  | .adrc d o => Sys2Proof.Machine.execAdrc d o s
  | .ldB d a o => Sys2Proof.Machine.execLdB d a o s
  | .ldH d a o => Sys2Proof.Machine.execLdH d a o s
  | .ldW d a o => Sys2Proof.Machine.execLdW d a o s
  | .ldD d a o => Sys2Proof.Machine.execLdD d a o s
  | .ldBn d a o => Sys2Proof.Machine.execLdBn d a o s
  | .ldHn d a o => Sys2Proof.Machine.execLdHn d a o s
  | .ldWn d a o => Sys2Proof.Machine.execLdWn d a o s
  | .ldBAq d a o => Sys2Proof.Machine.execLdBAq d a o s
  | .ldHAq d a o => Sys2Proof.Machine.execLdHAq d a o s
  | .ldWAq d a o => Sys2Proof.Machine.execLdWAq d a o s
  | .ldDAq d a o => Sys2Proof.Machine.execLdDAq d a o s
  | .ldBnAq d a o => Sys2Proof.Machine.execLdBnAq d a o s
  | .ldHnAq d a o => Sys2Proof.Machine.execLdHnAq d a o s
  | .ldWnAq d a o => Sys2Proof.Machine.execLdWnAq d a o s
  | .ldBX d a b q => Sys2Proof.Machine.execLdBX d a b q s
  | .ldHX d a b q => Sys2Proof.Machine.execLdHX d a b q s
  | .ldWX d a b q => Sys2Proof.Machine.execLdWX d a b q s
  | .ldDX d a b q => Sys2Proof.Machine.execLdDX d a b q s
  | .ldBnX d a b q => Sys2Proof.Machine.execLdBnX d a b q s
  | .ldHnX d a b q => Sys2Proof.Machine.execLdHnX d a b q s
  | .ldWnX d a b q => Sys2Proof.Machine.execLdWnX d a b q s
  | .stB d a o => Sys2Proof.Machine.execStB d a o s
  | .stH d a o => Sys2Proof.Machine.execStH d a o s
  | .stW d a o => Sys2Proof.Machine.execStW d a o s
  | .stD d a o => Sys2Proof.Machine.execStD d a o s
  | .stBRl d a o => Sys2Proof.Machine.execStBRl d a o s
  | .stHRl d a o => Sys2Proof.Machine.execStHRl d a o s
  | .stWRl d a o => Sys2Proof.Machine.execStWRl d a o s
  | .stDRl d a o => Sys2Proof.Machine.execStDRl d a o s
  | .stBX d a b q => Sys2Proof.Machine.execStBX d a b q s
  | .stHX d a b q => Sys2Proof.Machine.execStHX d a b q s
  | .stWX d a b q => Sys2Proof.Machine.execStWX d a b q s
  | .stDX d a b q => Sys2Proof.Machine.execStDX d a b q s
  | .amoAdd d a b c o w => Sys2Proof.Machine.execAmoAdd d a b c o w s
  | .amoAnd d a b c o w => Sys2Proof.Machine.execAmoAnd d a b c o w s
  | .amoOr d a b c o w => Sys2Proof.Machine.execAmoOr d a b c o w s
  | .amoXor d a b c o w => Sys2Proof.Machine.execAmoXor d a b c o w s
  | .amoSwap d a b c o w => Sys2Proof.Machine.execAmoSwap d a b c o w s
  | .amoMin d a b c o w => Sys2Proof.Machine.execAmoMin d a b c o w s
  | .amoMax d a b c o w => Sys2Proof.Machine.execAmoMax d a b c o w s
  | .amoCas d a b c o w => Sys2Proof.Machine.execAmoCas d a b c o w s
  | .beq a b o => Sys2Proof.Machine.execBeq a b o s
  | .bne a b o => Sys2Proof.Machine.execBne a b o s
  | .blt a b o => Sys2Proof.Machine.execBlt a b o s
  | .bge a b o => Sys2Proof.Machine.execBge a b o s
  | .bltn a b o => Sys2Proof.Machine.execBltn a b o s
  | .bgen a b o => Sys2Proof.Machine.execBgen a b o s
  | .jal d o => Sys2Proof.Machine.execJal d o s
  | .jalr d a imm => Sys2Proof.Machine.execJalr d a imm s
  | .bq o => Sys2Proof.Machine.execBq o s
  | .bqNot o => Sys2Proof.Machine.execBqNot o s
  | .ctlRd d r => Sys2Proof.Machine.execCtlRd d r s
  | .ctlWr a r => Sys2Proof.Machine.execCtlWr a r s
  | .ctlSet a r => Sys2Proof.Machine.execCtlSet a r s
  | .ctlClr a r => Sys2Proof.Machine.execCtlClr a r s
  | .vsetvl d a b => Sys2Proof.Machine.execVsetvl d a b s
  | .vsetvli d a t => Sys2Proof.Machine.execVsetvli d a t s
  | .gsetvl d a b => Sys2Proof.Machine.execGsetvl d a b s
  | .vdecl n => Sys2Proof.Machine.execVdecl n s
  | .vdeclBuf n v g => Sys2Proof.Machine.execVdeclBuf n v g s
  | .taskPost d a b => Sys2Proof.Machine.execTaskPost d a b s
  | .taskTake d a => Sys2Proof.Machine.execTaskTake d a s
  | .taskDone d a => Sys2Proof.Machine.execTaskDone d a s
  | .taskYield => Sys2Proof.Machine.execTaskYield s
  | .stripGrant d a => Sys2Proof.Machine.execStripGrant d a s
  | .futLd d a b => Sys2Proof.Machine.execFutLd d a b s
  | .futSt d a b => Sys2Proof.Machine.execFutSt d a b s
  | .futClr d a => Sys2Proof.Machine.execFutClr d a s
  | .fence k c => Sys2Proof.Machine.execFence k c s
  | .drain q => Sys2Proof.Machine.execDrain q s
  | .garrive => Sys2Proof.Machine.execGarrive s
  | .gwait d => Sys2Proof.Machine.execGwait d s
  | .ingTake d a => Sys2Proof.Machine.execIngTake d a s
  | .egrPost d a b => Sys2Proof.Machine.execEgrPost d a b s
  | .pcwait d a b c => Sys2Proof.Machine.execPcwait d a b c s
  | .strLd d a b z t r => Sys2Proof.Machine.execStrLd d a b z t r s
  | .strSt d a b t r => Sys2Proof.Machine.execStrSt d a b t r s
  | .strCp d a b z t r => Sys2Proof.Machine.execStrCp d a b z t r s
  | .strXch d a b t r => Sys2Proof.Machine.execStrXch d a b t r s
  | .strWait d a => Sys2Proof.Machine.execStrWait d a s
  | .collSend d a w => Sys2Proof.Machine.execCollSend d a w s
  | .collRecv d a w => Sys2Proof.Machine.execCollRecv d a w s
  | .collRed d a w => Sys2Proof.Machine.execCollRed d a w s
  | .collCancel d a => Sys2Proof.Machine.execCollCancel d a s
  | .collStat d a => Sys2Proof.Machine.execCollStat d a s
  | .vaddVv d a b m => Sys2Proof.Machine.execVaddVv d a b m s
  | .vsubVv d a b m => Sys2Proof.Machine.execVsubVv d a b m s
  | .vrsubVv d a b m => Sys2Proof.Machine.execVrsubVv d a b m s
  | .vmulVv d a b m => Sys2Proof.Machine.execVmulVv d a b m s
  | .vmulhIVv d a b m => Sys2Proof.Machine.execVmulhIVv d a b m s
  | .vmulhNVv d a b m => Sys2Proof.Machine.execVmulhNVv d a b m s
  | .vdivIVv d a b m => Sys2Proof.Machine.execVdivIVv d a b m s
  | .vdivNVv d a b m => Sys2Proof.Machine.execVdivNVv d a b m s
  | .vremIVv d a b m => Sys2Proof.Machine.execVremIVv d a b m s
  | .vremNVv d a b m => Sys2Proof.Machine.execVremNVv d a b m s
  | .vminIVv d a b m => Sys2Proof.Machine.execVminIVv d a b m s
  | .vminNVv d a b m => Sys2Proof.Machine.execVminNVv d a b m s
  | .vmaxIVv d a b m => Sys2Proof.Machine.execVmaxIVv d a b m s
  | .vmaxNVv d a b m => Sys2Proof.Machine.execVmaxNVv d a b m s
  | .vandVv d a b m => Sys2Proof.Machine.execVandVv d a b m s
  | .vorVv d a b m => Sys2Proof.Machine.execVorVv d a b m s
  | .vxorVv d a b m => Sys2Proof.Machine.execVxorVv d a b m s
  | .vsllVv d a b m => Sys2Proof.Machine.execVsllVv d a b m s
  | .vsrlVv d a b m => Sys2Proof.Machine.execVsrlVv d a b m s
  | .vsraVv d a b m => Sys2Proof.Machine.execVsraVv d a b m s
  | .vsaddIVv d a b m => Sys2Proof.Machine.execVsaddIVv d a b m s
  | .vsaddNVv d a b m => Sys2Proof.Machine.execVsaddNVv d a b m s
  | .vssubIVv d a b m => Sys2Proof.Machine.execVssubIVv d a b m s
  | .vssubNVv d a b m => Sys2Proof.Machine.execVssubNVv d a b m s
  | .vavgIVv d a b m => Sys2Proof.Machine.execVavgIVv d a b m s
  | .vavgNVv d a b m => Sys2Proof.Machine.execVavgNVv d a b m s
  | .vwaddIVv d a b m => Sys2Proof.Machine.execVwaddIVv d a b m s
  | .vwaddNVv d a b m => Sys2Proof.Machine.execVwaddNVv d a b m s
  | .vnarrowIVv d a b m => Sys2Proof.Machine.execVnarrowIVv d a b m s
  | .vnarrowNVv d a b m => Sys2Proof.Machine.execVnarrowNVv d a b m s
  | .vaddVx d a b m => Sys2Proof.Machine.execVaddVx d a b m s
  | .vsubVx d a b m => Sys2Proof.Machine.execVsubVx d a b m s
  | .vrsubVx d a b m => Sys2Proof.Machine.execVrsubVx d a b m s
  | .vmulVx d a b m => Sys2Proof.Machine.execVmulVx d a b m s
  | .vmulhIVx d a b m => Sys2Proof.Machine.execVmulhIVx d a b m s
  | .vmulhNVx d a b m => Sys2Proof.Machine.execVmulhNVx d a b m s
  | .vdivIVx d a b m => Sys2Proof.Machine.execVdivIVx d a b m s
  | .vdivNVx d a b m => Sys2Proof.Machine.execVdivNVx d a b m s
  | .vremIVx d a b m => Sys2Proof.Machine.execVremIVx d a b m s
  | .vremNVx d a b m => Sys2Proof.Machine.execVremNVx d a b m s
  | .vminIVx d a b m => Sys2Proof.Machine.execVminIVx d a b m s
  | .vminNVx d a b m => Sys2Proof.Machine.execVminNVx d a b m s
  | .vmaxIVx d a b m => Sys2Proof.Machine.execVmaxIVx d a b m s
  | .vmaxNVx d a b m => Sys2Proof.Machine.execVmaxNVx d a b m s
  | .vandVx d a b m => Sys2Proof.Machine.execVandVx d a b m s
  | .vorVx d a b m => Sys2Proof.Machine.execVorVx d a b m s
  | .vxorVx d a b m => Sys2Proof.Machine.execVxorVx d a b m s
  | .vsllVx d a b m => Sys2Proof.Machine.execVsllVx d a b m s
  | .vsrlVx d a b m => Sys2Proof.Machine.execVsrlVx d a b m s
  | .vsraVx d a b m => Sys2Proof.Machine.execVsraVx d a b m s
  | .vsaddIVx d a b m => Sys2Proof.Machine.execVsaddIVx d a b m s
  | .vsaddNVx d a b m => Sys2Proof.Machine.execVsaddNVx d a b m s
  | .vssubIVx d a b m => Sys2Proof.Machine.execVssubIVx d a b m s
  | .vssubNVx d a b m => Sys2Proof.Machine.execVssubNVx d a b m s
  | .vavgIVx d a b m => Sys2Proof.Machine.execVavgIVx d a b m s
  | .vavgNVx d a b m => Sys2Proof.Machine.execVavgNVx d a b m s
  | .vwaddIVx d a b m => Sys2Proof.Machine.execVwaddIVx d a b m s
  | .vwaddNVx d a b m => Sys2Proof.Machine.execVwaddNVx d a b m s
  | .vnarrowIVx d a b m => Sys2Proof.Machine.execVnarrowIVx d a b m s
  | .vnarrowNVx d a b m => Sys2Proof.Machine.execVnarrowNVx d a b m s
  | .vaddVi d a imm m => Sys2Proof.Machine.execVaddVi d a imm m s
  | .vrsubVi d a imm m => Sys2Proof.Machine.execVrsubVi d a imm m s
  | .vandVi d a imm m => Sys2Proof.Machine.execVandVi d a imm m s
  | .vorVi d a imm m => Sys2Proof.Machine.execVorVi d a imm m s
  | .vxorVi d a imm m => Sys2Proof.Machine.execVxorVi d a imm m s
  | .vsllVi d a imm m => Sys2Proof.Machine.execVsllVi d a imm m s
  | .vsrlVi d a imm m => Sys2Proof.Machine.execVsrlVi d a imm m s
  | .vsraVi d a imm m => Sys2Proof.Machine.execVsraVi d a imm m s
  | .vsaddIVi d a imm m => Sys2Proof.Machine.execVsaddIVi d a imm m s
  | .vsaddNVi d a imm m => Sys2Proof.Machine.execVsaddNVi d a imm m s
  | .vminIVi d a imm m => Sys2Proof.Machine.execVminIVi d a imm m s
  | .vminNVi d a imm m => Sys2Proof.Machine.execVminNVi d a imm m s
  | .vmaxIVi d a imm m => Sys2Proof.Machine.execVmaxIVi d a imm m s
  | .vmaxNVi d a imm m => Sys2Proof.Machine.execVmaxNVi d a imm m s
  | .vnarrowIVi d a imm m => Sys2Proof.Machine.execVnarrowIVi d a imm m s
  | .vnarrowNVi d a imm m => Sys2Proof.Machine.execVnarrowNVi d a imm m s
  | .vfadd d a b m u => Sys2Proof.Machine.execVfadd d a b m u s
  | .vfsub d a b m u => Sys2Proof.Machine.execVfsub d a b m u s
  | .vfmul d a b m u => Sys2Proof.Machine.execVfmul d a b m u s
  | .vfdiv d a b m u => Sys2Proof.Machine.execVfdiv d a b m u s
  | .vfmacc d a b m u => Sys2Proof.Machine.execVfmacc d a b m u s
  | .vfnmacc d a b m u => Sys2Proof.Machine.execVfnmacc d a b m u s
  | .vfmsac d a b m u => Sys2Proof.Machine.execVfmsac d a b m u s
  | .vfnmsac d a b m u => Sys2Proof.Machine.execVfnmsac d a b m u s
  | .vfmin d a b m u => Sys2Proof.Machine.execVfmin d a b m u s
  | .vfmax d a b m u => Sys2Proof.Machine.execVfmax d a b m u s
  | .vfcopysign d a b m u => Sys2Proof.Machine.execVfcopysign d a b m u s
  | .vfscale d a b m u => Sys2Proof.Machine.execVfscale d a b m u s
  | .vfsqrt d a m u => Sys2Proof.Machine.execVfsqrt d a m u s
  | .vfabs d a m u => Sys2Proof.Machine.execVfabs d a m u s
  | .vfneg d a m u => Sys2Proof.Machine.execVfneg d a m u s
  | .vfcvt d a m u => Sys2Proof.Machine.execVfcvt d a m u s
  | .vfround d a m u => Sys2Proof.Machine.execVfround d a m u s
  | .vfexp2f d a m u => Sys2Proof.Machine.execVfexp2f d a m u s
  | .vfrecip d a m u => Sys2Proof.Machine.execVfrecip d a m u s
  | .vfrsqrt d a m u => Sys2Proof.Machine.execVfrsqrt d a m u s
  | .vfclass d a m u => Sys2Proof.Machine.execVfclass d a m u s
  | .vcmpF c d a b m u => Sys2Proof.Machine.execVcmpF c d a b m u s
  | .vcmpI c d a b m => Sys2Proof.Machine.execVcmpI c d a b m s
  | .vcmpN c d a b m => Sys2Proof.Machine.execVcmpN c d a b m s
  | .mand d a b m => Sys2Proof.Machine.execMand d a b m s
  | .mor d a b m => Sys2Proof.Machine.execMor d a b m s
  | .mxor d a b m => Sys2Proof.Machine.execMxor d a b m s
  | .mandn d a b m => Sys2Proof.Machine.execMandn d a b m s
  | .mpopc d a m => Sys2Proof.Machine.execMpopc d a m s
  | .mfirst d a m => Sys2Proof.Machine.execMfirst d a m s
  | .mset d m => Sys2Proof.Machine.execMset d m s
  | .vcompress d a b => Sys2Proof.Machine.execVcompress d a b s
  | .vexpand d a b => Sys2Proof.Machine.execVexpand d a b s
  | .viota d a m => Sys2Proof.Machine.execViota d a m s
  | .vid d m => Sys2Proof.Machine.execVid d m s
  | .vgather d a b m => Sys2Proof.Machine.execVgather d a b m s
  | .vslideup d a b m => Sys2Proof.Machine.execVslideup d a b m s
  | .vslidedown d a b m => Sys2Proof.Machine.execVslidedown d a b m s
  | .vbcast d b m => Sys2Proof.Machine.execVbcast d b m s
  | .vmvx d a b => Sys2Proof.Machine.execVmvx d a b s
  | .vmvs d b m => Sys2Proof.Machine.execVmvs d b m s
  | .vmv d a m => Sys2Proof.Machine.execVmv d a m s
  | .vmerge d a b m => Sys2Proof.Machine.execVmerge d a b m s
  | .vredsumOF d a m u => Sys2Proof.Machine.execVredsumOF d a m u s
  | .vredsumOI d a m => Sys2Proof.Machine.execVredsumOI d a m s
  | .vredsumON d a m => Sys2Proof.Machine.execVredsumON d a m s
  | .vredsumTF d a m u => Sys2Proof.Machine.execVredsumTF d a m u s
  | .vredsumTI d a m => Sys2Proof.Machine.execVredsumTI d a m s
  | .vredsumTN d a m => Sys2Proof.Machine.execVredsumTN d a m s
  | .vredmaxF d a m u => Sys2Proof.Machine.execVredmaxF d a m u s
  | .vredmaxI d a m => Sys2Proof.Machine.execVredmaxI d a m s
  | .vredmaxN d a m => Sys2Proof.Machine.execVredmaxN d a m s
  | .vredminF d a m u => Sys2Proof.Machine.execVredminF d a m u s
  | .vredminI d a m => Sys2Proof.Machine.execVredminI d a m s
  | .vredminN d a m => Sys2Proof.Machine.execVredminN d a m s
  | .vredandI d a m => Sys2Proof.Machine.execVredandI d a m s
  | .vredandN d a m => Sys2Proof.Machine.execVredandN d a m s
  | .vredorI d a m => Sys2Proof.Machine.execVredorI d a m s
  | .vredorN d a m => Sys2Proof.Machine.execVredorN d a m s
  | .vredxorI d a m => Sys2Proof.Machine.execVredxorI d a m s
  | .vredxorN d a m => Sys2Proof.Machine.execVredxorN d a m s
  | .vbtr d a b m => Sys2Proof.Machine.execVbtr d a b m s
  | .vbtri d a b m => Sys2Proof.Machine.execVbtri d a b m s
  | .vbadd d a b m => Sys2Proof.Machine.execVbadd d a b m s
  | .vbmac d a b m => Sys2Proof.Machine.execVbmac d a b m s
  | .vbcmp d a b m => Sys2Proof.Machine.execVbcmp d a b m s
  | .vbpopc d a b m => Sys2Proof.Machine.execVbpopc d a b m s
  | .vbshl d a b m => Sys2Proof.Machine.execVbshl d a b m s
  | .vbmm d a b m k u => Sys2Proof.Machine.execVbmm d a b m k u s
  | .vbmv d a b m k u => Sys2Proof.Machine.execVbmv d a b m k u s
  | .vld d a m e => Sys2Proof.Machine.execVld d a m e s
  | .vlds d a t m e => Sys2Proof.Machine.execVlds d a t m e s
  | .vldx d a x m e => Sys2Proof.Machine.execVldx d a x m e s
  | .vldff d a m e => Sys2Proof.Machine.execVldff d a m e s
  | .vldp d a t m => Sys2Proof.Machine.execVldp d a t m s
  | .vst d a m e => Sys2Proof.Machine.execVst d a m e s
  | .vsts d a t m e => Sys2Proof.Machine.execVsts d a t m e s
  | .vstx d a x m e => Sys2Proof.Machine.execVstx d a x m e s
  | .vstxu d a x m e => Sys2Proof.Machine.execVstxu d a x m e s
  | .vstu d a m e => Sys2Proof.Machine.execVstu d a m e s
  | .vstp d a t m => Sys2Proof.Machine.execVstp d a t m s
  | .vspill d a => Sys2Proof.Machine.execVspill d a s
  | .vfill d a => Sys2Proof.Machine.execVfill d a s
  | .vamoAdd d a x m c w => Sys2Proof.Machine.execVamoAdd d a x m c w s
  | .vamoFadd d a x m c w => Sys2Proof.Machine.execVamoFadd d a x m c w s
  | .vamoMin d a x m c w => Sys2Proof.Machine.execVamoMin d a x m c w s
  | .vamoMax d a x m c w => Sys2Proof.Machine.execVamoMax d a x m c w s
  | .vamoAnd d a x m c w => Sys2Proof.Machine.execVamoAnd d a x m c w s
  | .vamoOr d a x m c w => Sys2Proof.Machine.execVamoOr d a x m c w s
  | .vamoXor d a x m c w => Sys2Proof.Machine.execVamoXor d a x m c w s
  | .vamoSwap d a x m c w => Sys2Proof.Machine.execVamoSwap d a x m c w s
  | .mmac c a b m u => Sys2Proof.Machine.execMmac c a b m u s
  | .mmacs c a b m u => Sys2Proof.Machine.execMmacs c a b m u s
  | .mzero c m => Sys2Proof.Machine.execMzero c m s
  | .mst c a m => Sys2Proof.Machine.execMst c a m s
  | .mld c a m => Sys2Proof.Machine.execMld c a m s
  | .mattach => Sys2Proof.Machine.execMattach s
  | .mdetach => Sys2Proof.Machine.execMdetach s
  | .fop p d a b m => Sys2Proof.Machine.execFop p d a b m s
  | .fopC p d a b m => Sys2Proof.Machine.execFopC p d a b m s
  | .fbind d a p => Sys2Proof.Machine.execFbind d a p s
  | .funbind p => Sys2Proof.Machine.execFunbind p s
  | .fdrain p => Sys2Proof.Machine.execFdrain p s
  | .convoyDecode => Sys2Proof.Machine.execConvoyDecode s
  | .convoyCommit => Sys2Proof.Machine.execConvoyCommit s
  | .convoyIssue => Sys2Proof.Machine.execConvoyIssue s
  | .convoyRetire => Sys2Proof.Machine.execConvoyRetire s
  | .interruptTake hart => Sys2Proof.Machine.execInterruptTake hart s
  | .storeBufferDrain hart => Sys2Proof.Machine.execStoreBufferDrain hart s
  | .sliceRequest req => Sys2Proof.Machine.execSliceRequest req s
  | .writePerform pa bytes => Sys2Proof.Machine.execWritePerform pa bytes s
  | .futLdApply hart pa d b => Sys2Proof.Machine.execFutLdApply hart pa d b s
  | .futStApply pa data => Sys2Proof.Machine.execFutStApply pa data s
  | .futClrApply pa => Sys2Proof.Machine.execFutClrApply pa s
  | .futCancel hart => Sys2Proof.Machine.execFutCancel hart s
  | .tableWalk hart va => Sys2Proof.Machine.execTableWalk hart va s
  | .combiningEntryRetire core => Sys2Proof.Machine.execCombiningEntryRetire core s
  | .streamRetire core entry => Sys2Proof.Machine.execStreamRetire core entry s
  | .streamHeadland core entry => Sys2Proof.Machine.execStreamHeadland core entry s
  | .exchangeStart hart => Sys2Proof.Machine.execExchangeStart hart s
  | .barrierArrival hart => Sys2Proof.Machine.execBarrierArrival hart s
  | .laneGroupTake hart => Sys2Proof.Machine.execLaneGroupTake hart s
  | .reclaimTimeout hart => Sys2Proof.Machine.execReclaimTimeout hart s
  | .contextResume hart => Sys2Proof.Machine.execContextResume hart s
  | .taskDispatch cluster => Sys2Proof.Machine.execTaskDispatch cluster s
  | .taskCompletion queue tid => Sys2Proof.Machine.execTaskCompletion queue tid s
  | .reuseLookup queue => Sys2Proof.Machine.execReuseLookup queue s
  | .boundLaunch chan => Sys2Proof.Machine.execBoundLaunch chan s
  | .ringRefill queue => Sys2Proof.Machine.execRingRefill queue s
  | .mattachGrant quad => Sys2Proof.Machine.execMattachGrant quad s
  | .fopComplete core slot => Sys2Proof.Machine.execFopComplete core slot s
  | .fopMoreStop core slot => Sys2Proof.Machine.execFopMoreStop core slot s
  | .fopFault core slot => Sys2Proof.Machine.execFopFault core slot s
  | .fabricDrainTimeout core slot => Sys2Proof.Machine.execFabricDrainTimeout core slot s
  | .collectiveRoundSend die ctx => Sys2Proof.Machine.execCollectiveRoundSend die ctx s
  | .reducerForward die ctx => Sys2Proof.Machine.execReducerForward die ctx s
  | .roundFlit port flit => Sys2Proof.Machine.execRoundFlit port flit s
  | .exponentsFlit port flit => Sys2Proof.Machine.execExponentsFlit port flit s
  | .endFlit port flit => Sys2Proof.Machine.execEndFlit port flit s
  | .cancelFlit port flit => Sys2Proof.Machine.execCancelFlit port flit s
  | .replayRequest port flit => Sys2Proof.Machine.execReplayRequest port flit s
  | .replayLimit port => Sys2Proof.Machine.execReplayLimit port s
  | .retrainTimeout port => Sys2Proof.Machine.execRetrainTimeout port s
  | .ingressRaise chan value => Sys2Proof.Machine.execIngressRaise chan value s
  | .egressPop chan => Sys2Proof.Machine.execEgressPop chan s
  | .lfaultClear chan => Sys2Proof.Machine.execLfaultClear chan s
  | .skip chan => Sys2Proof.Machine.execSkip chan s
  | .gangWordWrite cluster h value => Sys2Proof.Machine.execGangWordWrite cluster h value s
  | .qctlResume queue => Sys2Proof.Machine.execQctlResume queue s
  | .displace cluster cmd => Sys2Proof.Machine.execDisplace cluster cmd s
  | .hold cluster cmd => Sys2Proof.Machine.execHold cluster cmd s
  | .resume cluster cmd => Sys2Proof.Machine.execResume cluster cmd s
  | .free cluster cmd => Sys2Proof.Machine.execFree cluster cmd s
  | .adopt cluster cmd => Sys2Proof.Machine.execAdopt cluster cmd s
  | .rsaltCommit value => Sys2Proof.Machine.execRsaltCommit value s
  | .rflush value => Sys2Proof.Machine.execRflush value s
  | .rctlWrite value => Sys2Proof.Machine.execRctlWrite value s
  | .registerWrite pa value => Sys2Proof.Machine.execRegisterWrite pa value s
  | .ringSetup msg toCore toHost hext => Sys2Proof.Machine.execRingSetup msg toCore toHost hext s
  | .start msg harts entry => Sys2Proof.Machine.execStart msg harts entry s
  | .place msg ngi len mask dst dstLen => Sys2Proof.Machine.execPlace msg ngi len mask dst dstLen s
  | .nodemap msg node nodeSet poolSet reach => Sys2Proof.Machine.execNodemap msg node nodeSet poolSet reach s
  | .debugHalt msg hart => Sys2Proof.Machine.execDebugHalt msg hart s
  | .debugRelease msg hart => Sys2Proof.Machine.execDebugRelease msg hart s
  | .haltOnBreak msg hart on => Sys2Proof.Machine.execHaltOnBreak msg hart on s
  | .attest msg nonce => Sys2Proof.Machine.execAttest msg nonce s
  | .reset msg => Sys2Proof.Machine.execReset msg s
  | .dumprel msg => Sys2Proof.Machine.execDumprel msg s
  | .resync msg => Sys2Proof.Machine.execResync msg s
  | .coldStart => Sys2Proof.Machine.execColdStart s
  | .fatalStop cause => Sys2Proof.Machine.execFatalStop cause s
  | .watchdogExpiry => Sys2Proof.Machine.execWatchdogExpiry s
  | .throttleStep => Sys2Proof.Machine.execThrottleStep s
  | .thermalStop => Sys2Proof.Machine.execThermalStop s
  | .eventReport source => Sys2Proof.Machine.execEventReport source s
  | .patrolScrub => Sys2Proof.Machine.execPatrolScrub s
  | .laneRetire core lane => Sys2Proof.Machine.execLaneRetire core lane s
  | .coreRetire core => Sys2Proof.Machine.execCoreRetire core s
  | .droppedFlit port flit => Sys2Proof.Machine.execDroppedFlit port flit s
  | .portRetrained port => Sys2Proof.Machine.execPortRetrained port s
  | .waitSpuriousEnd hart => Sys2Proof.Machine.execWaitSpuriousEnd hart s
  | .otherTypeMessage msg type => Sys2Proof.Machine.execOtherTypeMessage msg type s

end Sys2Proof.Machine
end

