-- ==== Sys2Proof/Machine/Step.lean ====
section
/-! DEFINITION. One step of the machine, and an instruction placed where the next step fetches. -/

namespace Sys2Proof.Machine

/-- One step: an input that has come, else the current hart (R360, R403; log 1, log 9). Noncomputable as `decode` is. -/
noncomputable def step (s : State) : Host.Outcome State Fault Refusal := stepWith (runWord exec) exec takeInput s

/-- The state with the word of nbits bits, and zeros after it, as the convoy that the next step of the current hart fetches
(log 2): at its program counter when its next step is a fetch, else after a start of the hart. -/
def State.withFetchWord (s : State) (nbits w : Nat) : State :=
  match fetchPlace s with
  | some pa => placeWord pa nbits w s
  | none => placeWord 0x10000 nbits w (placeStart s)

end Sys2Proof.Machine
end

