-- ==== Sys2Proof/Safety.lean ====
section
/-! DEFINITION. The terms that claims use: when a slot runs undisturbed, what it may change, and the invariants of a safe
run. -/

namespace Sys2Proof.Machine

/-! Scalar slots -/

/-- None of the registers carries a poison mark (R39). -/
def Clean (s : State) (rs : List (BitVec 5)) : Prop := ∀ r ∈ rs, markS s r = 0

/-- Every byte of memory reads as before. -/
def SameMem (s t : State) : Prop := ∀ a, getByte t a = getByte s a

/-- Every byte of memory outside [pa, pa + n) reads as before. -/
def SameMemBut (pa n : Nat) (s t : State) : Prop := ∀ a, (a < pa ∨ pa + n ≤ a) → getByte t a = getByte s a

/-- Nothing of the state differs but the registers in ds. -/
def OnlyRegs (ds : List (BitVec 5)) (s t : State) : Prop :=
  t = { s with hart := { s.hart with sregs := t.hart.sregs, spois := t.hart.spois } } ∧
    ∀ r : BitVec 5, r ∉ ds → getS t r = getS s r ∧ markS t r = markS s r

/-- The handler's entry (R182, R404): the saved registers, the status and the program counter as given; every general,
vector and mask register, every byte of memory and all else that no trap names stays, but for what the hart gives up with its
convoys (dropHeld): a lane negotiation that has not completed, rows that came for a `mattach` that has not, copy-queue entries
of streams that have not retired, and a DISPLACE that was bringing it to rest. -/
structure EntersHandler (c v e : Word) (s t : State) : Prop where
  cause : t.hart.cause = c
  tval : t.hart.tval = v
  epc : t.hart.epc = e
  pc : t.hart.pc = s.hart.tvec &&& 0xFFFFFFFFFFFFFFF0
  pie : wbit t.hart.hstat 4 = wbit s.hart.hstat 2
  psup : wbit t.hart.hstat 3 = wbit s.hart.hstat 0
  ie : wbit t.hart.hstat 2 = false
  sup : wbit t.hart.hstat 0 = true
  status : t.hart.status = .running
  saved : t.hart.saved = s.hart.cv ∨ t.hart.saved = {}
  calm : s.hart.neg = none → s.hart.granted = false → t.hart = { s.hart with
    cause := t.hart.cause, tval := t.hart.tval, epc := t.hart.epc, pc := t.hart.pc, hstat := t.hart.hstat
    status := .running, cv := {}, iss := {}, smq := s.hart.smq ++ s.hart.mq.map (MqEntry.under s.hart), mq := [], answer := none
    vwait := none, vanswer := none, frozenAt := t.hart.frozenAt
    saved := t.hart.saved, shadow := t.hart.shadow, vq := t.hart.vq, vqpos := t.hart.vqpos, prog := t.hart.prog
    cells := t.hart.cells }
  frame : t = { dropHeld s with hart := { (dropHeld s).hart with
    cause := t.hart.cause, tval := t.hart.tval, epc := t.hart.epc, pc := t.hart.pc, hstat := t.hart.hstat
    status := .running, cv := {}, iss := {}, neg := none, smq := s.hart.smq ++ s.hart.mq.map (MqEntry.under s.hart), mq := []
    answer := none, vwait := none, vanswer := none, frozenAt := t.hart.frozenAt
    saved := t.hart.saved, shadow := t.hart.shadow, vq := t.hart.vq, vqpos := t.hart.vqpos, prog := t.hart.prog
    cells := t.hart.cells } }

/-- No double trap threatens (R408): the shadow VQ is empty, or the live one is. -/
def TrapRoom (s : State) : Prop := s.hart.shadow = [] ∨ s.hart.vq = []

/-- The address of the convoy in hand. -/
def convoyAddr (s : State) : Word := s.hart.pc &&& 0xFFFFFFFFFFFFFFF0

/-- The next convoy's address becomes a. -/
def NextConvoy (a : Word) (s t : State) : Prop :=
  t = { s with hart := { s.hart with cv := { s.hart.cv with npc := a } } }

/-! Scalar accesses -/

/-- The place l has taken the low n bytes of v, lowest first (R4): the bytes of memory or of the local window, and every
other byte of memory reads as before. -/
def Stored (l : Loc) (n v : Nat) (s t : State) : Prop :=
  match l with
  | .pa a => (∀ i, i < n → getByte t (a + i) = BitVec.ofNat 8 (v / 256 ^ i)) ∧ SameMemBut a n s t
  | .tile o =>
    (∀ i, i < n → Tab.get 0 t.tiles (tileKey (myCore s) (o + i)) = BitVec.ofNat 8 (v / 256 ^ i)) ∧ SameMem s t

/-- What a scalar access of n bytes at va, on a page of type mt, a write when wr, finds once its checks (R165) have passed at l:
earlier streams that conflict have ended (R72), earlier accesses to pages of its type have gone on as far as they can (R28),
combined atomics on its bytes have retired (R230), and a purity violation has demoted the task (R376). -/
def accessState (va : Word) (viol : Bool) (l : Loc) (mt n : Nat) (wr : Bool) (s : State) : State :=
  noteViolation viol (accessFirst mt va n l wr (resumeHere s))

/-- A scalar access of n bytes at va passes its checks at l, a page of type mt, and waits for no stream and no convoy (R47, R72),
and for no earlier access to a page of MT = 1 or 2 (R28); where it reads past the L2, no pool byte there differs (R336). -/
structure ScalarAccess (need : Need) (va : Word) (n : Nat) (l : Loc) (mt : Nat) (viol : Bool) (s : State) : Prop where
  checks : check s va n need = .ok l mt viol
  free : scalarHolds s va n l need.wr = false
  turn : deviceWaits need mt s = false
  near : mt = 0 ∨ need.wr = true ∨ (accessState va viol l mt n need.wr s).far = []

/-- The store buffer with a place for one more store: where 32 stand there, the oldest has performed (R45). -/
def bufferTurn (s : State) : State := if 32 ≤ s.hart.storeBuf.length then drainOne s else s

/-- A store of the low n bytes of v at l has entered the store buffer behind the hart's earlier ones, and nothing else has happened
but what made place for it. dev: it is one to a page of MT = 1 or 2; k: it is a release that waits (R172). -/
def Buffered (l : Loc) (n v : Nat) (dev : Bool) (k : Option Nat) (s t : State) : Prop :=
  let u := bufferTurn s
  t = { u with hart := { u.hart with
    storeBuf := u.hart.storeBuf ++ [{ loc := l, n := n, val := v % 2 ^ (8 * n), seq := k, made := u.order, dev := dev }] } }

/-- What a release waits for has gone on as far as it can: earlier stores and atomics have performed, streams have sent their
headlands (R172, R342). -/
def releaseState (s : State) : State := performNow s

/-- The time that a store bears when it enters the store buffer, and the state in which it does: a release store that what the hart
did before is not over for waits there for it (R172). -/
def storeTime (rl : Bool) (s : State) : Option Nat × State :=
  let p := releaseState s
  if rl = false then (none, s)
  else if unperformed p then (some p.order, { p with order := p.order + 1 })
  else (none, p)

/-- What `fence` leaves of the accesses of these kinds (R203): bit 0 loads, 1 stores, 2 streams. -/
def fencedState (kinds : Nat) (s : State) : State :=
  let s1 := if nbit kinds 1 then drainStores s else s
  let s2 := if nbit kinds 0 || nbit kinds 1 then combFlush (myCore s1) (fun _ => true) s1 else s1
  if nbit kinds 2 then sendAll s2.hn s2 else s2

/-! Slots of the vector side -/

/-- The vector side issues a slot of the convoy at the head (R364), and nothing has stopped the convoy so far. -/
structure Issuing (s : State) : Prop where
  able : s.stop = none
  group : s.hart.iss.group = true
  early : s.hart.iss.early = none
  wait : s.hart.iss.wait = none
  halted : s.hart.iss.halted = none
  mq : s.hart.iss.mqFault = none
  bound : s.hart.iss.bound = none
  fault : s.hart.iss.fault = none
  sighted : s.hart.iss.blind = false

/-- The hart may run vector arithmetic: it holds lanes, so that VLMAX is at least one lane word (R106), and `vtype` is one
that R112 supports. -/
structure VectorReady (s : State) : Prop extends Issuing s where
  lanes : 64 ≤ s.hart.vlmax
  vill : s.hart.vill = false
  vtype : vtypeOk s.hart.vtype.toNat = true

/-- Nothing of the state differs but vector registers, their poison, progress indices, `vstart` and what the convoy at the
head notes of itself. -/
def VecOnly (s t : State) : Prop :=
  t = { s with hart := { s.hart with
    vregs := t.hart.vregs, vpois := t.hart.vpois, prog := t.hart.prog, vstart := t.hart.vstart, iss := t.hart.iss } }

/-- The same, but for mask registers in place of vector registers. -/
def MaskOnly (s t : State) : Prop :=
  t = { s with hart := { s.hart with
    mregs := t.hart.mregs, mpois := t.hart.mpois, prog := t.hart.prog, vstart := t.hart.vstart, iss := t.hart.iss } }

/-- The slot has written val to the active elements of group d, elements of w bits under mask m (R163): the others keep
their values, and so does every register that holds none of them. -/
structure WroteGroup (m d w : Nat) (val : Nat → Nat) (s t : State) : Prop where
  frame : VecOnly s t
  issuing : Issuing t
  vstart : t.hart.vstart = 0
  active : ∀ i, firstElem s ≤ i → i < vlN s → i < s.hart.maxVl → governs s m i = true → elem t d i w = val i % 2 ^ w
  kept : ∀ i, (i < firstElem s ∨ vlN s ≤ i ∨ governs s m i = false) → elem t d i w = elem s d i w
  others : ∀ k, (∀ i, i < vlN s → k ≠ d + i * w / s.hart.vlmax) → getV t k = getV s k

/-- The slot has written val to the active bits of mask register d under mask m. -/
structure WroteMask (m d : Nat) (val : Nat → Bool) (s t : State) : Prop where
  frame : MaskOnly s t
  issuing : Issuing t
  vstart : t.hart.vstart = 0
  active : ∀ i, firstElem s ≤ i → i < vlN s → i < 8192 → governs s m i = true → maskBit t d i = val i
  kept : ∀ i, (i < firstElem s ∨ vlN s ≤ i ∨ governs s m i = false) → maskBit t d i = maskBit s d i
  others : ∀ k, k ≠ d → getM t k = getM s k

/-- The slot has written val to the elements of w bits of group d at which it acts, here, and to no other. -/
structure WroteAt (d w : Nat) (here : Nat → Prop) (val : Nat → Nat) (s t : State) : Prop where
  frame : VecOnly s t
  issuing : Issuing t
  vstart : t.hart.vstart = 0
  active : ∀ i, here i → i < s.hart.maxVl → elem t d i w = val i % 2 ^ w
  kept : ∀ i, ¬ here i → elem t d i w = elem s d i w
  others : ∀ k, (∀ i, here i → k ≠ d + i * w / s.hart.vlmax) → getV t k = getV s k

/-- The slot has written val to the bits of mask register d at which it acts, here, and to no other. -/
structure WroteBits (d : Nat) (here : Nat → Prop) (val : Nat → Bool) (s t : State) : Prop where
  frame : MaskOnly s t
  issuing : Issuing t
  vstart : t.hart.vstart = 0
  active : ∀ i, here i → i < 8192 → maskBit t d i = val i
  kept : ∀ i, ¬ here i → maskBit t d i = maskBit s d i
  others : ∀ k, k ≠ d → getM t k = getM s k

/-- The slot has written val to the elements of n planes from register d at which it acts, here: bit k of val i to the
bit i of register d + k. -/
structure WrotePlanes (d n : Nat) (here : Nat → Prop) (val : Nat → Int) (s t : State) : Prop where
  frame : VecOnly s t
  issuing : Issuing t
  vstart : t.hart.vstart = 0
  active : ∀ i k, here i → k < n → elem t (d + k) i 1 = (val i / 2 ^ k % 2).toNat
  kept : ∀ i k, ¬ here i → i < s.hart.vlmax → k < n → elem t (d + k) i 1 = elem s (d + k) i 1
  others : ∀ k, (k < d ∨ d + n ≤ k) → getV t k = getV s k

/-- A slot with a whole result has written x to element 0 of vd, of w bits, and nothing else (R235, R250). -/
structure WroteFirst (d w x : Nat) (s t : State) : Prop where
  frame : VecOnly s t
  issuing : Issuing t
  vstart : t.hart.vstart = 0
  first : elem t d 0 w = x % 2 ^ w
  kept : ∀ i, i ≠ 0 → elem t d i w = elem s d i w
  others : ∀ k, k ≠ d → getV t k = getV s k

/-- A slot with a whole result hands x to the RQ or the BQ, clears `vstart`, and changes nothing else (R180, R235, R363). -/
structure GaveWhole (x : Deliver) (s t : State) : Prop where
  frame : t = { s with hart := { s.hart with prog := t.hart.prog, vstart := 0, iss := t.hart.iss } }
  issuing : Issuing t
  whole : t.hart.iss.whole = s.hart.iss.whole ++ [(s.hart.iss.act.slot, x)]

/-- The elements of [first, vl) that mask m governs (R163). -/
def ActsOn (m : Nat) (s : State) (i : Nat) : Prop := firstElem s ≤ i ∧ i < vlN s ∧ governs s m i = true

/-- A destination group d of elements of wd bits and sources (v, wv) lie as R232, R233 and R76 allow, and no earlier slot
of the convoy writes a register of the destination (R153). -/
structure GroupsOk (s : State) (d wd : Nat) (srcs : List (Nat × Nat)) : Prop where
  dst : dstOk s d wd = true
  src : ∀ x ∈ srcs, srcOk s x.1 x.2 = true
  apart : ∀ x ∈ srcs, overlapOk s d wd x.1 x.2 = true ∧ overlapOk s d wd (ringSrc s x.1) x.2 = true
  fresh : ∀ e ∈ s.hart.iss.dests, overlaps d (extent s wd) e.1 e.2 = false

/-! Vector accesses to memory -/

/-- The byte at a place. -/
def placeByte (s : State) : Loc → Byte
  | .pa a => getByte s a
  | .tile o => Tab.get 0 s.tiles (tileKey (myCore s) o)

/-- The byte at x is one of the n bytes from l. -/
def Covers (l : Loc) (n : Nat) (x : Loc) : Prop :=
  match l, x with
  | .pa a, .pa y => a ≤ y ∧ y < a + n
  | .tile o, .tile y => o ≤ y ∧ y < o + n
  | _, _ => False

/-- How far x lies above l. -/
def distance (l x : Loc) : Nat :=
  match l, x with
  | .pa a, .pa y => y - a
  | .tile o, .tile y => y - o
  | _, _ => 0

/-- Nothing of the hart or its core stands between a vector access and memory: no combined atomic, no stream that is not
over, no buffered store, and no byte of another device's that the L2 hides (R336). -/
structure Quiet (s : State) : Prop where
  combined : (getCore s (myCore s)).comb = []
  streams : myStreams s = []
  buffer : s.hart.storeBuf = []
  near : s.far = []

/-- The slot in hand has translated no page yet (R32): what one before it has translated is not its own. -/
def freshPages (s : State) : State := updIss (fun i => { i with win := 0, pages := [] }) s

/-- The checks of R165 for n bytes at each address that the slot accesses pass, at the places loc. -/
def LoadsAt (here : Nat → Prop) (need : Need) (n : Nat) (addr : Nat → Word) (loc : Nat → Loc) (s : State) : Prop :=
  ∀ i, here i → ∃ mt, check (freshPages s) (addr i) n need = .ok (loc i) mt false

/-- What a store may change: bytes of memory and tiles, their poison and the requests deferred on it (R53), what the device
derives from such bytes, lines of the scalar data caches, and what the convoy notes of itself. -/
structure StoreFrame (s t : State) : Prop where
  only : t = { s with
    mem := t.mem, far := t.far, tiles := t.tiles, linePois := t.linePois, tilePois := t.tilePois, colls := t.colls
    reuse := t.reuse, tasks := t.tasks, queues := t.queues, free := t.free, cores := t.cores, deferred := t.deferred
    parked := t.parked
    hart := { s.hart with
      prog := t.hart.prog, vstart := t.hart.vstart, iss := t.hart.iss, status := t.hart.status, answer := t.hart.answer } }
  near : s.far = [] → t.far = []
  cores : ∀ c, { getCore t c with dcache := [] } = { getCore s c with dcache := [] }
  calm : s.deferred = [] →
    t.deferred = [] ∧ t.parked = s.parked ∧ t.hart.status = s.hart.status ∧ t.hart.answer = s.hart.answer

/-- t is s but for the n bytes at each place loc i, their lines' poison, and what follows from them. -/
structure StoredOver (here : Nat → Prop) (n : Nat) (loc : Nat → Loc) (s t : State) : Prop where
  frame : StoreFrame s t
  bytes : ∀ x, (∀ i, here i → ¬ Covers (loc i) n x) → placeByte t x = placeByte s x
  lines : ∀ k, (∀ i a, here i → loc i = .pa a → k ≠ a / 128) → Tab.get false t.linePois k = Tab.get false s.linePois k
  record : (boundTask t).map (fun x => x.rc.bytes) = (boundTask s).map (fun x => x.rc.bytes)

/-- The checks pass, and go on passing whatever the slot's own stores leave at their places. -/
def StoresAt (here : Nat → Prop) (need : Need) (n : Nat) (addr : Nat → Word) (loc : Nat → Loc) (s : State) : Prop :=
  ∀ i, here i → ∀ u, StoredOver here n loc s u → ∃ mt, check (freshPages u) (addr i) n need = .ok (loc i) mt false

/-- The same of an access that reads too, while nothing becomes poisoned. -/
def UpdatesAt (here : Nat → Prop) (need : Need) (n : Nat) (addr : Nat → Word) (loc : Nat → Loc) (s : State) : Prop :=
  ∀ i, here i → ∀ u, StoredOver here n loc s u → u.linePois = s.linePois → u.tilePois = s.tilePois →
    ∃ mt, check (freshPages u) (addr i) n need = .ok (loc i) mt false

/-- The store has put the n bytes of val i at each place loc i. In order: of several elements that cover one byte the highest
stands there (R217). In no order: one of them (R218). -/
structure StoredElems (ordered : Bool) (here : Nat → Prop) (n : Nat) (loc : Nat → Loc) (val : Nat → Nat) (s t : State) : Prop
    extends StoredOver here n loc s t where
  issuing : Issuing t
  sole : ∀ i x, here i → Covers (loc i) n x →
    (∀ j, here j → (if ordered then i < j else i ≠ j) → ¬ Covers (loc j) n x) →
    placeByte t x = BitVec.ofNat 8 (val i / 256 ^ distance (loc i) x)
  some : ∀ i x, here i → Covers (loc i) n x →
    ∃ j, here j ∧ Covers (loc j) n x ∧ placeByte t x = BitVec.ofNat 8 (val j / 256 ^ distance (loc j) x)

/-- A fault of the slot in hand at element k is what the convoy will trap with (R403), and nothing but the elements below k
has been written to group d. -/
structure FaultedAt (k c : Nat) (va : Word) (d w : Nat) (here : Nat → Prop) (val : Nat → Nat) (s t : State) : Prop where
  frame : t = { s with hart := { s.hart with
    vregs := t.hart.vregs, vpois := t.hart.vpois, prog := t.hart.prog, iss := t.hart.iss } }
  fault : t.hart.iss.fault = some { slot := s.hart.iss.act.slot, elem := k, cause := c, tval := va }
  bound : t.hart.iss.bound = some k
  active : ∀ i, here i → i < k → i < s.hart.maxVl → elem t d i w = val i % 2 ^ w
  kept : ∀ i, (¬ here i ∨ k ≤ i) → elem t d i w = elem s d i w

/-! Matrix instructions -/

/-- A matrix instruction's rows, columns and first column (R270) stay within the attachment, the accumulators and VLMAX. -/
structure ShapeOk (s : State) : Prop where
  attached : 0 < s.hart.rows ∧ s.hart.rows ≤ 48
  rows : wfld s.hart.iss.act.mshape 0 6 ≤ s.hart.rows ∧ wfld s.hart.iss.act.mshape 0 6 % 12 = 0
  cols : shapeCol0 s.hart + shapeCols s.hart ≤ 1024 ∧ 32 * shapeCols s.hart ≤ s.hart.vlmax

/-- The slot has written val r c to column A0 + c of each active row r of accumulator k, for c below N, and nothing else. -/
structure WroteAcc (k : Nat) (rowActs : Nat → Prop) (val : Nat → Nat → Nat) (s t : State) : Prop where
  frame : t = { s with hart := { s.hart with
    acc := t.hart.acc, accPois := t.hart.accPois, prog := t.hart.prog, iss := t.hart.iss } }
  issuing : Issuing t
  active : ∀ r c, r < shapeRows s.hart → rowActs r → c < shapeCols s.hart →
    accElem t.hart k r (shapeCol0 s.hart + c) = val r c % 2 ^ 32
  kept : ∀ j r c, r < 48 → c < 1024 →
    (j ≠ k ∨ shapeRows s.hart ≤ r ∨ ¬ rowActs r ∨ c < shapeCol0 s.hart ∨ shapeCol0 s.hart + shapeCols s.hart ≤ c) →
    accElem t.hart j r c = accElem s.hart j r c

/-- The hart's lane grant is what a request of req groups asks for (R365): it negotiates for nothing, nobody has marked its
groups, it owns as many as it wants, and they hold at least 4 active lanes (R107). -/
structure GrantStands (req : Nat) (s : State) : Prop where
  calm : s.hart.neg = none
  unmarked : ∀ g ∈ ownedList s s.hn, marked s (coreOf s.hn) g = false
  owned : (ownedList s s.hn).length = wantOf s s.hn req
  lanes : 4 ≤ lanesOwned s s.hn

/-- The end of `vsetvl`, `vsetvli` and `gsetvl` (R210): the type ty, ill-formed when bad or unsupported (R112); M lanes; the
smaller of avl (none: s0 was named) and the largest `vl` in `vl` and, on retirement, in sd; `vstart` zero; the vector
registers cleared when M changes (R108). -/
structure SetLength (ty : Nat) (bad : Bool) (avl : Option Nat) (d lanes : Nat) (s t : State) : Prop where
  issuing : Issuing t
  vtype : t.hart.vtype = word (ty % 32) ||| (if bad || !vtypeOk ty then 0x8000000000000000 else 0)
  lanemod : t.hart.lanemod = lanes
  vl : t.hart.vl.toNat =
    if bad || !vtypeOk ty then 0
    else min (avl.getD (maxVl (vlmaxOf lanes s.hart.vnreg) ty)) (maxVl (vlmaxOf lanes s.hart.vnreg) ty)
  vstart : t.hart.vstart = 0
  result : t.hart.iss.results = s.hart.iss.results ++ [.reg d (word t.hart.vl.toNat) 0]
  kept : lanes = s.hart.lanemod → t.hart.vregs = s.hart.vregs ∧ t.hart.mregs = s.hart.mregs
  cleared : lanes ≠ s.hart.lanemod → t.hart.vregs = [] ∧ t.hart.mregs = []
  sregs : t.hart.sregs = s.hart.sregs
  memory : SameMem s t

end Sys2Proof.Machine
end

