-- ==== Sys2Proof/Certificates/Slice0/Obligations.lean ====
section
/-! DEFINITION. What is claimed of the model, for the provers: one `def Obligations.<Name>` each, with the tables of
instructions that a statement ranges over. -/

namespace Sys2Proof.Claims

open Sys2Proof.Machine

/-! Scalar arithmetic (R164, R167 to R169) -/

/-- The result of R167 and R168 for two registers. -/
def regOps : List ((BitVec 5 → BitVec 5 → BitVec 5 → Instr) × (Word → Word → Word)) :=
  [(.add, fun a b => wordI (a.toInt + b.toInt)),
   (.sub, fun a b => wordI (a.toInt - b.toInt)),
   (.and, fun a b => a &&& b),
   (.or, fun a b => a ||| b),
   (.xor, fun a b => a ^^^ b),
   (.sll, fun a b => word (a.toNat * 2 ^ (b.toNat % 64))),
   (.srl, fun a b => word (a.toNat / 2 ^ (b.toNat % 64))),
   (.sra, fun a b => wordI (a.toInt / 2 ^ (b.toNat % 64))),
   (.min, fun a b => wordI (min a.toInt b.toInt)),
   (.max, fun a b => wordI (max a.toInt b.toInt)),
   (.minn, fun a b => word (min a.toNat b.toNat)),
   (.maxn, fun a b => word (max a.toNat b.toNat)),
   (.slt, fun a b => if a.toInt < b.toInt then 1 else 0),
   (.sltn, fun a b => if a.toNat < b.toNat then 1 else 0),
   (.mul, fun a b => wordI (a.toInt * b.toInt)),
   (.mulh, fun a b => wordI (a.toInt * b.toInt / 2 ^ 64)),
   (.mulhn, fun a b => word (a.toNat * b.toNat / 2 ^ 64)),
   (.div, fun a b => if b = 0 then wordI (-1) else wordI (a.toInt.tdiv b.toInt)),
   (.divn, fun a b => if b = 0 then 0xFFFFFFFFFFFFFFFF else word (a.toNat / b.toNat)),
   (.rem, fun a b => if b = 0 then a else wordI (a.toInt - b.toInt * a.toInt.tdiv b.toInt)),
   (.remn, fun a b => if b = 0 then a else word (a.toNat % b.toNat))]

/-- The result of R167 for one register. -/
def bitOps : List ((BitVec 5 → BitVec 5 → Instr) × (Word → Word)) :=
  [(.clz, fun a => word ((List.range 64).takeWhile (fun i => !a.getLsbD (63 - i))).length),
   (.ctz, fun a => word ((List.range 64).takeWhile (fun i => !a.getLsbD i)).length),
   (.popc, fun a => word ((List.range 64).filter (fun i => a.getLsbD i)).length),
   (.bswap, fun a => word ((List.range 8).map (fun i => a.toNat / 2 ^ (8 * i) % 256 * 2 ^ (8 * (7 - i)))).sum)]

/-- The result of R167 for a register and a 16-bit immediate: sign-extended, but for `andi`, `ori` and `xori`. -/
def immOps : List ((BitVec 5 → BitVec 5 → BitVec 16 → Instr) × (Word → BitVec 16 → Word)) :=
  [(.addi, fun a i => wordI (a.toInt + i.toInt)),
   (.andi, fun a i => a &&& word i.toNat),
   (.ori, fun a i => a ||| word i.toNat),
   (.xori, fun a i => a ^^^ word i.toNat),
   (.slti, fun a i => if a.toInt < i.toInt then 1 else 0),
   (.sltni, fun a i => if a.toNat < (wordI i.toInt).toNat then 1 else 0)]

/-- The result of R167 for a shift by an immediate. -/
def shiftOps : List ((BitVec 5 → BitVec 5 → BitVec 6 → Instr) × (Word → BitVec 6 → Word)) :=
  [(.slli, fun a h => word (a.toNat * 2 ^ h.toNat)),
   (.srli, fun a h => word (a.toNat / 2 ^ h.toNat)),
   (.srai, fun a h => wordI (a.toInt / 2 ^ h.toNat))]

/-- The operations of major 0x02 in the order of their fn codes (R168). -/
def mulOps : List (BitVec 5 → BitVec 5 → BitVec 5 → Instr) := [.mul, .mulh, .mulhn, .div, .divn, .rem, .remn]

end Sys2Proof.Claims

open Sys2Proof Sys2Proof.Machine Sys2Proof.Claims

/-- R164, R167 to R169: a scalar arithmetic instruction writes its result to sd and does nothing else; a write to s0 is
discarded (setS); its operands carry no poison mark (R39). In order: the register forms, `sel`, the bit counts and the byte
reversal, the immediate forms, the immediate shifts, `ldhi`, `adrc`, the borderline cases of division as R168's table
prints them, and the codes of major 0x02: seven operations, and the rest reserved. -/
def Obligations.ScalarArithmetic : Prop :=
  (∀ x ∈ regOps, ∀ (d a b : BitVec 5) (s : State), s.stop = none → Clean s [a, b] →
      exec (x.1 d a b) s = .next (setS d (x.2 (getS s a) (getS s b)) s)) ∧
  (∀ (d a b : BitVec 5) (s : State), s.stop = none → Clean s [d, a, b] →
    exec (.sel d a b) s = .next (setS d (if getS s d = 0 then getS s b else getS s a) s)) ∧
  (∀ x ∈ bitOps, ∀ (d a : BitVec 5) (s : State), s.stop = none → Clean s [a] →
    exec (x.1 d a) s = .next (setS d (x.2 (getS s a)) s)) ∧
  (∀ x ∈ immOps, ∀ (d a : BitVec 5) (i : BitVec 16) (s : State), s.stop = none → Clean s [a] →
    exec (x.1 d a i) s = .next (setS d (x.2 (getS s a) i) s)) ∧
  (∀ x ∈ shiftOps, ∀ (d a : BitVec 5) (h : BitVec 6) (s : State), s.stop = none → Clean s [a] →
    exec (x.1 d a h) s = .next (setS d (x.2 (getS s a) h) s)) ∧
  (∀ (d : BitVec 5) (i : BitVec 20) (s : State), s.stop = none →
    exec (.ldhi d i) s = .next (setS d (wordI (i.toInt * 2 ^ 16)) s)) ∧
  (∀ (d : BitVec 5) (o : BitVec 20) (s : State), s.stop = none →
    exec (.adrc d o) s = .next (setS d (wordI ((s.hart.pc.toNat / 16 * 16 : Nat) + 16 * o.toInt)) s)) ∧
  (∀ (d a b : BitVec 5) (s : State), s.stop = none → Clean s [a, b] →
      (getS s b = 0 →
        exec (.div d a b) s = .next (setS d (wordI (-1)) s) ∧
        exec (.divn d a b) s = .next (setS d 0xFFFFFFFFFFFFFFFF s) ∧
        exec (.rem d a b) s = .next (setS d (getS s a) s) ∧
        exec (.remn d a b) s = .next (setS d (getS s a) s)) ∧
      (getS s a = wordI (-2 ^ 63) → getS s b = wordI (-1) →
        exec (.div d a b) s = .next (setS d (wordI (-2 ^ 63)) s) ∧
        exec (.rem d a b) s = .next (setS d 0 s)) ∧
      (getS s a = 7 → getS s b = wordI (-2) →
        exec (.div d a b) s = .next (setS d (wordI (-3)) s) ∧
        exec (.divn d a b) s = .next (setS d 0 s) ∧
        exec (.rem d a b) s = .next (setS d 1 s) ∧
        exec (.remn d a b) s = .next (setS d 7 s)) ∧
      (getS s a = wordI (-7) → getS s b = 2 →
        exec (.div d a b) s = .next (setS d (wordI (-3)) s) ∧
        exec (.divn d a b) s = .next (setS d 0x7FFFFFFFFFFFFFFC s) ∧
        exec (.rem d a b) s = .next (setS d (wordI (-1)) s) ∧
        exec (.remn d a b) s = .next (setS d 1 s))) ∧
  (∀ x ∈ mulOps.zipIdx, ∀ d a b : BitVec 5,
    Sys2Proof.decode (0b000010#6 ++ d ++ a ++ b ++ BitVec.ofNat 11 x.2) = .ok (x.1 d a b)) ∧
  (∀ (w : BitVec 32) (i : Instr), w.toNat / 2 ^ 26 = 2 → 7 ≤ w.toNat % 2 ^ 11 → Sys2Proof.decode w ≠ .ok i)

/-- R104, R164: what a written register reads as, that s0 reads as zero whatever is written, and that a write changes one
register and its poison mark and nothing else: the frame of every instruction whose next state is setS d v s. -/
def Obligations.RegisterWriteReadsBack : Prop :=
  ∀ (d r : BitVec 5) (v : Word) (s : State),
    (d ≠ 0 → getS (setS d v s) d = v ∧ markS (setS d v s) d = 0) ∧
    getS (setS d v s) 0 = 0 ∧ setS 0 v s = s ∧
    OnlyRegs [d] s (setS d v s) ∧ SameMem s (setS d v s) ∧
    (r ≠ d → getS (setS d v s) r = getS s r)

namespace Sys2Proof.Claims

/-! Control transfers (R175, R177) -/

/-- The conditions of R175. -/
def branchOps : List ((BitVec 5 → BitVec 5 → BitVec 16 → Instr) × (Word → Word → Bool)) :=
  [(.beq, fun a b => a = b), (.bne, fun a b => !(a = b)),
   (.blt, fun a b => a.toInt < b.toInt), (.bge, fun a b => b.toInt ≤ a.toInt),
   (.bltn, fun a b => a.toNat < b.toNat), (.bgen, fun a b => b.toNat ≤ a.toNat)]

/-- `target(off, n)` of R163: 16 × off from the convoy in hand. -/
def targetOf (s : State) (off : Int) : Word := wordI ((s.hart.pc.toNat / 16 * 16 : Nat) + 16 * off)

/-! Scalar loads, stores and atomics (R170 to R174): constructor, bytes, and whether the value is zero-extended -/

def loads : List ((BitVec 5 → BitVec 5 → BitVec 13 → Instr) × Nat × Bool) :=
  [(.ldB, 1, false), (.ldH, 2, false), (.ldW, 4, false), (.ldD, 8, false),
   (.ldBn, 1, true), (.ldHn, 2, true), (.ldWn, 4, true),
   (.ldBAq, 1, false), (.ldHAq, 2, false), (.ldWAq, 4, false), (.ldDAq, 8, false),
   (.ldBnAq, 1, true), (.ldHnAq, 2, true), (.ldWnAq, 4, true)]

def loadsIndexed : List ((BitVec 5 → BitVec 5 → BitVec 5 → BitVec 1 → Instr) × Nat × Bool) :=
  [(.ldBX, 1, false), (.ldHX, 2, false), (.ldWX, 4, false), (.ldDX, 8, false),
   (.ldBnX, 1, true), (.ldHnX, 2, true), (.ldWnX, 4, true)]

/-- Constructor, bytes, and whether the store is a release. -/
def stores : List ((BitVec 5 → BitVec 5 → BitVec 13 → Instr) × Nat × Bool) :=
  [(.stB, 1, false), (.stH, 2, false), (.stW, 4, false), (.stD, 8, false),
   (.stBRl, 1, true), (.stHRl, 2, true), (.stWRl, 4, true), (.stDRl, 8, true)]

def storesIndexed : List ((BitVec 5 → BitVec 5 → BitVec 5 → BitVec 1 → Instr) × Nat) :=
  [(.stBX, 1), (.stHX, 2), (.stWX, 4), (.stDX, 8)]

/-- R170: the value for sd of n loaded bytes x. -/
def extended (n : Nat) (z : Bool) (x : Nat) : Word :=
  if z then word (x % 2 ^ (8 * n)) else wordI (sext x (8 * n))

/-- R173: the new value of n bytes for the old value, b and sd; none where no write is made. -/
def atomics : List ((BitVec 5 → BitVec 5 → BitVec 5 → BitVec 4 → BitVec 2 → BitVec 1 → Instr) ×
    (Nat → Nat → Nat → Nat → Option Nat)) :=
  [(.amoAdd, fun n old b _ => some ((old + b) % 2 ^ (8 * n))),
   (.amoAnd, fun n old b _ => some (Nat.land old (b % 2 ^ (8 * n)))),
   (.amoOr, fun n old b _ => some (Nat.lor old (b % 2 ^ (8 * n)))),
   (.amoXor, fun n old b _ => some (Nat.xor old (b % 2 ^ (8 * n)))),
   (.amoSwap, fun n _ b _ => some (b % 2 ^ (8 * n))),
   (.amoMin, fun n old b _ => some (wrap (min (sext old (8 * n)) (sext b (8 * n))) (8 * n))),
   (.amoMax, fun n old b _ => some (wrap (max (sext old (8 * n)) (sext b (8 * n))) (8 * n))),
   (.amoCas, fun n old b d => if old = d % 2 ^ (8 * n) then some (b % 2 ^ (8 * n)) else none)]

/-! Control registers (R117, R119, R179, R180) -/

/-- What each form writes, from the register's value r and sreg(sa) v (R179). -/
def ctlForms : List ((BitVec 5 → BitVec 12 → Instr) × (Word → Word → Word)) :=
  [(.ctlWr, fun _ v => v), (.ctlSet, fun r v => r ||| v), (.ctlClr, fun r v => r &&& ~~~v)]

/-! The scalar registers that the scalar instructions read (R163) -/

/-- Arithmetic, branches and `jalr`. -/
def AluReads (i : Instr) (rs : List (BitVec 5)) : Prop :=
  (∃ x ∈ regOps, ∃ d a b, i = x.1 d a b ∧ rs = [a, b]) ∨
  (∃ d a b, i = .sel d a b ∧ rs = [d, a, b]) ∨
  (∃ x ∈ bitOps, ∃ d a, i = x.1 d a ∧ rs = [a]) ∨
  (∃ x ∈ immOps, ∃ d a m, i = x.1 d a m ∧ rs = [a]) ∨
  (∃ x ∈ shiftOps, ∃ d a h, i = x.1 d a h ∧ rs = [a]) ∨
  (∃ x ∈ branchOps, ∃ a b o, i = x.1 a b o ∧ rs = [a, b]) ∨
  (∃ d a m, i = .jalr d a m ∧ rs = [a])

/-- Loads, stores and atomics. -/
def MemoryReads (i : Instr) (rs : List (BitVec 5)) : Prop :=
  (∃ x ∈ loads, ∃ d a o, i = x.1 d a o ∧ rs = [a]) ∨
  (∃ x ∈ loadsIndexed, ∃ d a b q, i = x.1 d a b q ∧ rs = [a, b]) ∨
  (∃ x ∈ stores, ∃ d a o, i = x.1 d a o ∧ rs = [a, d]) ∨
  (∃ x ∈ storesIndexed, ∃ d a b q, i = x.1 d a b q ∧ rs = [a, b, d]) ∨
  (∃ x ∈ atomics.take 7, ∃ d a b c o w, i = x.1 d a b c o w ∧ rs = [a, b]) ∨
  (∃ d a b c o w, i = .amoCas d a b c o w ∧ rs = [a, b, d])

/-- System, control-register, task and synchronization instructions, where what they check before their operands lets them come to
those in the state s: the mode (R117), the purity of the task (R376), whether they have a task, and what a slot that waits has
got. -/
def SystemReads (i : Instr) (rs : List (BitVec 5)) (s : State) : Prop :=
  (∃ f ∈ ctlForms, ∃ a n, i = f.1 a n ∧ rs = [a] ∧ (isPrivReg n.toNat = true → s.hart.sup = true)) ∨
  (∃ a, i = .l1Inv a ∧ rs = [a]) ∨
  (∃ a b c, i = .tlbInv a b c ∧ rs = [a, b] ∧ s.hart.sup = true) ∨
  (∃ d a b, i = .taskPost d a b ∧ rs = [a, b]) ∨
  (∃ d a, i = .taskTake d a ∧ rs = [a] ∧ s.hart.answer = none ∧ s.hart.pmode = false ∧ s.hart.bound = none) ∨
  (∃ d a, i = .stripGrant d a ∧ rs = [a] ∧ typePending s.hart = false) ∨
  (∃ d a, i = .taskDone d a ∧ rs = [a] ∧ s.hart.bound.isSome = true) ∨
  (∃ d a b, i = .futLd d a b ∧ rs = [a] ∧ s.hart.answer = none ∧ s.deferred.any (fun x => x.hart = s.hn) = false) ∨
  (∃ d a b, i = .futSt d a b ∧ rs = [a, b]) ∨
  (∃ d a, i = .futClr d a ∧ rs = [a]) ∨
  (∃ d a, i = .ingTake d a ∧ rs = [a] ∧ s.hart.pmode = false) ∨
  (∃ d a b, i = .egrPost d a b ∧ rs = [a, b] ∧ s.hart.pmode = false) ∨
  (∃ d a b c, i = .pcwait d a b c ∧ rs = [a, b])

end Sys2Proof.Claims

/-- R39: a scalar instruction that reads a poisoned register traps with POISON, and `tval` is the mark that the register carries;
`bq` and `bq.not` trap so on a condition that carries one. No register and no byte of memory is written. Which operand's mark is
reported where two carry one is the model's choice (log 113): that of sa, then sb, then sd, but for `sel`, whose old sd comes
first. -/
def Obligations.PoisonedOperandTraps : Prop :=
  (∀ (i : Instr) (rs : List (BitVec 5)) (s : State), AluReads i rs ∨ MemoryReads i rs ∨ SystemReads i rs s →
    s.stop = none → TrapRoom s → ∀ r, rs.find? (fun r => markS s r != 0) = some r →
    ∃ t, exec i s = .next t ∧ EntersHandler 17 (markS s r) (epcHere s) s t ∧ t.hart.sregs = s.hart.sregs ∧ SameMem s t) ∧
  (∀ x ∈ [(.bq : BitVec 16 → Instr), .bqNot], ∀ (o : BitVec 16) (s : State) (c : Bool) (p : Word) (rest : List (Bool × Word)),
    s.stop = none → TrapRoom s → s.hart.bq = (c, p) :: rest → p ≠ 0 →
    ∃ t, exec (x o) s = .next t ∧ t.hart.cause = 17 ∧ t.hart.tval = p ∧ t.hart.epc = epcHere s ∧ t.hart.bq = rest ∧
      t.hart.sregs = s.hart.sregs ∧ SameMem s t)

/-- R175, R155: a conditional branch makes its target the next convoy when the condition holds, and does nothing else;
`jal` and `jalr` jump and link the convoy after their own, and `jalr` reads sa before it writes sd. R177, R178: `bq` and
`bq.not` take the oldest condition; `bq` jumps when it is true and `bq.not` when it is false; with no entry reserved they trap
with BQ_EMPTY, `tval` the word, and the branch is not taken. -/
def Obligations.ControlTransfers : Prop :=
  (∀ x ∈ branchOps, ∀ (a b : BitVec 5) (o : BitVec 16) (s : State), s.stop = none → Clean s [a, b] →
    ∃ t, exec (x.1 a b o) s = .next t ∧
      (x.2 (getS s a) (getS s b) = true → NextConvoy (targetOf s o.toInt) s t) ∧
      (x.2 (getS s a) (getS s b) = false → t = s)) ∧
  (∀ (d : BitVec 5) (o : BitVec 21) (s : State), s.stop = none →
    ∃ t, exec (.jal d o) s = .next t ∧ NextConvoy (targetOf s o.toInt) (setS d (convoyAddr s + 16) s) t) ∧
  (∀ (d a : BitVec 5) (i : BitVec 16) (s : State), s.stop = none → Clean s [a] →
    ∃ t, exec (.jalr d a i) s = .next t ∧
      NextConvoy (wordI ((getS s a).toInt + 16 * i.toInt) &&& 0xFFFFFFFFFFFFFFF0) (setS d (convoyAddr s + 16) s) t) ∧
  (∀ x ∈ [((.bq : BitVec 16 → Instr), true), (.bqNot, false)], ∀ (o : BitVec 16) (s : State), s.stop = none →
      (∀ c rest, s.hart.bq = (c, 0) :: rest →
        ∃ t, exec (x.1 o) s = .next t ∧ t.hart.bq = rest ∧ t.hart.status = .running ∧
          t.hart.cv.npc = (if c = x.2 then targetOf s o.toInt else s.hart.cv.npc) ∧
          t.hart.sregs = s.hart.sregs ∧ SameMem s t) ∧
      (s.hart.bq = [] → owedConds s = 0 → TrapRoom s →
        ∃ t, exec (x.1 o) s = .next t ∧ EntersHandler 9 (curWord s) (epcHere s) s t))

/-- R164, R165, R170, R171: a load whose checks pass at l puts the n bytes that the hart sees there into sd, sign-extended
or zero-extended, and does nothing else to the registers; one that overlaps the hart's youngest buffered store in part does so
once the buffered stores have performed (R45); a line of an ordinary page is then in the core's scalar data cache (R42). An
aligned 8-byte load of a device register on a supervisor page of memory type 2 gives what the register reads as, and any other one
there gives 0 (R372; that no other reaches the registers is the model's reading, log 89, and what a window of them that the spec does
not lay out reads as its choice, log 56). R45, R46: the
hart sees its own youngest buffered store of a byte, and memory (or the local window) where none of its stores waits. -/
def Obligations.ScalarLoads : Prop :=
  (∀ (d a b : BitVec 5) (o : BitVec 13) (q : BitVec 1) (s : State) (i : Instr) (n : Nat) (z : Bool) (va : Word),
      (((∃ c, (c, n, z) ∈ loads ∧ i = c d a o) ∧ va = wordI ((getS s a).toInt + o.toInt) ∧ Clean s [a]) ∨
        ((∃ c, (c, n, z) ∈ loadsIndexed ∧ i = c d a b q) ∧ va = getS s a + getS s b ∧ Clean s [a, b])) →
      ∀ (l : Loc) (mt : Nat) (viol : Bool), ScalarAccess (needLoad n) va n l mt viol s →
      let u := accessState va viol l mt n false s
      u.stop = none →
      (isReg l = false → partlyBuffered u l n = false →
        exec i s = .next (setS d (extended n z (ownRead u l n)) (cacheLoad l mt u))) ∧
      (isReg l = false → partlyBuffered u l n = true → partlyBuffered (drainStores u) l n = false →
        exec i s = .next (setS d (extended n z (ownRead (drainStores u) l n)) (cacheLoad l mt (drainStores u)))) ∧
      (isReg l = true → ¬(n = 8 ∧ mt = 2) → exec i s = .next (setS d 0 u)) ∧
      (isReg l = true → n = 8 → mt = 2 → (drainStores u).hart.storeBuf = [] →
        ∃ t, exec i s = .next t ∧ (d ≠ 0 → getS t d = (mmioRead (paOf l) (drainStores u)).1))) ∧
  (∀ (s : State) (l : Loc) (n i : Nat), i < n →
      let k := locKey s l + i
      (∀ e, s.hart.storeBuf.reverse.find? (fun e => decide (locKey s e.loc ≤ k ∧ k < locKey s e.loc + e.n)) = some e →
        fld (ownRead s l n) (8 * i) 8 = fld e.val (8 * (k - locKey s e.loc)) 8) ∧
      ((∀ e ∈ s.hart.storeBuf, ¬(locKey s e.loc ≤ k ∧ k < locKey s e.loc + e.n)) →
        fld (ownRead s l n) (8 * i) 8 = (match l with
          | .pa a => (getByte s (a + i)).toNat
          | .tile o => (Tab.get 0 s.tiles (tileKey (myCore s) (o + i))).toNat)))

/-- R164, R165, R170, R171, R28: a store whose checks pass at l on an ordinary page enters the store buffer behind the
hart's earlier stores, the oldest of which performs when 32 are there, and no register and no other byte of memory changes before
it performs; on a page of memory type 1 the low n bytes of sd are stored at l, after the buffered stores, and every other byte of
memory stays as they leave it. A release store follows every earlier access: it waits in the buffer, on whatever page, for those
that are not over, and the hart goes on (R172; that it waits there, and not at its slot, is the model's reading, log 51), and so
does a store to a page of memory type 1 or 2 behind one. An aligned 8-byte store on a supervisor page of memory type 2 reaches the
device register (R372); another one there writes nothing (the model's reading and choice, logs 56, 89). -/
def Obligations.ScalarStores : Prop :=
  ∀ (d a b : BitVec 5) (o : BitVec 13) (q : BitVec 1) (s0 : State) (i : Instr) (n : Nat) (rl : Bool) (va : Word),
    (((∃ c, (c, n, rl) ∈ stores ∧ i = c d a o) ∧ va = wordI ((getS s0 a).toInt + o.toInt) ∧ Clean s0 [a, d]) ∨
      ((∃ c, (c, n) ∈ storesIndexed ∧ i = c d a b q ∧ rl = decide (q = 1)) ∧ va = getS s0 a + getS s0 b ∧
        Clean s0 [a, b, d])) →
    ∀ (l : Loc) (mt : Nat) (viol : Bool), let k := (storeTime rl s0).1; let s := (storeTime rl s0).2
    ScalarAccess { needStore n with late := k.isSome } va n l mt viol s →
    let u := accessState va viol l mt n true s
    let w := drainStores u
    u.stop = none →
    (isReg l = false → mt = 0 → (bufferTurn u).hart.storeBuf.length < 32 →
      ∃ t, exec i s0 = .next t ∧ Buffered l n (getS s0 d).toNat false k u t) ∧
    (isReg l = false → mt ≠ 0 → k = none → w.hart.storeBuf = [] →
      ∃ t, exec i s0 = .next t ∧ Stored l n (getS s0 d).toNat w t ∧ t.hart.sregs = s0.hart.sregs) ∧
    ((isReg l = false ∧ mt ≠ 0) ∨ (isReg l = true ∧ n = 8 ∧ mt = 2) → k.isSome = true ∨ w.hart.storeBuf ≠ [] →
      (bufferTurn w).hart.storeBuf.length < 32 →
      ∃ t, exec i s0 = .next t ∧ Buffered l n (getS s0 d).toNat true k w t) ∧
    (isReg l = true → ¬(n = 8 ∧ mt = 2) → exec i s0 = .next u) ∧
    (isReg l = true → n = 8 → mt = 2 → k = none → w.hart.storeBuf = [] →
      exec i s0 = done (mmioWrite (paOf l) (getS s0 d) (fun m => m != w.hn) w))

/-- R43, R45, R172: the oldest buffered store performs: its bytes change and every other byte of memory reads as before; a release
store stays, and every store behind it, while an earlier access of the hart is not over. A store to a device register that has
waited there performs as any other does (R372). -/
def Obligations.StoreBufferDrains : Prop :=
  ∀ (s : State) (e : SbEntry) (es : List SbEntry), s.stop = none → s.hn < nHarts → s.hart.storeBuf = e :: es →
    (storeHeld s e = false → isReg e.loc = false → regsLeft es = false →
      ∃ t, exec (.storeBufferDrain s.hn) s = .next t ∧ t.hart.storeBuf = es ∧ Stored e.loc e.n e.val s t ∧
        t.hart.sregs = s.hart.sregs) ∧
    (∀ a, e.loc = .pa a → storeHeld s e = false → isReg e.loc = true → es = [] →
      exec (.storeBufferDrain s.hn) s =
        done (mmioWrite a (word e.val) (fun m => m != s.hn) { s with hart := { s.hart with storeBuf := [] } })) ∧
    (storeHeld s e = true → exec (.storeBufferDrain s.hn) s = .next s)

/-- R173, R174: an atomic whose checks pass at l returns the old value of its n bytes to sd, sign-extended, and leaves the
new value there as one request, after the hart's earlier stores (and, with a release, after all its earlier accesses);
every other byte of memory stays as those stores leave it. -/
def Obligations.ScalarAtomics : Prop :=
  ∀ x ∈ atomics, ∀ (d a b : BitVec 5) (c : BitVec 4) (o : BitVec 2) (w : BitVec 1) (s0 s : State),
    (∀ rs, MemoryReads (x.1 d a b c o w) rs → Clean s0 rs) →
    s = (if 2 ≤ o.toNat then releaseState s0 else s0) → (2 ≤ o.toNat → unperformed s = false) →
    let n := if w = 0 then 4 else 8
    ∀ (l : Loc) (mt : Nat) (viol : Bool), ScalarAccess (needAtomic n) (getS s0 a) n l mt viol s →
    let u := drainStores (accessState (getS s0 a) viol l mt n true s)
    let old := readLoc u l n
    u.stop = none → u.hart.storeBuf = [] →
    ∃ t, exec (x.1 d a b c o w) s0 = .next t ∧
      (match x.2 n old (getS s0 b).toNat (getS s0 d).toNat with
        | some v => Stored l n v u t
        | none => SameMem u t) ∧
      (d ≠ 0 → getS t d = wordI (sext old (8 * n))) ∧ (∀ r : BitVec 5, r ≠ d → getS t r = getS s0 r)

namespace Sys2Proof.Claims

/-- The scalar access to memory that i makes in state s0: its address, its bytes and what it needs of them, with the state in which
its checks are made. A release has first let go on what the hart did before (R172, R174); an atomic that releases goes on once all of
that is over. -/
def AccessOf (i : Instr) (s0 s : State) (va : Word) (n : Nat) (need : Need) : Prop :=
  (∃ x ∈ loads, ∃ d a o, i = x.1 d a o ∧ va = wordI ((getS s0 a).toInt + o.toInt) ∧ n = x.2.1 ∧
    need = needLoad n ∧ s = s0) ∨
  (∃ x ∈ loadsIndexed, ∃ d a b q, i = x.1 d a b q ∧ va = getS s0 a + getS s0 b ∧ n = x.2.1 ∧
    need = needLoad n ∧ s = s0) ∨
  (∃ x ∈ stores, ∃ d a o, i = x.1 d a o ∧ va = wordI ((getS s0 a).toInt + o.toInt) ∧ n = x.2.1 ∧
    need = { needStore n with late := (storeTime x.2.2 s0).1.isSome } ∧ s = (storeTime x.2.2 s0).2) ∨
  (∃ x ∈ storesIndexed, ∃ d a b, ∃ q : BitVec 1, i = x.1 d a b q ∧ va = getS s0 a + getS s0 b ∧ n = x.2 ∧
    need = { needStore n with late := (storeTime (q = 1) s0).1.isSome } ∧ s = (storeTime (q = 1) s0).2) ∨
  (∃ x ∈ atomics, ∃ d a b c, ∃ o : BitVec 2, ∃ w : BitVec 1, i = x.1 d a b c o w ∧ va = getS s0 a ∧
    n = (if w = 0 then 4 else 8) ∧ need = needAtomic n ∧
    (o.toNat < 2 ∧ s = s0 ∨ 2 ≤ o.toNat ∧ s = releaseState s0 ∧ unperformed s = false))

end Sys2Proof.Claims

/-- R165: a scalar load, store or atomic that fails a check traps with that check's cause and its address, and no part of it is
performed: the handler's entry changes no general register and no byte of memory. A purity violation that is not allowed to demote
the task is such a check (R376): the task is impure from then on. The first check is the alignment: an address that is no multiple
of n gives MISALIGNED (10); then bits [63:52], which must be zero: NONCANON (12). -/
def Obligations.FailedCheckTraps : Prop :=
  (∀ (i : Instr) (rs : List (BitVec 5)) (s0 s : State) (va : Word) (n : Nat) (need : Need),
    MemoryReads i rs → Clean s0 rs → AccessOf i s0 s va n need → s.stop = none → TrapRoom s →
    ∀ c, check s va n need = .trap c →
      ∃ t, exec i s0 = .next t ∧ EntersHandler (word c) va (epcHere s) (if c = 21 then demote s else s) t) ∧
  (∀ (va : Word) (need : Need) (s : State),
    (va.toNat % need.align ≠ 0 → check s va need.align need = .trap 10) ∧
    (va.toNat % need.align = 0 → va.toNat / 2 ^ 52 ≠ 0 → check s va need.align need = .trap 12))

namespace Sys2Proof.Claims

/-- Registers that take the written bits of a mask, the other bits reading as zero (R7, R117, R119). -/
def maskedRegs : List (Nat × Word) :=
  [(0x002, 0x1FFFF), (0x008, 0xFFFFFFFF), (0x009, 0xFFFFFFFF), (0x00A, 0xFFFFFFFF), (0x00B, 0xFFFFFFFF),
   (0x00C, 0xFFFFFFFF0000001F), (0x011, 0x000003FF07FF003F), (0x020, 0xFFFFFFFFFFFF),
   (0x021, 0xFFFFFFFFFFFFFFFF), (0x022, 0xFFFFFFFFFFFFFFFF), (0x023, 0xFFFFFFFFFFFFFFFF),
   (0x024, 0xFFFFFFFFFFFFFFFF), (0x025, 0xFFFFFFFFFFFFFFFF), (0x026, 0xFFFFFFFFFFFFFFFF),
   (0x041, 0x80000000000000FF), (0x042, 0xFFFFFFFFFFFFFFFC), (0x043, 0xFFFFFFFFFFFFFFFF), (0x044, 0x9F),
   (0x045, 0xFFFFFFFFFFFFFFF0), (0x046, 0xFFFFFFFFFFFFFFFF), (0x048, 0xFFFF), (0x049, 0x3FFFFFFFFE000)]

/-- Registers whose every field is RO (R117). -/
def readOnlyRegs : List Nat := [0x003, 0x004, 0x005, 0x006, 0x007, 0x010, 0x018, 0x080, 0x081, 0x0F0, 0x0F1, 0x0F2]

end Sys2Proof.Claims

/-- R179: `ctl.rd` puts the register's value into sd, and changes nothing else but that the slot waits no longer. A
vector-side register is read once every earlier convoy has retired, and with what the `ctl` slots before it in its convoy leave
(R120); until then the read waits in the RQ and the hart goes on (R363). `cycle` and `time` have gone on by a free amount since they
were last read (R118; log 8). -/
def Obligations.ControlRegisterReads : Prop :=
  ∀ (d : BitVec 5) (n : BitVec 12) (s : State), s.stop = none → (isPrivReg n.toNat = true → s.hart.sup = true) →
    let here : State := { s with hart := { s.hart with status := .running, answer := none } }
    let now : Prop := isVecReadReg n.toNat = true → s.hart.vq = []
    (now → n ≠ 0x080 → n ≠ 0x081 → pendingCtl s.hart.cv.acts n.toNat = none →
      exec (.ctlRd d n) s = .next (setS d (ctlValue s n.toNat) here)) ∧
    (∀ v, now → n ≠ 0x080 → n ≠ 0x081 → pendingCtl s.hart.cv.acts n.toNat = some v →
      exec (.ctlRd d n) s =
        .next (setS d (if n = 0 then word (min v.toNat (if s.hart.vill then 0 else s.hart.maxVl)) else v) here)) ∧
    (¬now → s.hart.cv.live = true →
      exec (.ctlRd d n) s = .next (if d = 0 then here else { here with hart := { here.hart with cv := { s.hart.cv with
        acts := { slot := s.hart.cv.slot, w := nth 0 s.hart.cv.words s.hart.cv.slot
                  c0 := (pendingCtl s.hart.cv.acts n.toNat).getD 0
                  past := (pendingCtl s.hart.cv.acts n.toNat).isSome } :: s.hart.cv.acts } } })) ∧
    (now → n = 0x080 ∨ n = 0x081 → pendingCtl s.hart.cv.acts n.toNat = none → s.hart.pmode = false →
      ∃ t, exec (.ctlRd d n) s = .next t ∧ (d ≠ 0 → getS t d = ctlValue t n.toNat) ∧
        t.time = s.time + (Config.timeDelta s.free).setWidth 64 ∧
        (getCore t (myCore s)).cycle = (getCore s (myCore s)).cycle + (Config.cycleDelta s.free).setWidth 64 ∧
        t.free = s.free + 1 ∧ SameMem s t)

/-- R179, R180, R117, R119: `ctl.wr`, `ctl.set` and `ctl.clr` change the writable fields of the register they name: reserved
fields stay zero, read-only registers and fields keep their values, `vl` takes the smaller of the value and the largest
`vl`, `vtype` sets vill for an unsupported combination; every other control register keeps its value. A vector-side
register changes at once where no convoy has still to retire and no non-scalar slot stands before the instruction in its convoy
(R120). That the smaller value is taken over all 64 bits (log 29), and that `vl` stays where a write of `vtype` makes the largest
smaller (log 35), is the model's reading and choice. Every general, vector and mask register and every byte of memory stays. -/
def Obligations.ControlRegisterWrites : Prop :=
  (∀ f ∈ ctlForms, ∀ (a : BitVec 5) (n : BitVec 12) (s : State), s.stop = none → Clean s [a] →
      (isPrivReg n.toNat = true → s.hart.sup = true) → (isVecCtlReg n.toNat = true → slotsBefore s = false) →
      (isVecReadReg n.toNat = true → s.hart.vq = []) → pendingCtl s.hart.cv.acts n.toNat = none →
      let v := f.2 (ctlValue s n.toNat) (getS s a)
      (∀ x ∈ maskedRegs, n.toNat = x.1 → ∃ t, exec (f.1 a n) s = .next t ∧ ctlValue t x.1 = v &&& x.2 ∧
        ∀ k, k ≠ x.1 → ctlValue t k = ctlValue s k) ∧
      (n = 0x000 → ∃ t, exec (f.1 a n) s = .next t ∧
        ctlValue t 0 = (if s.hart.vill then 0 else word (min v.toNat s.hart.maxVl)) ∧
        ∀ k, k ≠ 0 → ctlValue t k = ctlValue s k) ∧
      (n = 0x001 → ∃ t, exec (f.1 a n) s = .next t ∧
        ctlValue t 1 = (v &&& 0x1F) ||| (if vtypeOk (v.toNat % 32) then 0 else 0x8000000000000000) ∧
        ∀ k, k ≠ 1 → ctlValue t k = ctlValue s k) ∧
      (n = 0x027 → ∃ t, exec (f.1 a n) s = .next t ∧
        ctlValue t 0x027 = (v &&& 0x3F) ||| (if demotedBit s then 0x40 else 0) ∧
        ∀ k, k ≠ 0x027 → ctlValue t k = ctlValue s k) ∧
      (n = 0x040 → ∃ t, exec (f.1 a n) s = .next t ∧
        ctlValue t 0x040 = (ctlValue s 0x040 &&& ~~~(0x9D : Word)) ||| (v &&& 0x9D) ∧
        ∀ k, k ≠ 0x040 → ctlValue t k = ctlValue s k) ∧
      (n.toNat ∈ readOnlyRegs → ∃ t, exec (f.1 a n) s = .next t ∧ (∀ k, ctlValue t k = ctlValue s k) ∧
        t = { s with hart := { s.hart with status := t.hart.status, answer := t.hart.answer } } ∧
        (s.hart.status ≠ .waiting .register → t = s))) ∧
  (∀ f ∈ ctlForms, ∀ (a : BitVec 5) (n : BitVec 12) (s t : State), Clean s [a] →
      (isPrivReg n.toNat = true → s.hart.sup = true) → exec (f.1 a n) s = .next t →
      t.hart.sregs = s.hart.sregs ∧ t.hart.vregs = s.hart.vregs ∧ t.hart.mregs = s.hart.mregs ∧ t.hart.pc = s.hart.pc ∧
        SameMem s t)

/-- R117, R181: in user mode a privileged control register, `eret` and `tlb.inv` raise PRIVILEGE (6), with `tval` the
instruction word, and change no register and no byte of memory. -/
def Obligations.UserModeIsRefused : Prop :=
  ∀ (s : State), s.stop = none → TrapRoom s → s.hart.sup = false →
    ∀ i : Instr,
      ((∃ d n, i = .ctlRd d n ∧ isPrivReg n.toNat = true) ∨
        (∃ f ∈ ctlForms, ∃ a n, i = f.1 a n ∧ isPrivReg n.toNat = true) ∨
        i = .eret ∨ (∃ a b c, i = .tlbInv a b c)) →
      ∃ t, exec i s = .next t ∧ EntersHandler 6 (curWord s) (epcHere s) s t

/-- R182: `trap n` takes SYSCALL (7) with `tval` n and `epc` at the next convoy, once the rest of its convoy has taken
effect, what its `ctl` and `strip.grant` slots leave on the vector side included (R155); `brk` takes BREAK (8) at its own slot, or
enters debug halt with the same `epc` where halt on break is selected. -/
def Obligations.SystemCallAndBreak : Prop :=
  ∀ (n : BitVec 5) (s : State), s.stop = none → TrapRoom s →
    (actsLeft s = false →
      ∃ t, exec (.trap n) s = .next t ∧ EntersHandler 7 (word n.toNat) (convoyAddr s + 16) s t) ∧
    (actsLeft s = true →
      exec (.trap n) s = .next { s with hart := { s.hart with cv := { s.hart.cv with after := .syscall n } } }) ∧
    (s.hart.brkHalt = false → ∃ t, exec .brk s = .next t ∧ EntersHandler 8 0 (epcHere s) s t) ∧
    (s.hart.brkHalt = true → ∃ t, exec .brk s = .next t ∧ t.hart.status = .halted ∧ t.hart.epc = epcHere s ∧
      wbit t.hart.hstat 6 = true ∧ t.hart.pc = s.hart.pc ∧ t.hart.sregs = s.hart.sregs ∧ SameMem s t)

/-- R183, R406: `eret` in supervisor mode sets SUP from PSUP and IE from PIE, leaves both saved bits, and resumes at `epc`
with its low bits ignored; a convoy that a trap had stopped as it waited to be committed, with `epc` at its successor, is committed
first (the model's reading, log 23). With VRES = 1 the convoys of the shadow VQ are issued again ahead of every convoy committed
after the `eret`, and what had been frozen of the MQ goes on (that it goes first is the model's reading, log 27); with VRES = 0
they are given up (log 24). Those that have committed before it keep the translation and the mode under which they did (R31). Every
register of the program and every byte of memory stays. The slots before the `eret` in its convoy have taken effect (R155). -/
def Obligations.ReturnFromTrap : Prop :=
  ∀ (s : State), s.stop = none → s.hart.sup = true → actsLeft s = false →
    let pc := s.hart.epc &&& 0xFFFFFFFFFFFFFFF0
    let held : Prop := commitWaits s.hart.saved = true ∧ pc = s.hart.saved.npc ∧ wfld s.hart.epc 2 2 = 0
    ∃ t, exec .eret s = .next t ∧
      wbit t.hart.hstat 0 = wbit s.hart.hstat 3 ∧ wbit t.hart.hstat 2 = wbit s.hart.hstat 4 ∧
      (∀ i, i ≠ 0 → i ≠ 2 → wbit t.hart.hstat i = wbit s.hart.hstat i) ∧
      (¬held → t.hart.pc = pc ∧ t.hart.cv.live = false ∧ t.hart.cv.slot % 4 = wfld s.hart.epc 2 2 ∧ t.hart.came = s.hart.came) ∧
      (held → t.hart.pc = s.hart.saved.base ∧ t.hart.cv = s.hart.saved ∧ t.hart.came = true) ∧
      t.hart.vq = (keepSpace s.hart).vq ++ (if s.hart.vres then reissued s.hart else []) ∧ t.hart.shadow = [] ∧
      t = { s with hart := { s.hart with
        hstat := t.hart.hstat, pc := t.hart.pc, cv := t.hart.cv, came := t.hart.came, vq := t.hart.vq, shadow := []
        fopStop := if s.hart.vres then s.hart.fopStop else []
        mq := s.hart.smq ++ (keepSpace s.hart).mq, smq := [] } }

/-- R181, R184 to R187: `nop` does nothing; `l1.inv` drops the line of its address, or every line, from the core's scalar data
cache, and changes nothing that a program can see; `wait` ends when an interrupt is pending, and stops the hart when neither that
nor a phase nor another end has come; `fence.i` empties the core's instruction cache, and what the hart has fetched ahead, once
every earlier access has performed; `tlb.inv` removes exactly the entries that its scope covers and its operands match, where no
stream and no convoy that it covers holds such a translation (R31). -/
def Obligations.SystemInstructions : Prop :=
  (∀ s : State, s.stop = none → exec .nop s = .next s) ∧
  (∀ (a : BitVec 5) (s : State), s.stop = none → Clean s [a] →
    ∃ t, exec (.l1Inv a) s = .next t ∧ t = { s with cores := t.cores } ∧
      (∀ c, getCore t c = { getCore s c with dcache := (getCore t c).dcache }) ∧
      (wbit (getS s a) 63 = true → (getCore t (myCore s)).dcache = []) ∧
      (∀ e size, wfld (getS s a) 52 12 = 0 → inWindow (getS s a) = false →
        translateAs s (wfld s.hart.asid 0 16) s.hart.ptbase (getS s a) = .leaf e size →
        ∀ k, k ∈ (getCore t (myCore s)).dcache ↔
          k ∈ (getCore s (myCore s)).dcache ∧ k ≠ leafPa e size (getS s a) / 128)) ∧
  (∀ s : State, s.stop = none → s.hart.pend ≠ [] →
    exec .wait s = .next { s with hart := { s.hart with status := .running, answer := none } }) ∧
  (∀ s : State, s.stop = none → s.hart.pend = [] → s.hart.answer = none → s.hart.status = .running →
    ∃ t, exec .wait s = .next t ∧ t.hart.status = .waiting .wait ∧ t.hart.sregs = s.hart.sregs ∧ SameMem s t) ∧
  (∀ s : State, (releaseState s).stop = none → unperformed (releaseState s) = false →
    ∃ t, exec .fenceI s = .next t ∧ (getCore t (myCore s)).icache = [] ∧ t.hart.ahead = [] ∧ t.hart.storeBuf = [] ∧
      t.mem = (releaseState s).mem ∧ t.hart.sregs = s.hart.sregs) ∧
  (∀ (a b : BitVec 5) (c : BitVec 4) (s : State), s.stop = none → s.hart.sup = true → Clean s [a, b] →
    (let gone := tlbGone (getS s a) (getS s b) c.toNat s;
      (∀ x ∈ s.cores, coreCovered c.toNat (myCore s) x.1 = true → ∀ q ∈ x.2.cq,
        streamUnder (getS s a) (getS s b) gone q.2 = false) ∧
      (∀ n ∈ s.hn :: s.parked.map (·.1), coreCovered c.toNat (myCore s) (coreOf n) = true →
        queueUnder (getS s a) (getS s b) gone n s = false)) →
    ∃ t, exec (.tlbInv a b c) s = .next t ∧ t.hart.sregs = s.hart.sregs ∧
      ∀ e, e ∈ t.tlb ↔ e ∈ s.tlb ∧ ¬(tlbCovered c.toNat (myCore s) e = true ∧ tlbMatches (getS s a) (getS s b) e = true))

/-- R210, R211, R107, R365: where the lane grant stands as it is asked for, `vsetvl`, `vsetvli` and a gang of one's `gsetvl`
set the type, the length and sd, and clear the registers only when M changes; a member of a larger gang takes the common
M that the gang's negotiation has told it. R212, R213, R75: `vdecl` declares its register count, trims `vl` to the largest
length, clears `vstart` and the ring, and clears the registers unless the count stays; `vdecl.buf` declares an empty ring
where it fits, of which the loads that have committed behind it have taken their slots (R76), and sets vill where it does not. -/
def Obligations.LengthAndDeclarations : Prop :=
  (∀ (d a b ty : BitVec 5) (s : State), Issuing s →
      let avl := if a = 0 then none else some (cap0 s).toNat
      (GrantStands (wfld (cap1 s) 8 5) s → ∃ t, exec (.vsetvl d a b) s = .next t ∧
        SetLength (wfld (cap1 s) 0 5) (typeBad (cap1 s)) avl d.toNat (lanesOwned s s.hn) s t) ∧
      (GrantStands 0 s → ∃ t, exec (.vsetvli d a ty) s = .next t ∧
        SetLength ty.toNat false avl d.toNat (lanesOwned s s.hn) s t) ∧
      (GrantStands (wfld (cap1 s) 8 5) s → s.hart.vanswer = none → myGang s = [mySeat s] →
        ∃ t, exec (.gsetvl d a b) s = .next t ∧
          SetLength (wfld (cap1 s) 0 5) (typeBad (cap1 s)) avl d.toNat (lanesOwned s s.hn) s t) ∧
      (∀ m e, s.hart.vanswer = some (m, e) → ∃ t, exec (.gsetvl d a b) s = .next t ∧
        SetLength (wfld (cap1 s) 0 5) (typeBad (cap1 s) || e != 0) avl d.toNat m.toNat s t)) ∧
  (∀ (s : State), Issuing s →
      (∀ n : BitVec 2, ∃ t, exec (.vdecl n) s = .next t ∧ Issuing t ∧ t.hart.vnreg = 8 * 2 ^ n.toNat ∧
        t.hart.ring = none ∧ t.hart.vstart = 0 ∧
        t.hart.vl.toNat = min s.hart.vl.toNat (maxVl (vlmaxOf s.hart.lanemod (8 * 2 ^ n.toNat)) s.hart.vtype.toNat) ∧
        t.hart.vregs = (if s.hart.vnreg = 8 * 2 ^ n.toNat then s.hart.vregs else []) ∧
        t.hart.mregs = (if s.hart.vnreg = 8 * 2 ^ n.toNat then s.hart.mregs else []) ∧
        t.hart.sregs = s.hart.sregs ∧ SameMem s t) ∧
      (∀ (n : BitVec 5) (v : BitVec 6) (g : BitVec 2), 1 ≤ n.toNat → n.toNat ≤ 7 → ∃ t, exec (.vdeclBuf n v g) s = .next t ∧ Issuing t ∧
        (v.toNat % 2 ^ g.toNat = 0 ∧ v.toNat + (n.toNat + 1) * 2 ^ g.toNat ≤ s.hart.vnreg →
          t.hart.ring = some
            { vb := v.toNat, g := 2 ^ g.toNat, n := n.toNat + 1, c := 0
              p := queuedLoads v.toNat s.hart.vq % (n.toNat + 1), occ := queuedLoads v.toNat s.hart.vq } ∧
          t.hart.vtype = s.hart.vtype) ∧
        (¬(v.toNat % 2 ^ g.toNat = 0 ∧ v.toNat + (n.toNat + 1) * 2 ^ g.toNat ≤ s.hart.vnreg) →
          t.hart.ring = none ∧ t.hart.vill = true) ∧
        t.hart.vregs = s.hart.vregs ∧ t.hart.vl = s.hart.vl ∧ t.hart.vnreg = s.hart.vnreg ∧
        t.hart.sregs = s.hart.sregs ∧ SameMem s t))

/-- R194: `task.post` of an aligned record that passes its checks, once the hart's earlier accesses have performed, gives the
status of the post in sd: 2 for a queue that does not exist or is not enabled, 3 for a malformed record, 1 where the queue
takes none, 0 where a copy has been queued; a queue with room on chip holds the copy last. R196, R402: a hart that has been
bound while it waited gets the record's address in sd; one that has a task already traps with TASK_STATE (22). -/
def Obligations.TaskPostAndTake : Prop :=
  (∀ (d a b : BitVec 5) (s : State), s.stop = none → s.hart.pmode = false → Clean s [a, b] →
      (640 ≤ (getS s b).toNat → exec (.taskPost d a b) s =
        .next (setS d 2 { s with hart := { s.hart with status := .running, answer := none } })) ∧
      (∀ (pa mt : Nat) (viol : Bool), (getS s b).toNat < 640 →
        let u := releaseState s
        unperformed u = false →
        ScalarAccess { rd := true, mtMax := 0, window := false, always := true, align := 128 } (getS s a) 128 (.pa pa) mt viol u →
        let w := accessState (getS s a) viol (.pa pa) mt 128 false u
        w.stop = none →
        let q := getQueue w (getS s b).toNat
        (q.en = false → exec (.taskPost d a b) s = .next (setS d 2 w)) ∧
        (q.en = true → malformed (getBytes w pa 128) = true → exec (.taskPost d a b) s = .next (setS d 3 w)) ∧
        (q.en = true → malformed (getBytes w pa 128) = false → q.spf = true →
          exec (.taskPost d a b) s = .next (setS d 1 w)) ∧
        (q.en = true → malformed (getBytes w pa 128) = false → q.spf = false → q.onchip.length < 32 → q.spilled = 0 →
          ∃ t, exec (.taskPost d a b) s = .next t ∧ (d ≠ 0 → getS t d = 0) ∧
            (getQueue t (getS s b).toNat).onchip =
              q.onchip ++ [{ addr := getS s a, bytes := getBytes w pa 128 }] ∧ SameMem w t))) ∧
  (∀ (d a : BitVec 5) (s : State), s.stop = none →
      (∀ v e, s.hart.answer = some (v, e) →
        exec (.taskTake d a) s = .next (setS d v { s with hart := { s.hart with status := .running, answer := none } })) ∧
      (s.hart.answer = none → s.hart.pmode = false → s.hart.bound.isSome = true → TrapRoom s →
        ∃ t, exec (.taskTake d a) s = .next t ∧ EntersHandler 22 (curWord s) (epcHere s) s t))

/-- R198: `strip.grant` gives the next n elements of the bound task, n the least of what is left, the largest `vl`, the
record's cap and sreg(sa): sd is the first of them, and each task base stands at its first element; what is left goes down by n.
`vl` is n and `vstart` 0, at once where no convoy has still to retire and no non-scalar slot stands before it (R120), and in its
place among the slots of its convoy (R152, R413). With nothing left sd is -1 and `vl` 0. -/
def Obligations.StripGrant : Prop :=
  ∀ (d a : BitVec 5) (s : State) (b : BoundTask), s.stop = none → Clean s [a] → s.hart.bound = some b →
    typePending s.hart = false → s.hart.vill = false →
    let now : Prop := slotsBefore s = false ∧ s.hart.vq = []
    let left (n : Nat) (u : State) : Prop := s.hart.cv.live = true → ∃ x, u.hart.cv.acts = s.hart.cv.acts ++ [x] ∧
      x.slot = s.hart.cv.slot ∧ x.w = nth 0 s.hart.cv.words s.hart.cv.slot ∧ x.c0 = word n ∧ x.past = false
    let t := getTask s b.queue b.tid
    let c := (getS s a).toNat
    let cap := recField t.rc.bytes 24 4
    let n := min (min t.trem s.hart.maxVl) (min (if cap = 0 then t.trem else cap) (if c = 0 then t.trem else c))
    (n = 0 → ∃ u, exec (.stripGrant d a) s = .next u ∧ (d ≠ 0 → getS u d = 0xFFFFFFFFFFFFFFFF) ∧ (now → u.hart.vl = 0) ∧
      left 0 u ∧ getTask u b.queue b.tid = t ∧ SameMem s u) ∧
    (n ≠ 0 → ∃ u, exec (.stripGrant d a) s = .next u ∧ (d ≠ 0 → getS u d = word t.e) ∧
      (now → u.hart.vl.toNat = n ∧ u.hart.vstart = 0) ∧ left n u ∧ getTask u b.queue b.tid = { t with e := t.e + n, trem := t.trem - n } ∧
      (∀ j, j < 6 → ctlValue u (0x21 + j) =
        word (recField t.rc.bytes (32 + 8 * j) 8 + t.e * stepBytes t.rc.bytes j)) ∧
      (∀ r : BitVec 5, r ≠ d → getS u r = getS s r) ∧ SameMem s u)

/-- R199, R200, R197: the last member's `task.done` ends the task, once what it and the members before it had to perform is over, and
a record with no SIGNAL gives 2 in sd; a member that leaves others behind gets 2 and leaves the task to them, with what it has
still to perform; `task.yield` of the last member puts the record back at the head of its queue, whose youngest record goes to the
ring where 32 are on chip; while the ring cannot take it, the slot waits (the model's choice, log 90). The hart no longer has a
task. -/
def Obligations.TaskEnds : Prop :=
  ∀ (d a : BitVec 5) (s : State) (b : BoundTask), s.stop = none → Clean s [a] → s.hart.bound = some b →
    let u := releaseState s
    let t := getTask s b.queue b.tid
    (let w := settleOwing (getTask u b.queue b.tid) u;
      otherMembers s t = [] → unperformed u = false → (getTask w b.queue b.tid).owing.any (stillOwes w) = false →
      w.stop = none → recField (getTask w b.queue b.tid).rc.bytes 104 8 = 0 →
      ∃ v, exec (.taskDone d a) s = .next v ∧ (d ≠ 0 → getS v d = 2) ∧ v.hart.bound = none ∧ v.hart.tflags = 0 ∧
        v.hart.pmode = false ∧ getTask v b.queue b.tid = {}) ∧
    (otherMembers s t ≠ [] → u.stop = none →
      ∃ v, exec (.taskDone d a) s = .next v ∧ (d ≠ 0 → getS v d = 2) ∧ v.hart.bound = none ∧
        (getTask v b.queue b.tid).members = otherMembers s (getTask u b.queue b.tid) ∧
        (getTask v b.queue b.tid).owing = (getTask u b.queue b.tid).owing ++
          (if unperformed u then [(Member.hart s.hn, u.order + 1)] else [])) ∧
    (let gone (v : State) : Prop := v.hart.bound = none ∧ v.hart.tflags = 0 ∧ v.hart.sregs = s.hart.sregs
      let q := getQueue s b.queue
      let r := { t.rc with yielded := some b.tid }
      let l := leaveTask b (resumeHere s)
      (otherMembers s t ≠ [] → ∃ v, exec .taskYield s = .next v ∧ gone v ∧ SameMem s v ∧ v.queues = s.queues) ∧
      (otherMembers s t = [] → q.onchip.length < 32 →
        ∃ v, exec .taskYield s = .next v ∧ gone v ∧ SameMem s v ∧ (getQueue v b.queue).onchip = r :: q.onchip) ∧
      (otherMembers s t = [] → 32 ≤ q.onchip.length →
        (∀ w, unspill b.queue (q.onchip.getLastD {}) l = some w → w.stop = none →
          ∃ v, exec .taskYield s = .next v ∧ gone v ∧ (getQueue v b.queue).onchip = r :: q.onchip.dropLast ∧
            (getQueue v b.queue).spilled = q.spilled + 1) ∧
        (unspill b.queue (q.onchip.getLastD {}) l = none →
          ∃ v, exec .taskYield s = .next v ∧ v.hart.status = .waiting .stream ∧ v.hart.bound = some b ∧ SameMem s v)))

/-- R201, R202, R49 to R53: futures. A full word gives its value and status 0, an empty one defers the request and the hart
waits, and a full deferral buffer gives status 1; `fut.st` fills an empty word and gives 0, and leaves a full one and gives
1; `fut.clr` empties the word and gives what its bit was; that it asks for write access is the model's choice (log 82), and that it
follows the hart's buffered stores the model's reading (log 31). The answer to a deferred `fut.ld` reaches its registers, the status
last when both name one. -/
def Obligations.Futures : Prop :=
  (∀ (d a b : BitVec 5) (s : State) (pa mt : Nat), Clean s [a, b] →
      (s.hart.answer = none → s.deferred.any (fun x => x.hart = s.hn) = false →
        ScalarAccess (needFut true false) (getS s a) 8 (.pa pa) mt false s →
        let v := accessState (getS s a) false (.pa pa) mt 8 false s
        let u := if buffered v (.pa pa) 8 then drainStores v else v
        u.stop = none → (buffered v (.pa pa) 8 = true → u.hart.storeBuf = []) →
        (isFull u pa = true → exec (.futLd d a b) s = .next (setS b 0 (setS d (word (getMem u pa 8)) (resumeHere u)))) ∧
        (isFull u pa = false → deferredAt u (homeOf pa) < 256 →
          ∃ t, exec (.futLd d a b) s = .next t ∧ t.hart.status = .waiting .future ∧
            t.deferred = u.deferred ++ [{ hart := s.hn, pa := pa, d := d.toNat, b := b.toNat }]) ∧
        (isFull u pa = false → 256 ≤ deferredAt u (homeOf pa) → exec (.futLd d a b) s = .next (setS b 1 (resumeHere u)))) ∧
      (ScalarAccess (needFut false true) (getS s a) 8 (.pa pa) mt false s →
        let v := accessState (getS s a) false (.pa pa) mt 8 true s
        let u := releaseState v
        (u.stop = none → unperformed u = false →
          (isFull u pa = true → exec (.futSt d a b) s = .next (setS d 1 (resumeHere u))) ∧
          (isFull u pa = false → ∃ t, exec (.futSt d a b) s = .next t ∧ (d ≠ 0 → getS t d = 0) ∧ isFull t pa = true ∧
            Stored (.pa pa) 8 (getS s b).toNat u t)) ∧
        ((drainStores v).stop = none → (drainStores v).hart.storeBuf = [] →
          ∃ t, exec (.futClr d a) s = .next t ∧ (d ≠ 0 → getS t d = if isFull (drainStores v) pa then 1 else 0) ∧
            isFull t pa = false ∧ SameMem (drainStores v) t))) ∧
  (∀ (d a b : BitVec 5) (v st : Word) (s : State), s.stop = none → s.hart.answer = some (v, st) →
      let u : State := { s with hart := { s.hart with status := .running, answer := none } }
      (st = 0 → exec (.futLd d a b) s = .next (setS b 0 (setS d v u))) ∧
      (st = 1 → exec (.futLd d a b) s = .next (setS b 1 u)))

/-- R203 to R206: `fence` answers once the accesses of the kinds that it names have performed, and leaves the stores alone where it
names neither them nor streams; `drain` answers once the queue that it names is empty: of the VQ (which also retires the combining
entries, R230), of matrix instructions, of streams up to their last headlands, of values due to scalar registers, of conditions;
neither changes a register; `garrive` counts an arrival, once the hart's earlier accesses have performed, and the phase completes
with the last member's, on a hart or displaced (R206); `gwait` gives the phase in sd once it has passed, and traps when it carried
an error. -/
def Obligations.FencesAndBarrier : Prop :=
  (∀ (k : BitVec 5) (c : BitVec 4) (s : State),
    let u := fencedState k.toNat s
    u.stop = none → (nbit k.toNat 1 = true → u.hart.storeBuf = []) → (nbit k.toNat 2 = true → inFlight u u.hn = []) →
    queuedKinds u.hart k.toNat = false →
    exec (.fence k c) s = .next (resumeHere u) ∧ u.hart.sregs = s.hart.sregs ∧
      (nbit k.toNat 0 = true ∨ nbit k.toNat 1 = true → (getCore u (myCore s)).comb = []) ∧
      (nbit k.toNat 1 = false → nbit k.toNat 2 = false → u.hart.storeBuf = s.hart.storeBuf)) ∧
  (∀ (q : BitVec 5) (s : State),
    let u := if q.toNat = 2 then sendAll s.hn s else s
    let no (p : VqEntry → Act → Bool) : Prop := ∀ e ∈ u.hart.vq, ∀ a ∈ e.acts, p e a = false
    u.stop = none → (q.toNat = 0 → s.hart.vq = []) →
    (q.toNat = 1 → u.hart.mq = [] ∧ no (fun e a => !slotDone e a.slot && majOf a.w.toNat = 0x35)) →
    (q.toNat = 2 → inFlight u u.hn = [] ∧ no (fun e a => !slotDone e a.slot && isStream a.w.toNat)) →
    (q.toNat = 3 → no (fun _ a => (producesReg a.w.toNat).any (· != 0))) →
    (q.toNat = 4 → no (fun _ a => producesCond a.w.toNat)) → q.toNat ≤ 4 →
    ∃ t, exec (.drain q) s = .next t ∧ t.hart.status = .running ∧ t.hart.sregs = s.hart.sregs ∧
      (q.toNat = 0 → (getCore t (myCore s)).comb = []) ∧ (q.toNat = 2 → inFlight t t.hn = [])) ∧
  (∀ s : State,
    let u := releaseState s
    let me := Member.hart u.hn
    u.stop = none → unperformed u = false → u.hart.pendArrivals = [] → (getCore u (myCore u)).comb = [] →
    (u.hart.frozenAt < u.order ∨ (u.hart.shadow = [] ∧ u.hart.smq = [])) →
    (∀ x ∈ gangHolders u me, (barrierOf u x).heldArrivals = []) → u.hart.arrived = false →
    ∃ t, exec .garrive s = .next t ∧ t.hart.sregs = s.hart.sregs ∧ t.mem = u.mem ∧
      ((∃ n ∈ myGang u, n ≠ mySeat u ∧ (holderOf u me n).all (fun x => !(barrierOf u x).arrived) = true) →
        t.hart.arrived = true ∧ t.hart.phase = u.hart.phase) ∧
      ((∀ n ∈ myGang u, n ≠ mySeat u → (holderOf u me n).any (fun x => (barrierOf u x).arrived) = true) →
        ∀ x ∈ gangHolders u me,
          (barrierOf t x).arrived = false ∧ (barrierOf t x).phase = (barrierOf u x).phase + 1)) ∧
  (∀ (d : BitVec 5) (s : State), s.stop = none → phasePassed s.hart = true →
    (s.hart.gerr = false ∨ s.hart.joined = none → exec (.gwait d) s = .next (setS d (s.hart.phase.setWidth 64)
      { s with hart := { s.hart with status := .running, answer := none } })) ∧
    (s.hart.gerr = true → s.hart.joined.isSome = true → TrapRoom s →
      ∃ t, exec (.gwait d) s = .next t ∧ (d ≠ 0 → getS t d = s.hart.phase.setWidth 64) ∧ t.hart.tval = s.hart.gerrWord ∧
        t.hart.cause = (if wbit s.hart.gerrWord 57 && wbit s.hart.gerrWord 59 then 19 else 18)))

/-- R207: `ing.take` gives the oldest token of an unbound ingress channel of its owner with its number, and `egr.post`, a
release, appends a token to an egress channel and gives its number; a channel that is not the hart's traps with CHANNEL
(23). R208: `pcwait` gives the header once it has reached its target, and waits until then. -/
def Obligations.ChannelsAndSheaves : Prop :=
  ∀ (d a b : BitVec 5) (c : BitVec 4) (s : State), s.stop = none → s.hart.pmode = false → Clean s [a, b] →
    let n := (getS s a).toNat
    (badChannel s (getS s a) (getIn s n) = false → (getIn s n).isBound = false →
      ∀ (k v : BitVec 32) (rest : List (BitVec 32 × BitVec 32)), (getIn s n).tokens = (k, v) :: rest →
      ∃ t, exec (.ingTake d a) s = .next t ∧ (d ≠ 0 → getS t d = word (k.toNat * 2 ^ 32 + v.toNat)) ∧
        (getIn t n).tokens = rest ∧ (getIn t n).cons = (getIn s n).cons + 1 ∧ SameMem s t) ∧
    (badChannel s (getS s a) (getIn s n) = true → TrapRoom s →
      ∃ t, exec (.ingTake d a) s = .next t ∧ EntersHandler 23 (curWord s) (epcHere s) s t) ∧
    (badChannel s (getS s a) (getOut s n) = false → (releaseState s).stop = none → unperformed (releaseState s) = false →
      (getOut s n).tokens.length < 64 →
      ∃ t, exec (.egrPost d a b) s = .next t ∧ (d ≠ 0 → getS t d = (getOut s n).prod.setWidth 64) ∧
        (getOut t n).tokens = (getOut s n).tokens ++ [((getOut s n).prod, (getS s b).setWidth 32)] ∧
        (getOut t n).prod = (getOut s n).prod + 1 ∧
        (getOut t n).irqs = (getOut s n).irqs + (if wbit (getOut s n).ctl 61 then 1 else 0)) ∧
    (∀ (pa mt : Nat),
      ScalarAccess { rd := true, mtMax := 0, window := false, always := true, align := 8 } (getS s a) 8 (.pa pa) mt false s →
      let v := accessState (getS s a) false (.pa pa) mt 8 false s
      let u := if partlyBuffered v (.pa pa) 8 then drainStores v else v
      v.stop = none → partlyBuffered u (.pa pa) 8 = false →
      (headerReached (word (ownRead u (.pa pa) 8)) (getS s b) = true →
        exec (.pcwait d a b c) s = .next (setS d (word (ownRead u (.pa pa) 8)) u)) ∧
      (headerReached (word (ownRead u (.pa pa) 8)) (getS s b) = false →
        ∃ t, exec (.pcwait d a b c) s = .next t ∧ t.hart.status = .waiting .pcwait ∧ t.hart.sregs = s.hart.sregs ∧ t.mem = u.mem))

namespace Sys2Proof.Claims

/-! Integer vector arithmetic (R231 to R237) -/

/-- The three forms of an operation, the widths of its destination and of va in units of sew, and its exact result for a
and b as unsigned numbers; the result is taken modulo 2 to the destination's width. -/
structure IntOp where
  vv : BitVec 6 → BitVec 6 → BitVec 6 → BitVec 3 → Instr
  vx : BitVec 6 → BitVec 6 → BitVec 5 → BitVec 3 → Instr
  wd : Nat := 1
  wa : Nat := 1
  f : Nat → Nat → Nat → Int

/-- x clamped to [lo, hi]. -/
def clampTo (lo hi x : Int) : Int := max lo (min hi x)

/-- R236, R237 for sew = w. -/
def intOps : List IntOp :=
  [{ vv := .vaddVv, vx := .vaddVx, f := fun _ a b => a + b },
   { vv := .vsubVv, vx := .vsubVx, f := fun _ a b => a - b },
   { vv := .vrsubVv, vx := .vrsubVx, f := fun _ a b => b - a },
   { vv := .vmulVv, vx := .vmulVx, f := fun _ a b => a * b },
   { vv := .vmulhIVv, vx := .vmulhIVx, f := fun w a b => sext a w * sext b w / 2 ^ w },
   { vv := .vmulhNVv, vx := .vmulhNVx, f := fun w a b => (a : Int) * b / 2 ^ w },
   { vv := .vdivIVv, vx := .vdivIVx, f := fun w a b => if b = 0 then -1 else (sext a w).tdiv (sext b w) },
   { vv := .vdivNVv, vx := .vdivNVx, f := fun _ a b => if b = 0 then -1 else (a : Int) / b },
   { vv := .vremIVv, vx := .vremIVx, f := fun w a b => if b = 0 then a else (sext a w).tmod (sext b w) },
   { vv := .vremNVv, vx := .vremNVx, f := fun _ a b => if b = 0 then a else (a : Int) % b },
   { vv := .vminIVv, vx := .vminIVx, f := fun w a b => min (sext a w) (sext b w) },
   { vv := .vminNVv, vx := .vminNVx, f := fun _ a b => min (a : Int) b },
   { vv := .vmaxIVv, vx := .vmaxIVx, f := fun w a b => max (sext a w) (sext b w) },
   { vv := .vmaxNVv, vx := .vmaxNVx, f := fun _ a b => max (a : Int) b },
   { vv := .vandVv, vx := .vandVx, f := fun _ a b => (Nat.land a b : Nat) },
   { vv := .vorVv, vx := .vorVx, f := fun _ a b => (Nat.lor a b : Nat) },
   { vv := .vxorVv, vx := .vxorVx, f := fun _ a b => (Nat.xor a b : Nat) },
   { vv := .vsllVv, vx := .vsllVx, f := fun w a b => (a : Int) * 2 ^ (b % w) },
   { vv := .vsrlVv, vx := .vsrlVx, f := fun w a b => (a : Int) / 2 ^ (b % w) },
   { vv := .vsraVv, vx := .vsraVx, f := fun w a b => sext a w / 2 ^ (b % w) },
   { vv := .vsaddIVv, vx := .vsaddIVx, f := fun w a b => clampTo (-2 ^ (w - 1)) (2 ^ (w - 1) - 1) (sext a w + sext b w) },
   { vv := .vsaddNVv, vx := .vsaddNVx, f := fun w a b => clampTo 0 (2 ^ w - 1) ((a : Int) + b) },
   { vv := .vssubIVv, vx := .vssubIVx, f := fun w a b => clampTo (-2 ^ (w - 1)) (2 ^ (w - 1) - 1) (sext a w - sext b w) },
   { vv := .vssubNVv, vx := .vssubNVx, f := fun w a b => clampTo 0 (2 ^ w - 1) ((a : Int) - b) },
   { vv := .vavgIVv, vx := .vavgIVx, f := fun w a b => (sext a w + sext b w + 1) / 2 },
   { vv := .vavgNVv, vx := .vavgNVx, f := fun _ a b => ((a : Int) + b + 1) / 2 },
   { vv := .vwaddIVv, vx := .vwaddIVx, wd := 2, f := fun w a b => sext a w + sext b w },
   { vv := .vwaddNVv, vx := .vwaddNVx, wd := 2, f := fun _ a b => (a : Int) + b },
   { vv := .vnarrowIVv, vx := .vnarrowIVx, wa := 2, f := fun w a b =>
      clampTo (-2 ^ (w - 1)) (2 ^ (w - 1) - 1) (sext a (2 * w) / 2 ^ (b % (2 * w))) },
   { vv := .vnarrowNVv, vx := .vnarrowNVx, wa := 2, f := fun w a b => clampTo 0 (2 ^ w - 1) ((a : Int) / 2 ^ (b % (2 * w))) }]

/-- The immediate forms: imm8 sign-extended (R147), and the immediates that are read as unsigned. -/
def intOpsI : List ((BitVec 6 → BitVec 6 → BitVec 8 → BitVec 3 → Instr) × (BitVec 8 → Int) × (Nat → Nat → Nat → Int)) :=
  [(.vaddVi, BitVec.toInt, fun _ a b => a + b),
   (.vrsubVi, BitVec.toInt, fun _ a b => b - a),
   (.vandVi, BitVec.toInt, fun _ a b => (Nat.land a b : Nat)),
   (.vorVi, BitVec.toInt, fun _ a b => (Nat.lor a b : Nat)),
   (.vxorVi, BitVec.toInt, fun _ a b => (Nat.xor a b : Nat)),
   (.vsaddIVi, BitVec.toInt, fun w a b => clampTo (-2 ^ (w - 1)) (2 ^ (w - 1) - 1) (sext a w + sext b w)),
   (.vsaddNVi, fun i => i.toNat, fun w a b => clampTo 0 (2 ^ w - 1) ((a : Int) + b)),
   (.vminIVi, BitVec.toInt, fun w a b => min (sext a w) (sext b w)),
   (.vminNVi, fun i => i.toNat, fun _ a b => min (a : Int) b),
   (.vmaxIVi, BitVec.toInt, fun w a b => max (sext a w) (sext b w)),
   (.vmaxNVi, fun i => i.toNat, fun _ a b => max (a : Int) b)]

/-- Shifts by imm6, with the width of va in units of sew. -/
def intShiftsI : List ((BitVec 6 → BitVec 6 → BitVec 6 → BitVec 3 → Instr) × Nat × (Nat → Nat → Nat → Int)) :=
  [(.vsllVi, 1, fun w a b => (a : Int) * 2 ^ (b % w)),
   (.vsrlVi, 1, fun w a b => (a : Int) / 2 ^ (b % w)),
   (.vsraVi, 1, fun w a b => sext a w / 2 ^ (b % w)),
   (.vnarrowIVi, 2, fun w a b =>
      clampTo (-2 ^ (w - 1)) (2 ^ (w - 1) - 1) (sext a (2 * w) / 2 ^ (b % (2 * w)))),
   (.vnarrowNVi, 2, fun w a b => clampTo 0 (2 ^ w - 1) ((a : Int) / 2 ^ (b % (2 * w))))]

/-! Floating point (R238 to R243) -/

/-- An operation on elements under a format word: how it is written, whether it reads vb and vd, the words that R129 and its
own rule admit, the width of its result, and its result from the bits of a, b and d at element i. -/
structure FloatOp where
  ins : BitVec 6 → BitVec 6 → BitVec 6 → BitVec 3 → BitVec 3 → Instr
  readsB : Bool := true
  readsD : Bool := false
  ok : Word → Prop
  wd : Word → Nat := fun w => fmtStore (fmtD w)
  val : Word → Nat → Nat → Nat → Nat → Nat

/-- [31:30] is zero, and RND names a rounding mode (R128, R129). -/
def fmtReserved (w : Word) : Prop := wfld w 30 2 = 0
def fmtRounds (w : Word) : Prop := fmtRnd w ≤ 5

/-- Binary formats: FP64, FP32, BF16, FP16. -/
def binOk (w : Word) : Prop := fmtReserved w ∧ fmtRounds w ∧ fmtA w ≤ 3 ∧ fmtB w ≤ 3 ∧ fmtD w ≤ 3
def unOk (w : Word) : Prop := fmtReserved w ∧ fmtRounds w ∧ fmtA w ≤ 3 ∧ fmtD w ≤ 3

/-- The values of the operands, with FTZI (R134), and the rounding to FD. -/
def valA (w : Word) (x : Nat) : FVal := Machine.decode (fmtA w) x (fmtFtzi w)
def valB (w : Word) (y : Nat) : FVal := Machine.decode (fmtB w) y (fmtFtzi w)
def valD (w : Word) (z : Nat) : FVal := Machine.decode (fmtD w) z (fmtFtzi w)
def toD (w : Word) (i : Nat) (v : FVal) : Nat := roundTo (fmtD w) (rndOf w i) v

def floatOps : List FloatOp :=
  [{ ins := .vfadd, ok := binOk, val := fun w x y _ i => toD w i (fAdd (fmtRnd w) (valA w x) (valB w y)) },
   { ins := .vfsub, ok := binOk, val := fun w x y _ i => toD w i (fAdd (fmtRnd w) (valA w x) (valB w y).neg) },
   { ins := .vfmul, ok := binOk, val := fun w x y _ i => toD w i (fMul (valA w x) (valB w y)) },
   { ins := .vfdiv, ok := binOk, val := fun w x y _ i => toD w i (fDiv (valA w x) (valB w y)) },
   { ins := .vfmacc, readsD := true, ok := binOk, val := fun w x y z i =>
      toD w i (fAdd (fmtRnd w) (fMul (valA w x) (valB w y)) (valD w z)) },
   { ins := .vfnmacc, readsD := true, ok := binOk, val := fun w x y z i =>
      toD w i (fAdd (fmtRnd w) (fMul (valA w x) (valB w y)).neg (valD w z).neg) },
   { ins := .vfmsac, readsD := true, ok := binOk, val := fun w x y z i =>
      toD w i (fAdd (fmtRnd w) (fMul (valA w x) (valB w y)) (valD w z).neg) },
   { ins := .vfnmsac, readsD := true, ok := binOk, val := fun w x y z i =>
      toD w i (fAdd (fmtRnd w) (fMul (valA w x) (valB w y)).neg (valD w z)) },
   { ins := .vfmin, ok := fun w => fmtReserved w ∧ fmtA w ≤ 3 ∧ fmtA w = fmtD w ∧ fmtA w = fmtB w, val := fun w x y _ _ =>
      flushBits (fmtA w) (fmtFtzo w)
        (pickBits false (fmtA w) (flushBits (fmtA w) (fmtFtzi w) x) (flushBits (fmtA w) (fmtFtzi w) y)) },
   { ins := .vfmax, ok := fun w => fmtReserved w ∧ fmtA w ≤ 3 ∧ fmtA w = fmtD w ∧ fmtA w = fmtB w, val := fun w x y _ _ =>
      flushBits (fmtA w) (fmtFtzo w)
        (pickBits true (fmtA w) (flushBits (fmtA w) (fmtFtzi w) x) (flushBits (fmtA w) (fmtFtzi w) y)) },
   { ins := .vfcopysign, ok := fun w => fmtReserved w ∧ fmtA w ≤ 3 ∧ fmtA w = fmtD w ∧ fmtB w ≤ 3, val := fun w x y _ _ =>
      putFld x (fmtBits (fmtA w) - 1) 1 (fld y (fmtBits (fmtB w) - 1) 1) },
   { ins := .vfscale
     ok := fun w => fmtReserved w ∧ fmtRounds w ∧ fmtA w ≤ 3 ∧ fmtA w = fmtD w ∧ (fmtB w = 9 ∨ fmtB w = 11 ∨ fmtB w = 12)
     val := fun w x y _ i => toD w i (scaleBy (valA w x) (sext y (fmtBits (fmtB w)))) },
   { ins := fun d a _ => .vfsqrt d a, readsB := false, ok := unOk, val := fun w x _ _ i => toD w i (fSqrt (valA w x)) },
   { ins := fun d a _ => .vfabs d a, readsB := false, ok := fun w => fmtReserved w ∧ fmtA w ≤ 3 ∧ fmtA w = fmtD w
     val := fun w x _ _ _ => x % 2 ^ (fmtBits (fmtA w) - 1) },
   { ins := fun d a _ => .vfneg d a, readsB := false, ok := fun w => fmtReserved w ∧ fmtA w ≤ 3 ∧ fmtA w = fmtD w
     val := fun w x _ _ _ => Nat.xor x (2 ^ (fmtBits (fmtA w) - 1)) },
   { ins := fun d a _ => .vfround d a, readsB := false
     ok := fun w => fmtReserved w ∧ fmtRounds w ∧ fmtA w ≤ 3 ∧ fmtA w = fmtD w
     val := fun w x _ _ i => roundTo (fmtD w) {} (roundIntegral w (valA w x) i) },
   { ins := fun d a _ => .vfexp2f d a, readsB := false, ok := unOk, val := fun w x _ _ i => toD w i (fExp2 (valA w x)) },
   { ins := fun d a _ => .vfrecip d a, readsB := false, ok := unOk
     val := fun w x _ _ i => toD w i (fDiv (.fin false 1 0) (valA w x)) },
   { ins := fun d a _ => .vfrsqrt d a, readsB := false, ok := unOk, val := fun w x _ _ i => toD w i (fRsqrt (valA w x)) },
   { ins := fun d a _ => .vfclass d a, readsB := false, ok := fun w => fmtReserved w ∧ fmtA w ≤ 3
     wd := fun w => fmtStore (fmtA w), val := fun w x _ _ _ => classOf (fmtA w) x }]

/-- The groups that an operation reads, with their widths. -/
def floatSrcs (x : FloatOp) (w : Word) (d a b : Nat) : List (Nat × Nat) :=
  [(a, fmtStore (fmtA w))] ++ (if x.readsB then [(b, fmtStore (fmtB w))] else [])
    ++ (if x.readsD then [(d, fmtStore (fmtD w))] else [])

/-- v is finite and not zero. -/
def nonzero : FVal → Bool
  | .fin _ m _ => m != 0
  | _ => false

/-- e is the scale byte that R136 gives a block whose exact results are vs at the elements here. -/
structure BlockScale (code : Nat) (here : Nat → Prop) (vs : Nat → FVal) (e : Nat) : Prop where
  zero : (∀ i, here i → nonzero (vs i) = false) → e = 127
  top : ∀ i, here i → nonzero (vs i) = true → (∀ k, here k → nonzero (vs k) = true → fLog2 (vs k) ≤ fLog2 (vs i)) →
    (e : Int) = min 254 (max 0 (fLog2 (vs i) - emaxOf code + 127))

/-- Element i is an active one below `vl` of block j (R135, R136). -/
def InBlock (m : Nat) (s : State) (j i : Nat) : Prop := i / 256 = j ∧ i < vlN s ∧ governs s m i = true

/-- `vfcvt` under BSD = 1 has converted the exact results val into group d, elements of wd bits, and each block's scale into
register sd. -/
structure WroteScaled (m d wd sd : Nat) (w : Word) (val : Nat → FVal) (s t : State) : Prop where
  frame : VecOnly s t
  issuing : Issuing t
  vstart : t.hart.vstart = 0
  scale : ∀ j, firstElem s / 256 ≤ j → (∃ i, InBlock m s j i) → BlockScale (fmtD w) (InBlock m s j) val (elem t sd j 8)
  active : ∀ i, ActsOn m s i → elem t d i wd =
    roundTo (fmtD w) { rndOf w i with sat := true } (fScale (val i) (127 - (elem t sd (i / 256) 8 : Int))) % 2 ^ wd
  kept : ∀ i, i < s.hart.maxVl → ¬ ActsOn m s i → elem t d i wd = elem s d i wd
  scales : ∀ j, j < s.hart.vlmax / 8 → (j < firstElem s / 256 ∨ ¬ ∃ i, InBlock m s j i) → elem t sd j 8 = elem s sd j 8
  others : ∀ k, k ≠ sd → (k < d ∨ d + extent s wd ≤ k) → getV t k = getV s k

/-- cc of R244 for the sign of a - b. -/
def ccHolds (cc : Nat) (c : Int) : Bool :=
  if cc = 0 then c = 0 else if cc = 1 then c ≠ 0 else if cc = 2 then c < 0 else if cc = 3 then c ≤ 0
  else if cc = 4 then 0 < c else 0 ≤ c

end Sys2Proof.Claims

/-- R231 to R233, R236, R237, R147: an integer operation on two vectors, or on a vector and a scalar register's captured value or
an immediate, writes, to each active element, the exact result modulo 2 to its width, and nothing else: the other elements,
every other register and all else stay, and `vstart` is zero. -/
def Obligations.IntegerElementwise : Prop :=
  (∀ x ∈ intOps, ∀ (d a b : BitVec 6) (m : BitVec 3) (s : State), VectorReady s → s.hart.plane = false →
      let w := s.hart.sew
      max x.wd x.wa * w ≤ 64 → GroupsOk s d.toNat (x.wd * w) [(a.toNat, x.wa * w), (b.toNat, w)] →
      ∃ t, exec (x.vv d a b m) s = .next t ∧
        WroteGroup m.toNat d.toNat (x.wd * w) (fun i =>
          wrap (x.f w (srcElem s a.toNat i (x.wa * w)) (srcElem s b.toNat i w)) (x.wd * w)) s t) ∧
  (∀ x ∈ intOps, ∀ (d a : BitVec 6) (b : BitVec 5) (m : BitVec 3) (s : State), VectorReady s → s.hart.plane = false →
    let w := s.hart.sew
    max x.wd x.wa * w ≤ 64 → GroupsOk s d.toNat (x.wd * w) [(a.toNat, x.wa * w)] →
    ∃ t, exec (x.vx d a b m) s = .next t ∧
      WroteGroup m.toNat d.toNat (x.wd * w) (fun i =>
        wrap (x.f w (srcElem s a.toNat i (x.wa * w)) ((cap1 s).toNat % 2 ^ w)) (x.wd * w)) s t) ∧
  (∀ x ∈ intOpsI, ∀ (d a : BitVec 6) (i : BitVec 8) (m : BitVec 3) (s : State), VectorReady s → s.hart.plane = false →
    let w := s.hart.sew
    GroupsOk s d.toNat w [(a.toNat, w)] →
    ∃ t, exec (x.1 d a i m) s = .next t ∧
      WroteGroup m.toNat d.toNat w (fun k => wrap (x.2.2 w (srcElem s a.toNat k w) (wrap (x.2.1 i) w)) w) s t) ∧
  (∀ x ∈ intShiftsI, ∀ (d a i : BitVec 6) (m : BitVec 3) (s : State), VectorReady s → s.hart.plane = false →
    let w := s.hart.sew
    x.2.1 * w ≤ 64 → GroupsOk s d.toNat w [(a.toNat, x.2.1 * w)] →
    ∃ t, exec (x.1 d a i m) s = .next t ∧
      WroteGroup m.toNat d.toNat w (fun k => wrap (x.2.2 w (srcElem s a.toNat k (x.2.1 * w)) (i.toNat % 2 ^ w)) w) s t)

/-- R238 to R241, R243, R128, R129, R134: a floating-point operation whose format word is admitted writes the result of its
operands' values, rounded as the word says, to each active element of a group of FD's width, and nothing else. That 320 bits
decide the rounding of `2^a` is the model's inference (log 37). -/
def Obligations.FloatElementwise : Prop :=
  ∀ x ∈ floatOps, ∀ (d a b : BitVec 6) (m f : BitVec 3) (s : State), VectorReady s → s.hart.plane = false →
    let w := cap2 s
    x.ok w → GroupsOk s d.toNat (x.wd w) (floatSrcs x w d.toNat a.toNat b.toNat) →
    ∃ t, exec (x.ins d a b m f) s = .next t ∧
      WroteGroup m.toNat d.toNat (x.wd w) (fun i =>
        x.val w (srcElem s a.toNat i (fmtStore (fmtA w))) (srcElem s b.toNat i (fmtStore (fmtB w)))
          (srcElem s d.toNat i (fmtStore (fmtD w))) i) s t

/-- R242, R135, R136: a conversion takes a's value, times its block's scale where BSA = 1. With no destination scales it writes the
value rounded to FD; with BSD = 1 it writes a scale for each block that has an active element, and the value divided by that scale,
rounded to FD and saturated. -/
def Obligations.FloatConversion : Prop :=
  ∀ (d a : BitVec 6) (m f : BitVec 3) (s : State), VectorReady s → s.hart.plane = false →
    let w := cap2 s; let wd := fmtStore (fmtD w); let sd := fmtSreg w + 2
    let val (i : Nat) : FVal := if fmtBsa w = 1 then
        fMul (valA w (srcElem s a.toNat i (fmtStore (fmtA w)))) (e8m0 (srcElem s (fmtSreg w) (i / 256) 8))
      else valA w (srcElem s a.toNat i (fmtStore (fmtA w)))
    badCvt s.hart.vnreg w = false → GroupsOk s d.toNat wd [(a.toNat, fmtStore (fmtA w))] →
    (fmtBsa w = 1 → ringOkSrc s (fmtSreg w) 1 = true ∧ overlaps d.toNat (extent s wd) (fmtSreg w) 1 = false ∧
      overlaps d.toNat (extent s wd) (ringSrc s (fmtSreg w)) 1 = false) →
    (fmtBsd w = 0 → ∃ t, exec (.vfcvt d a m f) s = .next t ∧ WroteGroup m.toNat d.toNat wd (fun i => toD w i (val i)) s t) ∧
    (fmtBsd w = 1 → vlN s ≤ s.hart.maxVl → inRing s sd 1 = false → overlaps d.toNat (extent s wd) sd 1 = false →
      overlaps sd 1 a.toNat (extent s (fmtStore (fmtA w))) = false →
      (∀ e ∈ s.hart.iss.dests, overlaps sd 1 e.1 e.2 = false) →
      ∃ t, exec (.vfcvt d a m f) s = .next t ∧ WroteScaled m.toNat d.toNat wd sd w val s t)

/-- R244: a comparison writes its condition to each active bit of a mask register, and nothing else; a NaN makes every
condition false but ne. -/
def Obligations.VectorCompares : Prop :=
  (∀ (c d : BitVec 3) (a b : BitVec 6) (m : BitVec 3) (s : State), VectorReady s → s.hart.plane = false →
    let w := s.hart.sew
    srcOk s a.toNat w = true → srcOk s b.toNat w = true →
    (∃ t, exec (.vcmpI c d a b m) s = .next t ∧ WroteMask m.toNat d.toNat (fun i =>
      ccHolds c.toNat (sext (srcElem s a.toNat i w) w - sext (srcElem s b.toNat i w) w)) s t) ∧
    (∃ t, exec (.vcmpN c d a b m) s = .next t ∧ WroteMask m.toNat d.toNat (fun i =>
      ccHolds c.toNat ((srcElem s a.toNat i w : Int) - srcElem s b.toNat i w)) s t)) ∧
  (∀ (c d : BitVec 3) (a b : BitVec 6) (m f : BitVec 3) (s : State), VectorReady s → s.hart.plane = false →
    let w := cap2 s
    fmtReserved w → fmtA w ≤ 3 → fmtB w ≤ 3 →
    srcOk s a.toNat (fmtStore (fmtA w)) = true → srcOk s b.toNat (fmtStore (fmtB w)) = true →
    ∃ t, exec (.vcmpF c d a b m f) s = .next t ∧ WroteMask m.toNat d.toNat (fun i =>
      match fCmp (valA w (srcElem s a.toNat i (fmtStore (fmtA w)))) (valB w (srcElem s b.toNat i (fmtStore (fmtB w)))) with
      | some k => ccHolds c.toNat k
      | none => decide (c.toNat = 1)) s t)

namespace Sys2Proof.Claims

/-! Masks and permutes (R245 to R249) -/

/-- R245: the operations on two masks. -/
def maskOps : List ((BitVec 3 → BitVec 3 → BitVec 3 → BitVec 3 → Instr) × (Bool → Bool → Bool)) :=
  [(.mand, fun x y => x && y), (.mor, fun x y => x || y), (.mxor, fun x y => x != y), (.mandn, fun x y => x && !y)]

/-- The bits below `vl` that mask m governs; under the plane width a bit stands for eight elements (R113). -/
def BitActs (m : Nat) (s : State) (i : Nat) : Prop :=
  firstElem s / maskUnit s ≤ i ∧ i * maskUnit s < vlN s ∧ governs s m i = true

/-- Bits of mask a below `vl` that are set and that mask m governs. -/
def setBits (s : State) (a m : Nat) : List Nat :=
  (List.range 8192).filter (fun i => decide (i * maskUnit s < vlN s) && governs s m i && maskBit s a i)

/-- c of R247: the set bits of mask m below i. -/
def bitsBelow (s : State) (m i : Nat) : Nat := ((List.range i).filter (maskBit s m)).length

/-- A group of sew bits that a permute may write, apart from the sources in apart (R233, R249), and sources that it may
read. -/
structure PermuteOk (s : State) (d : Nat) (srcs apart : List Nat) : Prop where
  groups : GroupsOk s d s.hart.sew (srcs.map (fun v => (v, s.hart.sew)))
  disjoint : ∀ v ∈ apart, disjoint s d s.hart.sew v s.hart.sew = true ∧ disjoint s d s.hart.sew (ringSrc s v) s.hart.sew = true

/-- va[j], or 0 at or beyond C (R248, R249). -/
def inCapacity (s : State) (a j : Nat) : Nat :=
  if j < s.hart.grp * s.hart.vlmax / s.hart.sew then srcElem s a j s.hart.sew else 0

/-! Reductions (R141, R142, R250 to R252) -/

/-- R251 for `.i` and `.n` at sew = w. -/
noncomputable def intReductions : List ((BitVec 6 → BitVec 6 → BitVec 3 → Instr) × (Nat → Nat → Nat → Int)) :=
  [(.vredsumOI, fun _ x y => x + y), (.vredsumON, fun _ x y => x + y), (.vredsumTI, fun _ x y => x + y),
   (.vredsumTN, fun _ x y => x + y), (.vredmaxI, fun w x y => max (sext x w) (sext y w)), (.vredmaxN, fun _ x y => max (x : Int) y),
   (.vredminI, fun w x y => min (sext x w) (sext y w)), (.vredminN, fun _ x y => min (x : Int) y),
   (.vredandI, fun _ x y => (Nat.land x y : Nat)), (.vredandN, fun _ x y => (Nat.land x y : Nat)),
   (.vredorI, fun _ x y => (Nat.lor x y : Nat)), (.vredorN, fun _ x y => (Nat.lor x y : Nat)),
   (.vredxorI, fun _ x y => (Nat.xor x y : Nat)), (.vredxorN, fun _ x y => (Nat.xor x y : Nat))]

/-- The active elements below `vl`, ascending. -/
def activeList (s : State) (m : Nat) : List Nat := (List.range (vlN s)).filter (governs s m)

/-- The node of R142 at level l and position p, built from its two halves; x gives the leaves, absent as none. -/
def treeNode (w : Word) (n : Nat) (x : Nat → Option FVal) : Nat → Nat → Option FVal
  | 0, p => x p
  | l + 1, p =>
    match treeNode w n x l p, treeNode w n x l (p + 2 ^ l) with
    | some a, some b => some (Machine.decode (fmtD w) (toD w (n * l + p) (fAdd (fmtRnd w) a b)) false)
    | some a, none => some a
    | none, b => b

/-- A reduction of floating-point values: its instruction, and its result's bits from the words of the format, the state,
the source, the mask and the start value. -/
structure FloatReduction where
  ins : BitVec 6 → BitVec 6 → BitVec 3 → BitVec 3 → Instr
  val : Word → State → Nat → Nat → FVal → Nat

/-- The active values of a, ascending, with their indices. -/
def activeVals (w : Word) (s : State) (a m : Nat) : List (Nat × FVal) :=
  (activeList s m).map (fun i => (i, valA w (srcElem s a i (fmtStore (fmtA w)))))

/-- The extreme by value, -0 below +0, NaNs ignored (R251). -/
def extremeOf (greater : Bool) (x y : FVal) : FVal :=
  match fCmp x y with
  | none => if x = .nan then y else x
  | some c =>
    let less : Bool := decide (c < 0 ∨ (c = 0 ∧ x.isNeg = true ∧ y.isNeg = false))
    if less = greater then y else x

/-- R251 for `.f`: the ordered sum of R141, the tree of R142 and the extremes. -/
noncomputable def floatReductions : List FloatReduction :=
  [{ ins := .vredsumOF, val := fun w s a m st =>
      roundTo (fmtD w) {} ((activeVals w s a m).foldl
        (fun acc x => Machine.decode (fmtD w) (toD w x.1 (fAdd (fmtRnd w) acc x.2)) false) st) },
   { ins := .vredsumTF, val := fun w s a m st =>
      let n := 2 ^ Nat.clog 2 (vlN s)
      let x (i : Nat) : Option FVal :=
        if i < vlN s ∧ governs s m i = true then some (valA w (srcElem s a i (fmtStore (fmtA w)))) else none
      match treeNode w n x (Nat.clog 2 (vlN s)) 0 with
      | none => roundTo (fmtD w) {} st
      | some v => roundTo (fmtD w) {}
          (Machine.decode (fmtD w) (toD w (n * Nat.clog 2 (vlN s)) (fAdd (fmtRnd w) st v)) false) },
   { ins := .vredmaxF, val := fun w s a m st =>
      toD w 0 ((activeVals w s a m).foldl (fun acc x => extremeOf true acc x.2) st) },
   { ins := .vredminF, val := fun w s a m st =>
      toD w 0 ((activeVals w s a m).foldl (fun acc x => extremeOf false acc x.2) st) }]

/-- R252: a reduction starts at element 0, or is re-issued. -/
def startsWhole (s : State) : Prop := s.hart.vstart = 0 ∨ s.hart.vres = true

/-! Bit planes (R259 to R264) -/

/-- The value of element i of n planes from v, as R262 reads it: bit k is bit i of register v + k. -/
def planesOf (s : State) (v n i : Nat) (signed : Bool) : Int :=
  let x := ((List.range n).map (fun k => elem s (v + k) i 1 * 2 ^ k)).sum
  if signed then sext x n else x

/-- A and B of R260, where the ring may stand in (R76). -/
def planeA (s : State) (w : Word) (a i : Nat) : Int := planesOf s (ringSrc s a) (bpNa w) i (bpSga w)
def planeB (s : State) (w : Word) (i : Nat) : Int := planesOf s (ringSrc s (bpVb w)) (bpNb w) i (bpSgb w)

/-- The fit of R262 to nd planes: clamped where SAT = 1, else modulo 2^nd. -/
def planeSat (w : Word) (x : Int) : Int :=
  if bpSat w = false then x
  else if bpSgd w then clampTo (-2 ^ (bpNd w - 1)) (2 ^ (bpNd w - 1) - 1) x else clampTo 0 (2 ^ bpNd w - 1) x

/-- A bit-plane instruction: its planes, and the value that it writes for element i. -/
structure PlaneOp where
  ins : BitVec 6 → BitVec 6 → BitVec 5 → BitVec 3 → Instr
  srcs : Word → Nat → Nat → List (Nat × Nat)
  nd : Word → Nat := bpNd
  ok : Word → Prop := fun _ => True
  val : State → Word → Nat → Nat → Nat → Int

noncomputable def planeOps : List PlaneOp :=
  [{ ins := .vbadd, srcs := fun w _ a => [(a, bpNa w), (bpVb w, bpNb w)]
     val := fun s w _ a i => planeSat w (planeA s w a i + planeB s w i) },
   { ins := .vbmac, srcs := fun w d a => [(a, bpNa w), (bpVb w, bpNb w), (d, bpNd w)]
     val := fun s w d a i => planeSat w (planesOf s d (bpNd w) i (bpSgd w) + planeA s w a i * planeB s w i) },
   { ins := .vbcmp, srcs := fun w _ a => [(a, bpNa w), (bpVb w, bpNb w)], nd := fun _ => 1, ok := fun w => bpCc w ≤ 5
     val := fun s w _ a i => if ccHolds (bpCc w) (planeA s w a i - planeB s w i) then 1 else 0 },
   { ins := .vbpopc, srcs := fun w _ a => [(a, bpNa w)]
     val := fun s w _ a i => planeSat w (((List.range (bpNa w)).filter (fun k => elem s (ringSrc s a + k) i 1 = 1)).length : Nat) },
   { ins := .vbshl, srcs := fun w _ a => [(a, bpNa w)]
     val := fun s w _ a i => planeSat w (if bpRight w then planeA s w a i / 2 ^ bpSh w else planeA s w a i * 2 ^ bpSh w) }]

/-- The descriptor's reserved bits are zero (R260). -/
def descriptorOk (w : Word) : Prop := wfld w 34 30 = 0 ∧ wfld w 14 2 = 0

/-- n planes from d may be written, and the planes srcs read beside them (R261, R264, R153). -/
structure PlanesOk (s : State) (d n : Nat) (srcs : List (Nat × Nat)) : Prop where
  dst : d + n ≤ s.hart.vnreg ∧ inRing s d n = false
  src : ∀ x ∈ srcs, x.1 + x.2 ≤ s.hart.vnreg ∧ ringOkSrc s x.1 x.2 = true
  apart : ∀ x ∈ srcs, (overlaps d n x.1 x.2 = false ∨ (d = x.1 ∧ n = x.2)) ∧
    (overlaps d n (ringSrc s x.1) x.2 = false ∨ (d = ringSrc s x.1 ∧ n = x.2))
  fresh : ∀ e ∈ s.hart.iss.dests, overlaps d n e.1 e.2 = false

/-- Elements of the plane width that a mask governs, eight to a bit (R113). -/
def PlaneActs (m : Nat) (s : State) (i : Nat) : Prop := firstElem s ≤ i ∧ i < vlN s ∧ governs s m (i / 8) = true

/-- The vector side is ready under the plane width, with `vl` no more than R112 allows. -/
structure PlaneReady (s : State) : Prop extends VectorReady s where
  plane : s.hart.plane = true
  length : vlN s ≤ s.hart.vlmax

/-! Batched small matrices (R144, R265 to R267) -/

/-- Step j of an output element: the fused multiply-add of R144, or integers that wrap or saturate (R132). -/
def batchMac (w : Word) (x y : Nat → Nat) (e : Nat) (start : Nat) : Nat → Nat
  | 0 => start
  | j + 1 =>
    let acc := batchMac w x y e start j
    if fmtD w = 12 then
      wrap (if fmtSat w then clampTo (-2 ^ 31) (2 ^ 31 - 1) (sext acc 32 + sext (x j) 8 * sext (y j) 8)
        else sext acc 32 + sext (x j) 8 * sext (y j) 8) 32
    else
      toD w (e * 8 + j) (fAdd (fmtRnd w) (Machine.decode (fmtD w) acc (decide (j = 0) && fmtFtzi w))
        (fMul (valA w (x j)) (valB w (y j))))

/-- Formats of R266, without scales. -/
def batchFormat (w : Word) : Prop :=
  fmtReserved w ∧ fmtRounds w ∧ fmtBsa w = 0 ∧ fmtBsb w = 0 ∧ fmtBsd w = 0 ∧
    ((fmtA w ≤ 3 ∧ fmtB w ≤ 3 ∧ fmtD w ≤ 3) ∨ (fmtA w = 9 ∧ fmtB w = 9 ∧ fmtD w = 12))

/-- The groups of a batch hold `vl` items (R266), and lie apart. -/
structure BatchOk (s : State) (d a b na nb nd : Nat) (w : Word) : Prop where
  groups : GroupsOk s d (fmtStore (fmtD w)) [(a, fmtStore (fmtA w)), (b, fmtStore (fmtB w))]
  disjoint : ∀ x ∈ [(a, fmtStore (fmtA w)), (b, fmtStore (fmtB w))],
    disjoint s d (fmtStore (fmtD w)) x.1 x.2 = true ∧ disjoint s d (fmtStore (fmtD w)) (ringSrc s x.1) x.2 = true
  room : vlN s * na ≤ extent s (fmtStore (fmtA w)) * s.hart.vlmax / fmtStore (fmtA w) ∧
    vlN s * nb ≤ extent s (fmtStore (fmtB w)) * s.hart.vlmax / fmtStore (fmtB w) ∧
    vlN s * nd ≤ extent s (fmtStore (fmtD w)) * s.hart.vlmax / fmtStore (fmtD w)

/-- The slot has written val to the elements e of d whose item e / n it acts on, and to no other. -/
structure WroteItems (d w n : Nat) (here : Nat → Prop) (val : Nat → Nat) (s t : State) : Prop where
  frame : VecOnly s t
  issuing : Issuing t
  vstart : t.hart.vstart = 0
  active : ∀ e, here (e / n) → elem t d e w = val e % 2 ^ w
  kept : ∀ e, ¬ here (e / n) → elem t d e w = elem s d e w
  others : ∀ k, (∀ e, here (e / n) → k ≠ d + e * w / s.hart.vlmax) → getV t k = getV s k

end Sys2Proof.Claims

/-- R245, R113: a mask instruction writes its operation's result to each active bit of md, and nothing else, whatever its
operands and whatever the width. -/
def Obligations.MaskLogic : Prop :=
  (∀ x ∈ maskOps, ∀ (d a b m : BitVec 3) (s : State), Issuing s → s.hart.vill = false →
    ∃ t, exec (x.1 d a b m) s = .next t ∧
      WroteBits d.toNat (BitActs m.toNat s) (fun i => x.2 (maskBit s a.toNat i) (maskBit s b.toNat i)) s t) ∧
  (∀ (d m : BitVec 3) (s : State), Issuing s → s.hart.vill = false →
    ∃ t, exec (.mset d m) s = .next t ∧ WroteBits d.toNat (BitActs m.toNat s) (fun _ => true) s t)

/-- R246, R177, R248, R235: `mpopc` gives the number of active set bits and `mfirst` the lowest of them or all ones; s0 sends
a condition instead; `vmvx` gives an element, sign-extended, or zero beyond the group. -/
def Obligations.ValuesForScalars : Prop :=
  (∀ (d : BitVec 5) (a m : BitVec 3) (s : State), Issuing s → s.hart.vill = false → s.hart.mpois = [] →
    let l := setBits s a.toNat m.toNat
    (∃ t, exec (.mpopc d a m) s = .next t ∧
      GaveWhole (if d = 0 then .cond (decide (l ≠ [])) 0 else .reg d.toNat (word l.length) 0) s t) ∧
    (∃ t, exec (.mfirst d a m) s = .next t ∧
      GaveWhole (if d = 0 then .cond (decide (l ≠ [])) 0 else .reg d.toNat (match l with
        | [] => 0xFFFFFFFFFFFFFFFF
        | i :: _ => word i) 0) s t)) ∧
  (∀ (d : BitVec 5) (a : BitVec 6) (b : BitVec 5) (s : State), Issuing s → s.hart.vill = false → s.hart.plane = false →
    s.hart.vpois = [] → srcOk s a.toNat s.hart.sew = true →
    let j := (cap1 s).toNat; let w := s.hart.sew
    ∃ t, exec (.vmvx d a b) s = .next t ∧ GaveWhole (.reg d.toNat
      (if j < s.hart.grp * s.hart.vlmax / w then wordI (sext (srcElem s a.toNat j w) w) else 0) 0) s t)

/-- R247 to R249: the permutes that write every active element. -/
def Obligations.Permutes : Prop :=
  ∀ (d a b : BitVec 6) (x : BitVec 5) (k m : BitVec 3) (s : State), VectorReady s → s.hart.plane = false →
    let w := s.hart.sew
    (PermuteOk s d.toNat [] [] →
      (∃ t, exec (.vid d m) s = .next t ∧ WroteGroup m.toNat d.toNat w (fun i => i) s t) ∧
      (∃ t, exec (.viota d k m) s = .next t ∧ WroteGroup m.toNat d.toNat w (bitsBelow s k.toNat) s t) ∧
      (∃ t, exec (.vbcast d x m) s = .next t ∧ WroteGroup m.toNat d.toNat w (fun _ => (cap1 s).toNat) s t)) ∧
    (PermuteOk s d.toNat [a.toNat] [] →
      ∃ t, exec (.vmv d a m) s = .next t ∧ WroteGroup m.toNat d.toNat w (fun i => srcElem s a.toNat i w) s t) ∧
    (PermuteOk s d.toNat [a.toNat, b.toNat] [] →
      ∃ t, exec (.vmerge d a b m) s = .next t ∧ WroteGroup 0 d.toNat w (fun i =>
        if m = 0 ∨ maskBit s m.toNat i = true then srcElem s a.toNat i w else srcElem s b.toNat i w) s t) ∧
    (PermuteOk s d.toNat [a.toNat, b.toNat] [a.toNat] →
      ∃ t, exec (.vgather d a b m) s = .next t ∧
        WroteGroup m.toNat d.toNat w (fun i => inCapacity s a.toNat (srcElem s b.toNat i w)) s t) ∧
    (PermuteOk s d.toNat [a.toNat] [a.toNat] →
      ∃ t, exec (.vslidedown d a x m) s = .next t ∧
        WroteGroup m.toNat d.toNat w (fun i => inCapacity s a.toNat (i + (cap1 s).toNat)) s t)

/-- R247, R248: the instructions that write some of the active elements: `vslideup` none below sx, `vmvs` element 0 alone,
`vexpand` those with a set bit, and `vcompress` the packed places, one for each set bit. -/
def Obligations.PackingAndSlides : Prop :=
  ∀ (d a : BitVec 6) (x : BitVec 5) (k m : BitVec 3) (s : State), VectorReady s → s.hart.plane = false →
    let w := s.hart.sew
    (PermuteOk s d.toNat [] [] →
      ∃ t, exec (.vmvs d x m) s = .next t ∧
        WroteAt d.toNat w (fun i => i = 0 ∧ ActsOn m.toNat s i) (fun _ => (cap1 s).toNat) s t) ∧
    (PermuteOk s d.toNat [a.toNat] [a.toNat] →
      (∃ t, exec (.vslideup d a x m) s = .next t ∧
        WroteAt d.toNat w (fun i => ActsOn m.toNat s i ∧ (cap1 s).toNat ≤ i)
          (fun i => srcElem s a.toNat (i - (cap1 s).toNat) w) s t) ∧
      (∃ t, exec (.vexpand d a k) s = .next t ∧
        WroteAt d.toNat w (fun i => ActsOn 0 s i ∧ maskBit s k.toNat i = true)
          (fun i => srcElem s a.toNat (bitsBelow s k.toNat i) w) s t) ∧
      (∃ t, exec (.vcompress d a k) s = .next t ∧ VecOnly s t ∧ Issuing t ∧ t.hart.vstart = 0 ∧
        (∀ i, ActsOn 0 s i → maskBit s k.toNat i = true → i < s.hart.maxVl →
          elem t d.toNat (bitsBelow s k.toNat i) w = srcElem s a.toNat i w) ∧
        (∀ p, (∀ i, ActsOn 0 s i → maskBit s k.toNat i = true → p ≠ bitsBelow s k.toNat i) →
          elem t d.toNat p w = elem s d.toNat p w)))

/-- R250 to R252, R141, R142, R124, R134: an integer reduction folds the active elements, ascending, into the start value that
element 0 of vd holds, and writes element 0 alone. A floating-point reduction: the ordered sum, the tree of R142 as its nodes are
built from their halves, and the extremes; with no active element the result is the start value as it was read. -/
def Obligations.Reductions : Prop :=
  (∀ x ∈ intReductions, ∀ (d a : BitVec 6) (m : BitVec 3) (s : State), VectorReady s → s.hart.plane = false → startsWhole s →
      let w := s.hart.sew
      srcOk s a.toNat w = true → dstOk s d.toNat w = true →
      (∀ e ∈ s.hart.iss.dests, overlaps d.toNat (extent s w) e.1 e.2 = false) →
      ∃ t, exec (x.1 d a m) s = .next t ∧
        WroteFirst d.toNat w ((activeList s m.toNat).foldl (fun acc i => wrap (x.2 w acc (srcElem s a.toNat i w)) w)
          (elem s d.toNat 0 w)) s t) ∧
  (∀ x ∈ floatReductions, ∀ (d a : BitVec 6) (m f : BitVec 3) (s : State), VectorReady s → s.hart.plane = false → startsWhole s →
      let w := cap2 s; let wd := fmtStore (fmtD w)
      unOk w → srcOk s a.toNat (fmtStore (fmtA w)) = true → dstOk s d.toNat wd = true →
      (∀ e ∈ s.hart.iss.dests, overlaps d.toNat (extent s wd) e.1 e.2 = false) →
      ∃ t, exec (x.ins d a m f) s = .next t ∧
        WroteFirst d.toNat wd (x.val w s a.toNat m.toNat (valD w (elem s d.toNat 0 wd))) s t)

/-- R259 to R262, R264: a bit-plane instruction writes its value, fitted to nd planes, to each active element, and nothing
else; `vbtr` and `vbtri` turn elements to planes and back. -/
def Obligations.BitPlanes : Prop :=
  (∀ x ∈ planeOps, ∀ (d a : BitVec 6) (b : BitVec 5) (m : BitVec 3) (s : State), PlaneReady s →
    let w := cap1 s
    descriptorOk w → x.ok w → PlanesOk s d.toNat (x.nd w) (x.srcs w d.toNat a.toNat) →
    ∃ t, exec (x.ins d a b m) s = .next t ∧
      WrotePlanes d.toNat (x.nd w) (PlaneActs m.toNat s) (x.val s w d.toNat a.toNat) s t) ∧
  (∀ (d a : BitVec 6) (b : BitVec 5) (m : BitVec 3) (s : State), PlaneReady s →
    let w := cap1 s
    descriptorOk w →
    ((PlanesOk s d.toNat (bpNd w) [] ∧ a.toNat % 8 = 0 ∧ a.toNat + 8 ≤ s.hart.vnreg ∧ vlN s * bpEwb w ≤ 8 * s.hart.vlmax ∧
        bpNd w ≤ bpEwb w ∧ ringOkSrc s a.toNat 8 = true ∧ overlaps d.toNat (bpNd w) a.toNat 8 = false ∧
        overlaps d.toNat (bpNd w) (ringSrc s a.toNat) 8 = false) →
      ∃ t, exec (.vbtr d a b m) s = .next t ∧
        WrotePlanes d.toNat (bpNd w) (PlaneActs m.toNat s) (fun i => srcElem s a.toNat i (bpEwb w)) s t) ∧
    ((a.toNat + bpNa w ≤ s.hart.vnreg ∧ ringOkSrc s a.toNat (bpNa w) = true ∧ d.toNat % 8 = 0 ∧ d.toNat + 8 ≤ s.hart.vnreg ∧
        vlN s * bpEwb w ≤ 8 * s.hart.vlmax ∧ bpNa w ≤ bpEwb w ∧ inRing s d.toNat 8 = false ∧
        overlaps d.toNat 8 a.toNat (bpNa w) = false ∧ overlaps d.toNat 8 (ringSrc s a.toNat) (bpNa w) = false ∧
        (∀ e ∈ s.hart.iss.dests, overlaps d.toNat 8 e.1 e.2 = false)) →
      ∃ t, exec (.vbtri d a b m) s = .next t ∧
        WroteAt d.toNat (bpEwb w) (PlaneActs m.toNat s) (fun i => wrap (planeA s w a.toNat i) (bpEwb w)) s t))

/-- R144, R265 to R267: each active item of `vbmm` is a product of two k × k matrices that is added to d, and of `vbmv` one of
a matrix and a vector, one fused step after another. -/
def Obligations.BatchedMatrices : Prop :=
  ∀ (d a b : BitVec 6) (m : BitVec 3) (q f : BitVec 2) (s : State), VectorReady s → s.hart.plane = false →
    let w := cap2 s; let k := 2 * 2 ^ q.toNat; let wa := fmtStore (fmtA w); let wb := fmtStore (fmtB w); let wd := fmtStore (fmtD w)
    batchFormat w →
    (BatchOk s d.toNat a.toNat b.toNat (k * k) (k * k) (k * k) w →
      ∃ t, exec (.vbmm d a b m q f) s = .next t ∧ WroteItems d.toNat wd (k * k) (ActsOn m.toNat s) (fun e =>
        let i := e / (k * k); let r := e % (k * k) / k; let c := e % k
        batchMac w (fun j => srcElem s a.toNat (i * (k * k) + r * k + j) wa) (fun j => srcElem s b.toNat (i * (k * k) + j * k + c) wb)
          e (elem s d.toNat e wd) k) s t) ∧
    (BatchOk s d.toNat a.toNat b.toNat (k * k) k k w →
      ∃ t, exec (.vbmv d a b m q f) s = .next t ∧ WroteItems d.toNat wd k (ActsOn m.toNat s) (fun e =>
        batchMac w (fun j => srcElem s a.toNat (e * k + j) wa) (fun j => srcElem s b.toNat (e / k * k + j) wb)
          e (elem s d.toNat e wd) k) s t)
namespace Sys2Proof.Claims

/-! Vector memory instructions (R214 to R222, R228 to R230) -/

/-- An addressing form of R214: its instruction by d, the address's register, a second register, a mask and a width code; the
address of element i of n bytes; and the need of its access when it loads or stores (R222). -/
structure Form where
  ins : BitVec 6 → BitVec 5 → BitVec 6 → BitVec 3 → BitVec 3 → Instr
  addr : State → BitVec 6 → Nat → Nat → Word
  indexed : Bool := false

/-- base + i × eb, base + i × stride, base + idx × eb. -/
def unitAddr (s : State) (_ : BitVec 6) (n i : Nat) : Word := cap0 s + word (i * n)
def strideAddr (s : State) (_ : BitVec 6) (_ i : Nat) : Word := cap0 s + word i * cap1 s
def indexAddr (s : State) (x : BitVec 6) (n i : Nat) : Word := cap0 s + word (srcElem s x.toNat i s.hart.sew * n)

/-- The low five bits of a field, which name a scalar register. -/
def low5 (x : BitVec 6) : BitVec 5 := x.setWidth 5

noncomputable def loadForms : List Form :=
  [{ ins := fun d a _ m e => .vld d a m e, addr := unitAddr },
   { ins := fun d a x m e => .vlds d a (low5 x) m e, addr := strideAddr },
   { ins := fun d a x m e => .vldx d a x m e, addr := indexAddr, indexed := true }]

/-- The ordered stores and, after them, those that R218 leaves without an order. -/
noncomputable def storeForms : List (Form × Bool) :=
  [({ ins := fun d a _ m e => .vst d a m e, addr := unitAddr }, true),
   ({ ins := fun d a x m e => .vsts d a (low5 x) m e, addr := strideAddr }, true),
   ({ ins := fun d a x m e => .vstx d a x m e, addr := indexAddr, indexed := true }, true),
   ({ ins := fun d a _ m e => .vstu d a m e, addr := unitAddr }, false),
   ({ ins := fun d a x m e => .vstxu d a x m e, addr := indexAddr, indexed := true }, false)]

/-- What an element of n bytes needs: a gather or a scatter may not touch MT = 2 (R222). -/
def formNeed (need : Need) (indexed : Bool) : Need := { need with mtMax := if indexed then 1 else 2 }

/-- The destination of a load lies as R215 and R76 allow: a group outside the ring, or the ring's own base. -/
structure LoadGroup (s : State) (d w : Nat) : Prop where
  group : groupOk s d w = true
  place : inRing s d (extent s w) = false ∨ ∃ r, s.hart.ring = some r ∧ d = r.vb ∧ extent s w ≤ r.g
  fresh : ∀ e ∈ s.hart.iss.dests, overlaps (loadDest s d) (extent s w) e.1 e.2 = false

/-- An index group that may be read, and beside which d may be written (R215). -/
structure IndexGroup (s : State) (d w x : Nat) : Prop where
  src : srcOk s x s.hart.sew = true
  apart : overlaps d (extent s w) x (extent s s.hart.sew) = false ∨ (d = x ∧ extent s w = extent s s.hart.sew)
  apart' : overlaps (loadDest s d) (extent s w) (ringSrc s x) (extent s s.hart.sew) = false ∨
    (loadDest s d = ringSrc s x ∧ extent s w = extent s s.hart.sew)

/-- Bit q of R220 for element i. -/
def bitOfPlane (s : State) (i : Nat) : Nat :=
  let p := wfld (cap1 s) 32 32
  wfld (cap1 s) 0 32 + i / 64 * (if p = 0 then 64 else p) + i % 64

/-- The pitch that R220 allows. -/
def pitchOk (s : State) : Prop := wfld (cap1 s) 32 32 % 8 = 0 ∧ (wfld (cap1 s) 32 32 = 0 ∨ 64 ≤ wfld (cap1 s) 32 32)

/-- The image of R221 in words of 8 bytes: eight of the header, then the register's lane words. -/
def imageWord (s : State) (v j : Nat) : Nat :=
  if j = 0 then 2 ^ 63 + s.hart.vlmax else if j < 8 then 0 else elem s v (j - 8) 64

/-- The words of the image that a `vspill` writes. -/
def imageActs (s : State) (j : Nat) : Prop := j < 8 ∨ (firstElem s ≤ j - 8 ∧ j - 8 < s.hart.vlmax / 64)

/-- R229's f on elements of w bits. -/
noncomputable def amoF : List ((BitVec 6 → BitVec 5 → BitVec 6 → BitVec 3 → BitVec 1 → BitVec 1 → Instr) × (Nat → Nat → Nat → Int)) :=
  [(.vamoAdd, fun _ x y => x + y),
   (.vamoFadd, fun w x y =>
      let code := if w = 64 then 0 else 1
      (roundTo code {} (fAdd 0 (Machine.decode code x false) (Machine.decode code y false)) : Nat)),
   (.vamoMin, fun w x y => min (sext x w) (sext y w)), (.vamoMax, fun w x y => max (sext x w) (sext y w)),
   (.vamoAnd, fun _ x y => (Nat.land x y : Nat)), (.vamoOr, fun _ x y => (Nat.lor x y : Nat)),
   (.vamoXor, fun _ x y => (Nat.xor x y : Nat)), (.vamoSwap, fun _ _ y => y)]

/-- What place l holds after the active elements below i have each been applied to it once, in ascending order. -/
def amoSeen (f : Nat → Nat → Nat → Int) (w : Nat) (s : State) (m : Nat) (loc : Nat → Loc) (val : Nat → Nat) (l : Loc) (i : Nat) : Nat :=
  ((List.range i).filter (fun j => decide (firstElem s ≤ j) && governs s m j && decide (loc j = l))).foldl
    (fun old j => wrap (f w old (val j)) w) (readLoc s l (w / 8))

/-- The operand group of a vector atomic and its index group (R215, R228). A combining one only reads vd (R230), which may then
be the ring's base (R76). -/
structure AmoGroups (s : State) (d w x : Nat) (comb : Bool) : Prop where
  dst : (if comb then srcOk s d w else dstOk s d w) = true
  src : srcOk s x s.hart.sew = true
  apart : overlaps d (extent s w) x (extent s s.hart.sew) = false ∨ (d = x ∧ extent s w = extent s s.hart.sew)
  apart' : comb = false → overlaps d (extent s w) (ringSrc s x) (extent s s.hart.sew) = false ∨
    (d = ringSrc s x ∧ extent s w = extent s s.hart.sew)
  fresh : comb = false → ∀ e ∈ s.hart.iss.dests, overlaps d (extent s w) e.1 e.2 = false

end Sys2Proof.Claims

/-- R214 to R216, R219 to R221, R403, R405: a load whose checks pass reads memory into each active element and changes
nothing else; `vldff` trims `vl` where an element above the first fails, and reads one element of an MT = 2 page. `vl` is
within R112's largest. The lowest active element whose check fails is the element at which a load faults, with the cause of
the check and its address: the elements below it are loaded, and no other element changes. -/
def Obligations.VectorLoads : Prop :=
  (∀ x ∈ loadForms, ∀ (d : BitVec 6) (a : BitVec 5) (b : BitVec 6) (m e : BitVec 3) (s : State) (loc : Nat → Loc),
    VectorReady s → s.hart.plane = false → Quiet s → vlN s ≤ s.hart.maxVl →
    let w := memWidth s e; let n := w / 8
    w ≤ 64 → LoadGroup s d.toNat w → (x.indexed = true → IndexGroup s d.toNat w b.toNat) →
    LoadsAt (ActsOn m.toNat s) (formNeed (needLoad n) x.indexed) n (x.addr s b n) loc s →
    ∃ t, exec (x.ins d a b m e) s = .next t ∧
      WroteGroup m.toNat (loadDest s d.toNat) w (fun i => accRead s (loc i) n) s t) ∧
  (∀ (d : BitVec 6) (a : BitVec 5) (m e : BitVec 3) (s : State) (loc : Nat → Loc) (k : Nat),
    VectorReady s → s.hart.plane = false → Quiet s →
    let w := memWidth s e; let n := w / 8
    let fine (i : Nat) : Prop := ∃ mt, mt ≠ 2 ∧ check (freshPages s) (unitAddr s 0 n i) n (needLoad n) = .ok (loc i) mt false
    let stops (i : Nat) : Prop := ∀ l mt v, check (freshPages s) (unitAddr s 0 n i) n (needLoad n) = .ok l mt v → mt = 2
    w ≤ 64 → GroupsOk s d.toNat w [] → k ≤ vlN s → firstElem s ≤ k → (∀ i, ActsOn m.toNat s i → i < k → fine i) →
    (k = vlN s →
      ∃ t, exec (.vldff d a m e) s = .next t ∧ WroteGroup m.toNat d.toNat w (fun i => accRead s (loc i) n) s t) ∧
    (ActsOn m.toNat s k → stops k → firstElem s < k →
      ∃ t u, exec (.vldff d a m e) s = .next t ∧
        WroteAt d.toNat w (fun i => ActsOn m.toNat s i ∧ i < k) (fun i => accRead s (loc i) n) s u ∧
        t = updH (fun h => { h with vl := BitVec.ofNat 17 k }) u) ∧
    (ActsOn m.toNat s k → check (freshPages s) (unitAddr s 0 n k) n (needLoad n) = .ok (loc k) 2 false → firstElem s = k →
      ∃ t u, exec (.vldff d a m e) s = .next t ∧
        WroteAt d.toNat w (fun i => i = k) (fun i => accRead s (loc i) n) s u ∧
        t = updH (fun h => { h with vl := BitVec.ofNat 17 (k + 1) }) u)) ∧
  (∀ (d : BitVec 6) (a x : BitVec 5) (m : BitVec 3) (s : State) (loc : Nat → Loc),
    VectorReady s → s.hart.plane = true → Quiet s → pitchOk s → inRing s d.toNat 1 = false →
    (∀ e ∈ s.hart.iss.dests, overlaps d.toNat 1 e.1 e.2 = false) →
    LoadsAt (PlaneActs m.toNat s) (needLoad 1) 1 (fun i => cap0 s + word (bitOfPlane s i / 8)) loc s →
    ∃ t, exec (.vldp d a x m) s = .next t ∧
      WroteAt d.toNat 1 (PlaneActs m.toNat s) (fun i => accRead s (loc i) 1 / 2 ^ (bitOfPlane s i % 8)) s t) ∧
  (∀ (d : BitVec 6) (a : BitVec 5) (s : State) (hd : Loc) (loc : Nat → Loc) (mt : Nat),
    Issuing s → Quiet s → inRing s d.toNat 1 = false →
    (∀ e ∈ s.hart.iss.dests, overlaps d.toNat 1 e.1 e.2 = false) →
    check (freshPages s) (cap0 s) 64 { rd := true, align := 64 } = .ok hd mt false → accRead s hd 8 = 2 ^ 63 + s.hart.vlmax →
    LoadsAt (fun i => firstElem s ≤ i ∧ i < s.hart.vlmax / 64) (needLoad 8) 8 (fun i => cap0 s + word (64 + 8 * i)) loc s →
    ∃ t, exec (.vfill d a) s = .next t ∧
      WroteItems d.toNat 64 1 (fun i => firstElem s ≤ i ∧ i < s.hart.vlmax / 64) (fun i => accRead s (loc i) 8) s t) ∧
  (∀ x ∈ loadForms, ∀ (d : BitVec 6) (a : BitVec 5) (b : BitVec 6) (m e : BitVec 3) (s : State) (loc : Nat → Loc) (k c : Nat),
      VectorReady s → s.hart.plane = false → Quiet s → vlN s ≤ s.hart.maxVl →
      let w := memWidth s e; let n := w / 8; let need := formNeed (needLoad n) x.indexed
      w ≤ 64 → LoadGroup s d.toNat w → (x.indexed = true → IndexGroup s d.toNat w b.toNat) →
      LoadsAt (fun i => ActsOn m.toNat s i ∧ i < k) need n (x.addr s b n) loc s →
      ActsOn m.toNat s k → check (freshPages s) (x.addr s b n k) n need = .trap c →
      ∃ t, exec (x.ins d a b m e) s = .next t ∧
        FaultedAt k c (x.addr s b n k) (loadDest s d.toNat) w (ActsOn m.toNat s) (fun i => accRead s (loc i) n) s t)

/-- R217, R218, R220, R221: a store whose checks pass writes each active element to memory, and no other byte of memory
changes; of several elements at one byte the highest stands there, or, where the order is open, one of them. -/
def Obligations.VectorStores : Prop :=
  (∀ x ∈ storeForms, ∀ (d : BitVec 6) (a : BitVec 5) (b : BitVec 6) (m e : BitVec 3) (s : State) (loc : Nat → Loc),
    VectorReady s → s.hart.plane = false → Quiet s →
    let w := memWidth s e; let n := w / 8
    w ≤ 64 → srcOk s d.toNat w = true → (x.1.indexed = true → srcOk s b.toNat s.hart.sew = true) →
    (∀ i, isReg (loc i) = false) →
    StoresAt (ActsOn m.toNat s) (formNeed (needStore n) x.1.indexed) n (x.1.addr s b n) loc s →
    ∃ t, exec (x.1.ins d a b m e) s = .next t ∧
      StoredElems x.2 (ActsOn m.toNat s) n loc (fun i => srcElem s d.toNat i w) s t ∧ t.hart.vstart = 0) ∧
  (∀ (d : BitVec 6) (a x : BitVec 5) (m : BitVec 3) (s : State) (loc : Nat → Loc),
    VectorReady s → s.hart.plane = true → Quiet s → pitchOk s → ringOkSrc s d.toNat 1 = true →
    (∀ i, isReg (loc i) = false) →
    StoresAt (PlaneActs m.toNat s) (needStore 1) 1 (fun i => cap0 s + word (bitOfPlane s i / 8)) loc s →
    ∃ t, exec (.vstp d a x m) s = .next t ∧ StoredOver (PlaneActs m.toNat s) 1 loc s t ∧ Issuing t ∧ t.hart.vstart = 0 ∧
      (∀ i, PlaneActs m.toNat s i →
        (∀ j, PlaneActs m.toNat s j → i < j → ¬ (loc j = loc i ∧ bitOfPlane s j % 8 = bitOfPlane s i % 8)) →
        (placeByte t (loc i)).toNat / 2 ^ (bitOfPlane s i % 8) % 2 = elem s (ringSrc s d.toNat) i 1) ∧
      (∀ y q, (∀ i, PlaneActs m.toNat s i → ¬ (loc i = y ∧ bitOfPlane s i % 8 = q)) →
        (placeByte t y).toNat / 2 ^ q % 2 = (placeByte s y).toNat / 2 ^ q % 2)) ∧
  (∀ (d : BitVec 6) (a : BitVec 5) (s : State) (hd : Loc) (loc : Nat → Loc),
    Issuing s → Quiet s → ringOkSrc s d.toNat 1 = true → (∀ i, isReg (loc i) = false) → isReg hd = false →
    (∀ j, j < 8 → match hd with | .pa p => loc j = .pa (p + 8 * j) | .tile o => loc j = .tile (o + 8 * j)) →
    (∃ mt, check (freshPages s) (cap0 s) 64 { wr := true, align := 64 } = .ok hd mt false) →
    (∀ i, imageActs s i → 8 ≤ i → ∀ u, StoredOver (imageActs s) 8 loc s u →
      ∃ mt, check (freshPages u) (cap0 s + word (8 * i)) 8 (needStore 8) = .ok (loc i) mt false) →
    ∃ t, exec (.vspill d a) s = .next t ∧
      StoredElems true (imageActs s) 8 loc (imageWord s (ringSrc s d.toNat)) s t ∧ t.hart.vstart = 0)

/-- R228, R229, R230: a vector atomic applies each active element once to memory, in ascending order; uncombined, vd receives
what each element found; combined, up to 64 elements at distinct places enter the core's empty buffer, and neither vd nor
memory changes yet. -/
def Obligations.VectorAtomics : Prop :=
  ∀ x ∈ amoF, ∀ (d : BitVec 6) (a : BitVec 5) (b : BitVec 6) (m : BitVec 3) (wc : BitVec 1) (s : State) (loc : Nat → Loc),
    VectorReady s → s.hart.plane = false → Quiet s → vlN s ≤ s.hart.maxVl → s.hart.vpois = [] → s.hart.mpois = [] →
    let w := if wc = 0 then 32 else 64; let n := w / 8
    let val (i : Nat) : Nat := elem s d.toNat i w
    UpdatesAt (ActsOn m.toNat s) (needAtomic n) n (indexAddr s b n) loc s →
    (∀ i j, ActsOn m.toNat s i → ActsOn m.toNat s j → loc i = loc j ∨ ∀ y, Covers (loc i) n y → ¬ Covers (loc j) n y) →
    (AmoGroups s d.toNat w b.toNat false →
      ∃ t, exec (x.1 d a b m 0 wc) s = .next t ∧ Issuing t ∧ t.hart.vstart = 0 ∧
        t.linePois = s.linePois ∧ t.tilePois = s.tilePois ∧
        (∀ i, ActsOn m.toNat s i → i < s.hart.maxVl → elem t d.toNat i w = amoSeen x.2 w s m.toNat loc val (loc i) i) ∧
        (∀ i, ¬ ActsOn m.toNat s i → elem t d.toNat i w = elem s d.toNat i w) ∧
        (∀ i, ActsOn m.toNat s i → readLoc t (loc i) n = amoSeen x.2 w s m.toNat loc val (loc i) (vlN s)) ∧
        (∀ y, (∀ i, ActsOn m.toNat s i → ¬ Covers (loc i) n y) → placeByte t y = placeByte s y)) ∧
    (AmoGroups s d.toNat w b.toNat true →
      (∀ i j, ActsOn m.toNat s i → ActsOn m.toNat s j → loc i = loc j → i = j) →
      (∀ i, ActsOn m.toNat s i → ∃ p, loc i = .pa p) →
      (activeList s m.toNat).length ≤ 64 →
      ∃ t, exec (x.1 d a b m 1 wc) s = .next t ∧ Issuing t ∧ t.hart.vstart = 0 ∧
        t.hart.vregs = s.hart.vregs ∧ SameMem s t ∧ t.tiles = s.tiles ∧
        (getCore t (myCore s)).comb.map (fun e => (Loc.pa e.pa, e.n, e.val)) =
          ((activeList s m.toNat).filter (fun i => decide (firstElem s ≤ i))).map (fun i => (loc i, n, srcElem s d.toNat i w)))

namespace Sys2Proof.Claims

/-! Matrix instructions (R143, R268 to R274) -/

/-- R271: both floating or both integer, of one width, with no scale of the destination, and scales in registers that exist. -/
def matrixFormat (vnreg : Nat) (w : Word) : Prop :=
  fmtReserved w ∧ fmtRounds w ∧
    ((2 ≤ fmtA w ∧ fmtA w ≤ 8 ∧ 2 ≤ fmtB w ∧ fmtB w ≤ 8 ∧ fmtD w = 1) ∨
      ((fmtA w = 9 ∨ fmtA w = 10 ∨ fmtA w = 13 ∨ fmtA w = 14) ∧ (fmtB w = 9 ∨ fmtB w = 10 ∨ fmtB w = 13 ∨ fmtB w = 14) ∧
        fmtD w = 12)) ∧
    fmtStore (fmtA w) = fmtStore (fmtB w) ∧ fmtBsd w = 0 ∧ fmtBsa w ≤ 1 ∧ fmtBsb w ≤ 1 ∧
    (fmtBsa w = 1 → fmtSreg w < vnreg) ∧ (fmtBsb w = 1 → fmtSreg w + 1 < vnreg)

/-- kc of R271. -/
def perContainer (w : Word) : Nat := 32 / fmtStore (fmtA w)

/-- a of R272: the K-value at place j of container q of row r. -/
def denseK (w : Word) (s : State) (a r q j : Nat) : Option FVal :=
  some (valA w (srcElem s a (perContainer w * (8 * r + q) + j) (fmtStore (fmtA w))))

/-- a of R273: position u of the row, found among the packed values by the mask k; none where the position is absent. -/
def sparseK (k : Nat) (w : Word) (s : State) (a r q j : Nat) : Option FVal :=
  let kc := perContainer w
  let u := kc * q + j
  let t := ((List.range u).filter (fun v => maskBit s k (8 * kc * r + v))).length
  if maskBit s k (8 * kc * r + u) = true ∧ t < 4 * kc then some (valA w (srcElem s a (kc * (4 * r) + t) (fmtStore (fmtA w))))
  else none

/-- A product of row r and column c at place j of container q, scaled under R135. -/
def kProduct (x : FVal) (w : Word) (s : State) (b r c q j : Nat) : FVal :=
  let width := fmtStore (fmtB w)
  let y := valB w (srcElem s b (perContainer w * c + j + q * (s.hart.vlmax / width)) width)
  fMul (if fmtBsa w = 1 then fMul x (e8m0 (srcElem s (fmtSreg w) r 8)) else x)
    (if fmtBsb w = 1 then fMul y (e8m0 (srcElem s (fmtSreg w + 1) c 8)) else y)

/-- The exact sum of container q (R143); an absent position contributes nothing, whatever b holds there (R273). -/
def kSum (K : Word → State → Nat → Nat → Nat → Nat → Option FVal) (w : Word) (s : State) (a b r c q : Nat) : FVal :=
  (List.range (perContainer w)).foldl (fun acc j => match K w s a r q j with
    | some x => fAdd (fmtRnd w) acc (kProduct x w s b r c q j)
    | none => acc) (.fin false 0 0)

/-- The integer that a container sum stands for; scaled, it is first converted to INT32 (R143). -/
def kInt (w : Word) (v : FVal) (i : Nat) : Int :=
  match v with
  | .fin neg m e =>
    if fmtBsa w = 0 ∧ fmtBsb w = 0 then (if neg then -1 else 1) * (m * 2 ^ e.toNat : Nat)
    else sext (roundToInt 32 true (rndOf w i) v) 32
  | _ => sext (roundToInt 32 true (rndOf w i) v) 32

/-- One container after another joins the accumulator, each with one rounding (R143, R272). -/
def kAccumulate (K : Word → State → Nat → Nat → Nat → Nat → Option FVal) (w : Word) (s : State) (a b : Nat) (old r c : Nat) : Nat :=
  (List.range 8).foldl (fun acc q =>
    let v := kSum K w s a b r c q
    if fmtD w = 12 then
      let x := sext acc 32 + kInt w v (1024 * r + c)
      wrap (if fmtSat w then clampTo (-2 ^ 31) (2 ^ 31 - 1) x else x) 32
    else toD w (1024 * r + c) (fAdd (fmtRnd w) (Machine.decode 1 acc (decide (q = 0) && fmtFtzi w)) v)) old

/-- Sources of a multiply-accumulate that the ring allows (R76). -/
def macSources (s : State) (w : Word) (a b : Nat) : Prop :=
  ringOkSrc s a 1 = true ∧ ringOkSrc s b 8 = true ∧ (fmtBsa w = 1 → ringOkSrc s (fmtSreg w) 1 = true) ∧
    (fmtBsb w = 1 → ringOkSrc s (fmtSreg w + 1) 1 = true)

/-- Element i of an accumulator move, in the order of R274. -/
def moveActs (s : State) (m i : Nat) : Prop :=
  i < shapeRows s.hart * shapeCols s.hart ∧ governs s m (i / shapeCols s.hart) = true

/-- R_req of R269. -/
def rowsAsked (s : State) : Nat :=
  let r := wfld s.hart.iss.act.mshape 0 6
  if r = 0 ∨ 48 < r then 48 else (r + 11) / 12 * 12

/-- Rows of a quad that its cores may get: 48, without 12 for each retired core, beside those of them that its displaced contexts
still keep (R14; the number is the model's choice, log 95). -/
def rowsLeft (s : State) (quad : Nat) : Nat :=
  48 - ((List.range 4).map (fun i =>
    if (getCore s (4 * quad + i)).retired then 12 - frameRows s (4 * quad + i) else 0)).sum - rowsUsed s quad

/-- Nothing keeps the quad from serving this hart: no attachment of the core, no waiting hart before it, 12 rows free. -/
structure MayAttach (s : State) : Prop where
  none : s.hart.rows = 0 ∧ s.hart.granted = false ∧ s.hart.rowsDue = none
  core : coreAttached s (myCore s) = false
  first : ∀ n ∈ attachQueue s (quadOf s.hn), n ≠ s.hn → prioOf s n < prioOf s s.hn
  free : 12 ≤ rowsLeft s (quadOf s.hn)

end Sys2Proof.Claims

/-- R143, R270 to R273: `mmac` adds a slice of 8 × kc products to each element of the selected rows and columns, and `mmacs`
does so from packed values; no other element of any accumulator changes, and nothing else. -/
def Obligations.MatrixMultiply : Prop :=
  ∀ (k : BitVec 2) (a b : BitVec 6) (m f : BitVec 3) (s : State), Issuing s → s.hart.vill = false → ShapeOk s →
    let w := cap2 s
    matrixFormat s.hart.vnreg w → macSources s w a.toNat b.toNat →
    (256 * shapeRows s.hart ≤ s.hart.vlmax →
      ∃ t, exec (.mmac k a b m f) s = .next t ∧
        WroteAcc k.toNat (fun r => governs s m.toNat r = true) (fun r c =>
          kAccumulate denseK w s a.toNat b.toNat (accElem s.hart k.toNat r (shapeCol0 s.hart + c)) r c) s t) ∧
    (128 * shapeRows s.hart ≤ s.hart.vlmax → 8 * perContainer w * shapeRows s.hart ≤ s.hart.vlmax / 8 →
      ∃ t, exec (.mmacs k a b m f) s = .next t ∧
        WroteAcc k.toNat (fun _ => True) (fun r c =>
          kAccumulate (sparseK m.toNat) w s a.toNat b.toNat (accElem s.hart k.toNat r (shapeCol0 s.hart + c)) r c) s t)

/-- R270, R274: the accumulator moves clear, store and load each element of the active rows; a store changes no byte of memory
but theirs. A stop that comes after c rows ends a load at that row boundary: the MQ keeps its progress. -/
def Obligations.AccumulatorMoves : Prop :=
  ∀ (k : BitVec 2) (a : BitVec 5) (m : BitVec 3) (s : State) (loc : Nat → Loc), Issuing s → ShapeOk s → Quiet s →
    let addr (i : Nat) : Word := cap0 s + word (4 * i)
    (∀ c, s.hart.cut = some c → c < shapeRows s.hart → LoadsAt (moveActs s m.toNat) (needLoad 4) 4 addr loc s →
      ∃ t, exec (.mld k a m) s = .next t ∧ t.hart.cut = none ∧ t.hart.iss.halted = some s.hart.iss.act.slot ∧
        t.hart.mq = { act := s.hart.iss.act, prog := c * shapeCols s.hart, seq := s.hart.iss.seq } :: s.hart.mq ∧
        (∀ r x, r < c → x < shapeCols s.hart → governs s m.toNat r = true →
          accElem t.hart k.toNat r (shapeCol0 s.hart + x) = accRead s (loc (r * shapeCols s.hart + x)) 4 % 2 ^ 32) ∧
        (∀ r x, c ≤ r → r < 48 → x < 1024 → accElem t.hart k.toNat r x = accElem s.hart k.toNat r x)) ∧
    (∃ t, exec (.mzero k m) s = .next t ∧ WroteAcc k.toNat (fun r => governs s m.toNat r = true) (fun _ _ => 0) s t) ∧
    (s.hart.cut = none →
      (LoadsAt (moveActs s m.toNat) (needLoad 4) 4 addr loc s →
        ∃ t, exec (.mld k a m) s = .next t ∧ WroteAcc k.toNat (fun r => governs s m.toNat r = true)
          (fun r c => accRead s (loc (r * shapeCols s.hart + c)) 4) s t) ∧
      ((∀ i, isReg (loc i) = false) → StoresAt (moveActs s m.toNat) (needStore 4) 4 addr loc s →
        ∃ t, exec (.mst k a m) s = .next t ∧ StoredElems true (moveActs s m.toNat) 4 loc (fun i =>
          accElem s.hart k.toNat (i / shapeCols s.hart) (shapeCol0 s.hart + i % shapeCols s.hart)) s t))

/-- R14, R269, R270: `mattach` is granted the rows that it asks for, as far as they are free, in units of twelve and cleared, and is
complete when its rows have come while it waited; `mdetach` frees them once no matrix instruction of before a trap is left; a
second `mattach` and a matrix instruction without an attachment trap with MATRIX_STATE before any
other check. -/
def Obligations.MatrixAttachment : Prop :=
  (∀ s : State, Issuing s → MayAttach s →
    let g := min (rowsAsked s) (rowsLeft s (quadOf s.hn)) / 12 * 12
    ∃ t, exec .mattach s = .next t ∧ Issuing t ∧ t.hart.rows = g ∧ 12 ≤ g ∧ t.hart.acc = [] ∧
      rowsUsed t (quadOf s.hn) = rowsUsed s (quadOf s.hn) + g ∧
      t = { s with quads := t.quads, hart := { s.hart with
        rows := t.hart.rows, acc := [], accPois := [], prog := t.hart.prog, iss := t.hart.iss } }) ∧
  (∀ s : State, Issuing s → s.hart.granted = true →
    ∃ t, exec .mattach s = .next t ∧ Issuing t ∧
      t = { s with hart := { s.hart with granted := false, prog := t.hart.prog, iss := t.hart.iss } }) ∧
  (∀ s : State, Issuing s →
    (s.hart.rows = 0 → ∃ t, exec .mdetach s = .next t ∧ Issuing t ∧
      t = { s with hart := { s.hart with prog := t.hart.prog, iss := t.hart.iss } }) ∧
    (0 < s.hart.rows → matrixLeft s.hart = false → ∃ t, exec .mdetach s = .next t ∧ Issuing t ∧ t.hart.rows = 0 ∧
      rowsUsed t (quadOf s.hn) = rowsUsed s (quadOf s.hn) - s.hart.rows ∧
      t = { s with quads := t.quads, hart := { s.hart with
        rows := 0, acc := [], accPois := [], prog := t.hart.prog, iss := t.hart.iss } })) ∧
  (∀ s : State, Issuing s → 0 < s.hart.rows → s.hart.granted = false →
    exec .mattach s = .next (slotEarly cMatrix (word s.hart.iss.act.w.toNat) s)) ∧
  (∀ (k : BitVec 2) (a b : BitVec 6) (c : BitVec 5) (m f : BitVec 3) (s : State), Issuing s → s.hart.rows = 0 →
    ∀ i ∈ [Instr.mmac k a b m f, .mmacs k a b m f, .mzero k m, .mst k c m, .mld k c m],
      exec i s = .next (slotEarly cMatrix (word s.hart.iss.act.w.toNat) s))
namespace Sys2Proof.Claims

/-! Streams (R58 to R69, R223 to R227) -/

/-- A moving stream: its instruction by sd, sa, sb, `.zrp`, `.strict` and `.bar`; on which side of the window its source and
its destination must lie, where R223 says so; whether R224 forbids them to overlap. -/
structure StreamForm where
  ins : BitVec 5 → BitVec 5 → BitVec 5 → BitVec 1 → BitVec 1 → BitVec 1 → Instr
  src : Option Bool
  dst : Option Bool
  apart : Bool := false
  zrp : Bool := true

noncomputable def streamForms : List StreamForm :=
  [{ ins := .strLd, src := some false, dst := some true },
   { ins := fun d a b _ t r => .strSt d a b t r, src := some true, dst := some false, zrp := false },
   { ins := .strCp, src := none, dst := none, apart := true }]

/-- A side of n bytes lies where R223 wants it; where its first k bytes touch the window they lie in one memory tile, and a
destination starts there on a 64-byte boundary (R224, R73). -/
def sideOk (va : Word) (n k : Nat) (want : Option Bool) (dst : Bool) : Prop :=
  (want = some true → inOneTile va n = true) ∧ (want = some false → touchesWindow va n = false) ∧
    (touchesWindow va k = true → inOneTile va k = true ∧ (dst = true → va.toNat % 64 = 0))

/-- The checks of R224 on both sides, and on their alignment. -/
structure SidesOk (x : StreamForm) (zrp : Bool) (s : State) : Prop where
  src : sideOk (cap0 s) (strBytes s) (if zrp then 8 else strBytes s) x.src false
  dst : sideOk (cap1 s) (strBytes s) (strBytes s) x.dst true
  apart : x.apart = true →
    overlaps (cap0 s).toNat (if zrp then 16 * strDecl s + 16 else strBytes s) (cap1 s).toNat (strBytes s) = false
  aligned : (cap0 s).toNat % strUnit s = 0 ∧ (cap1 s).toNat % strUnit s = 0

/-- The stream has entry e: the one that it took as its convoy committed, or the lowest free one of the core's copy queue (R61);
no stream there is live; and the core is not retired (R14). -/
structure QueueOk (e : Nat) (s : State) : Prop where
  entry : e < 16
  taken : cap2 s ≠ 0 → (cap2 s).toNat = e + 1
  free : cap2 s = 0 → (getCq s (myCore s) e).phase = 0 ∧ ∀ k, k < e → (getCq s (myCore s) k).phase ≠ 0
  sent : ∀ k, (getCq s (myCore s) k).live = false
  active : (getCore s (myCore s)).retired = false

/-- The units that the stream still has to move: elements, or bytes under the plane width (R63, R65). -/
def unitActs (s : State) (i : Nat) : Prop := strFirst s / strPer s ≤ i ∧ i < ceilDiv (vlN s) (strPer s)

/-- A status word of R67: its kind, poison, a mismatch, a transfer error, `.strict`, `.bar`, the entry and the count. -/
def statusOf (kind : Nat) (po mism xf strict bar : Bool) (e count : Nat) : Word :=
  word (kind * 2 ^ 62 + (if po ∨ mism ∨ xf then 2 ^ 61 else 0) + (if po then 2 ^ 60 else 0) + (if mism then 2 ^ 59 else 0)
    + (if xf then 2 ^ 58 else 0) + (if strict then 2 ^ 57 else 0) + (if bar then 2 ^ 56 else 0) + e * 2 ^ 52 + count % 2 ^ 32)

/-- Poison and transfer errors that the stream had met before a trap of its convoy (R65). -/
def metPoison (s : State) : Bool := nbit (Tab.get 0 s.hart.iss.flags s.hart.iss.act.slot) 0
def metError (s : State) : Bool := nbit (Tab.get 0 s.hart.iss.flags s.hart.iss.act.slot) 1

/-- The entry of a stream of s whose data u has moved, as its headland will report it (R66, R67), in its place among the accesses
of the hart. -/
def streamEntry (s u : State) (e : Nat) (zrp mism strict bar : Bool) (count : Nat) : CqEntry :=
  { hart := s.hn, seat := mySeat s, phase := 2, asid := s.hart.asid, bar := bar, zrp := zrp
    seq := if s.hart.iss.seq = 0 then s.order else s.hart.iss.seq + s.hart.iss.act.slot
    status := statusOf 0 (metPoison s) mism (metError s) strict bar e count
    src := cap0 s, dst := cap1 s, bytes := strBytes s
    srcAt := pageFrames u (cap0 s) (if zrp then 16 * strDecl s + 16 else strBytes s)
    srcPg := leafUses u (cap0 s) (if zrp then 16 * strDecl s + 16 else strBytes s)
    dstAt := pageFrames u (cap1 s) (strBytes s), dstPg := leafUses u (cap1 s) (strBytes s)
    vl := vlN s, ew := if s.hart.plane then 1 else s.hart.sew }

/-- The stream has entry e, whose number sd receives, at the latest now (R61, R224). -/
def tookEntry (d : BitVec 5) (e : Nat) (q : CqEntry) (s u : State) : State :=
  { modCore (myCore s) (fun c => { c with cq := Tab.set {} c.cq e q })
      (if cap2 s = 0 then deliverS d.toNat (word e) 0 u else u) with order := s.order + 1 }

/-- The units of 64 bits that a zero-run stream reads, until it is over or k of them have been read (R101, R225). -/
def zrpOf (decl : Nat) (units : Nat → Nat) : Nat → Zrp → Zrp
  | 0, z => z
  | k + 1, z => if z.over decl then z else zrpOf decl units k (z.unit decl (units z.units))

/-- Unit i of n bytes of a list of 64-bit words. -/
def unitOf (ws : List Nat) (n i : Nat) : Nat := nth 0 ws (i * n / 8) / 2 ^ (8 * (i * n % 8)) % 2 ^ (8 * n)

/-- The places of a plain stream: its source can be read and is not poisoned, and its destination can be written, wherever
the stream has come to; they lie apart, and not in second-tier or host memory, whose transfer errors are free (log 76). -/
structure Moves (s : State) (n : Nat) (sloc dloc : Nat → Loc) : Prop where
  near : ∀ i, farLoc (sloc i) = false ∧ farLoc (dloc i) = false
  read : ∀ i, unitActs s i → ∀ u, StoredOver (unitActs s) n dloc s u →
    ∃ mt, check (freshPages u) (cap0 s + word (i * n)) n (strSrc n) = .ok (sloc i) mt false
  clean : ∀ i, unitActs s i → locPois s (sloc i) n = false
  write : StoresAt (unitActs s) (strDst n) n (fun i => cap1 s + word (i * n)) dloc s
  regs : ∀ i, isReg (sloc i) = false ∧ isReg (dloc i) = false
  apart : ∀ i j y, unitActs s i → unitActs s j → Covers (dloc i) n y → ¬ Covers (sloc j) n y

end Sys2Proof.Claims

/-- R61, R63, R64, R66, R67, R223, R224: a moving stream takes the lowest free entry, whose number sd receives, and copies each
element; its headland will give COUNT = `vl`. No other byte of memory changes. A stream of length zero moves nothing and
sends its headland at once, with COUNT = 0. That the data have moved when its convoy retires is the model's choice (log 10), and so
are the source bytes of a `.zrp` stream in these checks (log 110). -/
def Obligations.StreamsMove : Prop :=
  (∀ x ∈ streamForms, ∀ (d a b : BitVec 5) (t r : BitVec 1) (s : State) (e : Nat) (sloc dloc : Nat → Loc),
      Issuing s → s.hart.vill = false → vtypeOk s.hart.vtype.toNat = true → Quiet s → QueueOk e s → 0 < vlN s →
      SidesOk x false s → Moves s (strUnit s) sloc dloc →
      ∃ u, exec (x.ins d a b 0 t r) s = .next (tookEntry d e (streamEntry s u e false false (t = 1) (r = 1) (vlN s)) s u) ∧
        StoredElems true (unitActs s) (strUnit s) dloc (fun i => readLoc s (sloc i) (strUnit s)) s u) ∧
  (∀ x ∈ streamForms, ∀ (d a b : BitVec 5) (z t : BitVec 1) (s : State) (e : Nat),
      Issuing s → s.hart.vill = false → vtypeOk s.hart.vtype.toNat = true → Quiet s → QueueOk e s → vlN s = 0 →
      (cap0 s).toNat % strUnit s = 0 → (cap1 s).toNat % strUnit s = 0 → (x.zrp = false → z = 0) →
      ∃ u, exec (x.ins d a b z t 0) s = .next u ∧ Issuing u ∧ SameMem s u ∧ u.tiles = s.tiles ∧
        Tab.get 0 u.hart.strStat e = statusOf 0 (metPoison s) false (metError s) (t = 1) false e 0 ∧
        (∀ k, getCq u (myCore s) k = if k = e then {} else getCq s (myCore s) k) ∧
        (d ≠ 0 → cap2 s = 0 → getS u d = word e))

/-- R68, R101, R225: a `.zrp` stream decodes units of its source until the decoder is over, and writes the first N bytes of the
words; its headland will give the count decoded, with MISMATCH when it is not the declared length. No unit of the source crosses
a page here. That the data have moved when its convoy retires is the model's choice (log 10). -/
def Obligations.StreamsDecode : Prop :=
  ∀ x ∈ streamForms, x.zrp = true → ∀ (d a b : BitVec 5) (t r : BitVec 1) (s : State) (e : Nat) (sloc dloc : Nat → Loc),
    Issuing s → s.hart.vill = false → vtypeOk s.hart.vtype.toNat = true → Quiet s → QueueOk e s → 0 < vlN s →
    SidesOk x true s →
    let n := strUnit s; let decl := strDecl s
    let z := zrpOf decl (fun k => readLoc s (sloc k) 8) (2 * decl + 2) {}
    LoadsAt (fun k => k < z.units) { rd := true, mtMax := 1, test := false } 8 (fun k => cap0 s + word (8 * k)) sloc s →
    (∀ k, k < z.units → (cap0 s + word (8 * k)).toNat % 131072 ≤ 131064) → metPoison s = false → metError s = false →
    (∀ k, k < z.units → locPois s (sloc k) 8 = false ∧ isReg (sloc k) = false ∧ farLoc (sloc k) = false) →
    (∀ i, isReg (dloc i) = false ∧ farLoc (dloc i) = false) →
    StoresAt (unitActs s) (strDst n) n (fun i => cap1 s + word (i * n)) dloc s →
    ∃ u, exec (x.ins d a b 1 t r) s =
        .next (tookEntry d e (streamEntry s u e true (decide (z.count ≠ decl)) (t = 1) (r = 1) z.count) s u) ∧
      StoredElems true (unitActs s) n dloc (unitOf (z.words decl) n) s u

/-- R32, R58 to R60, R226: an exchange of a gang of one copies its row, by the frames that its pages had as it was issued; the part
of a member whose gang is not complete waits in its entry, and no byte of memory changes. That a gang of one has moved its row when
the convoy retires is the model's choice (log 10). -/
def Obligations.StreamExchange : Prop :=
  ∀ (d a b : BitVec 5) (t r : BitVec 1) (s : State) (e : Nat) (rloc wloc : Nat → Loc),
    Issuing s → s.hart.vill = false → s.hart.plane = false → vtypeOk s.hart.vtype.toNat = true → Quiet s → QueueOk e s →
    s.hart.pmode = false → coreOf (mySeat s) = myCore s →
    let p := freshPages s
    let n := strUnit s; let row := strBytes s; let total := row * (myGang s).length
    128 ≤ row → row ≤ 65536 → row % 128 = 0 → (cap0 s).toNat % n = 0 → (cap1 s).toNat % n = 0 →
    sideOk (cap0 s) total total none false → sideOk (cap1 s) total total none true →
    overlaps (cap0 s).toNat total (cap1 s).toNat total = false →
    LoadsAt (fun i => i < total / n) (strSrc n) n (fun i => cap0 s + word (i * n)) rloc s →
    LoadsAt (fun i => i < total / n) (strDst n) n (fun i => cap1 s + word (i * n)) wloc s →
    let q (phase count : Nat) : CqEntry :=
      { streamEntry s s e false false (t = 1) (r = 1) 0 with
        phase := phase, xch := true, bytes := total, status := statusOf 1 false false false (t = 1) (r = 1) e count
        srcAt := pageFrames p (cap0 s) total, srcPg := leafUses p (cap0 s) total
        dstAt := pageFrames p (cap1 s) total, dstPg := leafUses p (cap1 s) total, rows := (myGang s).length }
    let sloc (o : Nat) : Loc := sidePlace (cap0 s) (pageFrames p (cap0 s) total) o
    let dloc (o : Nat) : Loc := sidePlace (cap1 s) (pageFrames p (cap1 s) total) o
    ((∃ k ∈ myGang s, k ≠ mySeat s ∧ xchEntry s k = none) →
      (∀ x ∈ xchParts s (mySeat s), storesKeep s x.2.2 = false) →
      ∃ u, exec (.strXch d a b t r) s = .next (tookEntry d e (q 1 0) s u) ∧ Issuing u ∧
        u = { s with hart := { s.hart with prog := u.hart.prog, iss := u.hart.iss } }) ∧
    (myGang s = [mySeat s] →
      (∀ o, o < row → isReg (sloc o) = false ∧ isReg (dloc o) = false ∧ farLoc (sloc o) = false ∧ farLoc (dloc o) = false ∧
        locPois s (sloc o) 1 = false) →
      (∀ o p, o < row → p < row → dloc o ≠ sloc p ∧ (dloc o = dloc p → o = p)) →
      ∃ v, exec (.strXch d a b t r) s = .next v ∧ Issuing v ∧
        (∀ o, o < row → placeByte v (dloc o) = placeByte s (sloc o)) ∧
        (∀ y, (∀ o, o < row → dloc o ≠ y) → placeByte v y = placeByte s y) ∧
        (∀ k, (∀ o p, o < row → dloc o = .pa p → k ≠ p / 128) → Tab.get false v.linePois k = Tab.get false s.linePois k) ∧
        v = { s with
          mem := v.mem, tiles := v.tiles, linePois := v.linePois, tilePois := v.tilePois, colls := v.colls, reuse := v.reuse
          far := v.far, tasks := v.tasks, queues := v.queues, cores := v.cores, order := s.order + 1
          hart := { s.hart with
            prog := v.hart.prog, iss := v.hart.iss, sregs := v.hart.sregs, spois := v.hart.spois } } ∧
        OnlyRegs (if cap2 s = 0 then [d] else []) s { s with hart := { s.hart with sregs := v.hart.sregs, spois := v.hart.spois } } ∧
        (d ≠ 0 → cap2 s = 0 → getS v d = word e) ∧
        (∀ c, { getCore v c with dcache := [], cq := [] } = { getCore s c with dcache := [], cq := [] }) ∧
        (∀ c k, getCq v c k = if c = myCore s ∧ k = e then q 2 (vlN s) else getCq s c k))

/-- R68, R69, R227: `str.wait` gives sd the status word of the hart's most recent stream on the entry, sent now where its data
have moved; a barrier-bound one is sent once the hart's earlier accesses have performed (R78). STRICT with MISMATCH traps once
sd is written. -/
def Obligations.StreamWait : Prop :=
  ∀ (d a : BitVec 5) (s : State), Issuing s →
    let e := wfld (cap0 s) 0 4
    let q := getCq s (myCore s) e
    let mine : Prop := q.hart = s.hn ∧ q.frame = none ∧ q.live = true
    (mine → q.phase = 2 ∧ (getCore s (myCore s)).retired = false ∧
      (q.bar = true → olderOf s (.hart s.hn) q.seq = [] ∧ convoysOf s (.hart s.hn) q.seq = false ∧ s.hart.storeBuf = [] ∧
        (getCore s (myCore s)).comb = [])) →
    ∃ t, exec (.strWait d a) s = .next t ∧ Issuing t ∧
      ∃ w, (mine → w = q.status ∧ Tab.get 0 t.hart.strStat e = w) ∧ (¬ mine → w = Tab.get 0 s.hart.strStat e) ∧
        ((wbit w 57 = true ∧ wbit w 59 = true) →
          t.hart.iss.whole = s.hart.iss.whole ++ [(s.hart.iss.act.slot, .reg d.toNat w 0)] ∧ t.hart.iss.results = s.hart.iss.results ∧
          t.hart.iss.after = some (s.hart.iss.after.getD
            { slot := s.hart.iss.act.slot, elem := 0, cause := cStreamLength, tval := w })) ∧
        (¬(wbit w 57 = true ∧ wbit w 59 = true) →
          t.hart.iss.results = s.hart.iss.results ++ [.reg d.toNat w 0] ∧ t.hart.iss.whole = s.hart.iss.whole ∧
          t.hart.iss.after = s.hart.iss.after) ∧
        SameMem s t ∧ t.hart.sregs = s.hart.sregs ∧ t.hart.vregs = s.hart.vregs

namespace Sys2Proof.Claims

/-! Collectives (R309 to R322) -/

/-- A form that starts a collective. -/
structure CollForm where
  ins : BitVec 5 → BitVec 5 → BitVec 4 → Instr
  role : CollRole

noncomputable def collForms : List CollForm :=
  [{ ins := .collSend, role := .send }, { ins := .collRecv, role := .recv }, { ins := .collRed, role := .red }]

/-- G of R309: the least with 2^G ≥ NTOT. -/
def guardOf (ntot : Nat) : Nat := Nat.clog 2 ntot

/-- Units of 128 bytes that a tile's slot takes: S of R311. -/
def unitsPerSlot (w g : Nat) : Nat := (64 + 32 * w * (g + 1) + 127) / 128

/-- Elements of the source that a form converts, and 128-byte units of the slots that it fills (R315). -/
def sourceCount (role : CollRole) (x : CollDesc) : Nat := if (sourceOf role x).isSome then 256 * x.ntile else 0
def slotCount (role : CollRole) (w : Nat) (x : CollDesc) : Nat :=
  if hasSlots role x then x.ntile * unitsPerSlot w (guardOf x.ntot) else 0

/-- The header of a slot whose tile has no round yet (R312): SRC, CID, WM4 and G. -/
def freshHeader (s : State) (role : CollRole) (w : Nat) (x : CollDesc) : Nat :=
  (if role = .recv then x.peer else s.mgmt.node.toNat) * 2 ^ 52 + x.cid * 2 ^ 32 + (w - 4) * 2 ^ 28 + guardOf x.ntot * 2 ^ 25

/-- The context of a collective that has just started (R309, R315, R317). -/
def freshContext (s : State) (role : CollRole) (w : Nat) (x : CollDesc) (sloc dloc : Nat → Loc) : CollCtx :=
  { live := true, role := role, asid := wfld s.hart.asid 0 16, cid := x.cid, w := w, g := guardOf x.ntot, ntot := x.ntot
    ntile := x.ntile, xf := x.xf, peer := x.peer
    children := if role = .red then x.listed 1 else []
    forwards := if role = .red then x.listed 2 else []
    slots := (List.range (slotCount role w x)).map (fun i => locKey s (dloc i))
    per := unitsPerSlot w (guardOf x.ntot)
    own := if sourceCount role x = 0 then [] else convertAll w x ((List.range (sourceCount role x)).map (fun i => (sloc i, 0))) s }

/-- The places of a collective: its source can be read and its slots written, apart from each other and from device space. -/
structure CollPlaces (s : State) (role : CollRole) (w : Nat) (x : CollDesc) (sloc dloc : Nat → Loc) : Prop where
  source : ∀ i a, sourceOf role x = some a → i < 256 * x.ntile → ∃ mt v,
    check (freshPages s) (word a + word (srcBytes x.sfmt * i)) (srcBytes x.sfmt) { rd := true, test := false } = .ok (sloc i) mt v
  slots : ∀ i, i < slotCount role w x → ∃ mt v,
    check (freshPages s) (word x.buf + word (128 * i)) 128 { wr := true } = .ok (dloc i) mt v
  memory : ∀ i a, dloc i = .pa a → a + 128 ≤ regBase
  apart : ∀ i j y, i < slotCount role w x → j < slotCount role w x → i ≠ j → Covers (dloc i) 128 y → ¬ Covers (dloc j) 128 y

/-- Nothing waits before a collective can start: no stream of the hart, no flit without a context, no bound task that is
pure; and the core is not retired (R14). -/
structure CollReady (s : State) : Prop extends Issuing s, Quiet s where
  vill : s.hart.vill = false
  impure : s.hart.pmode = false
  streams' : inFlight s s.hn = []
  active : (getCore s (myCore s)).retired = false
  ports : ∀ p, (getPort s p).held = []

end Sys2Proof.Claims

/-- R309, R311, R312, R315, R317 to R322: a collective whose descriptor is accepted gives status 0 and takes the lowest free
context of its die with its source converted; every byte of its slots becomes zero but the headers. One that is turned away
gives its status and changes nothing. `coll.cancel` gives 0 and marks a live receive or root, and gives 1 where there is none or it
is over; `coll.stat` gives the word of the context that the CID names, 0 for none. Neither touches memory. -/
def Obligations.Collectives : Prop :=
  (∀ f ∈ collForms, ∀ (d a : BitVec 5) (wm : BitVec 4) (s : State) (l : Loc) (mt : Nat) (v : Bool), CollReady s →
      let w := wm.toNat + 4
      check (freshPages s) (cap0 s) 64 (needLoad 64) = .ok l mt v →
      let x := descOf (accRead s l 64)
      (∀ k sloc dloc, collStatus s f.role x = 0 → freeCtx s = some k → CollPlaces s f.role w x sloc dloc →
        ∃ t, exec (f.ins d a wm) s = .next t ∧ Issuing t ∧
          t.hart.iss.results = s.hart.iss.results ++ [.reg d.toNat 0 0] ∧
          getColl t k = freshContext s f.role w x sloc dloc ∧ (∀ j, j ≠ k → getColl t j = getColl s j) ∧
          (∀ i y, i < slotCount f.role w x → Covers (dloc i) 128 y →
            placeByte t y = if i % unitsPerSlot w (guardOf x.ntot) = 0 ∧ distance (dloc i) y < 8 then
                BitVec.ofNat 8 (freshHeader s f.role w x / 256 ^ distance (dloc i) y) else 0) ∧
          (∀ y, (∀ i, i < slotCount f.role w x → ¬ Covers (dloc i) 128 y) → placeByte t y = placeByte s y) ∧
          t.hart.sregs = s.hart.sregs ∧ t.hart.vregs = s.hart.vregs) ∧
      (collStatus s f.role x ≠ 0 →
        ∃ t, exec (f.ins d a wm) s = .next t ∧ Issuing t ∧
          t.hart.iss.results = s.hart.iss.results ++ [.reg d.toNat (word (collStatus s f.role x)) 0] ∧
          t = { s with hart := { s.hart with prog := t.hart.prog, iss := t.hart.iss } })) ∧
  (∀ (d a : BitVec 5) (s : State), Issuing s → s.hart.pmode = false →
      (namedColl s (fun c => c.role = .recv || c.isRoot) = none →
        ∃ t, exec (.collCancel d a) s = .next t ∧ t.hart.iss.results = s.hart.iss.results ++ [.reg d.toNat 1 0] ∧
          t = { s with hart := { s.hart with prog := t.hart.prog, iss := t.hart.iss } }) ∧
      (∀ k, namedColl s (fun c => c.role = .recv || c.isRoot) = some k →
        let c := getColl s k
        ((c.cancelled = true ∨ c.allOver = true) →
          ∃ t, exec (.collCancel d a) s = .next t ∧ t.hart.iss.results = s.hart.iss.results ++ [.reg d.toNat 1 0] ∧
            t = { s with hart := { s.hart with prog := t.hart.prog, iss := t.hart.iss } }) ∧
        (c.cancelled = false → c.allOver = false →
          ∃ t, exec (.collCancel d a) s = .next t ∧ Issuing t ∧
            t.hart.iss.results = s.hart.iss.results ++ [.reg d.toNat 0 0] ∧
            (getColl t k).cancelled = true ∧ (c.role = .recv → (getColl t k).upSent = true) ∧
            (∀ j, j ≠ k → getColl t j = getColl s j) ∧ t.mem = s.mem ∧ t.tiles = s.tiles ∧ t.hart.sregs = s.hart.sregs)) ∧
      (∃ t, exec (.collStat d a) s = .next t ∧ Issuing t ∧
        t = { s with hart := { s.hart with prog := t.hart.prog, iss := t.hart.iss } } ∧
        t.hart.iss.results = s.hart.iss.results ++ [.reg d.toNat (match namedColl s (fun _ => true) with
          | none => 0
          | some k => word (statWord s (getColl s k))) 0]))

namespace Sys2Proof.Claims

/-! The fabric (R276 to R299) -/

/-- An image whose one arc leads from the stream of va, of elements of 32 bits with its length in s5, to vd (R276, R277, R280,
R97). -/
def copyImage : List Word :=
  [word (0x0100 * 2 ^ 48 + 3 * 2 ^ 40 + 1 * 2 ^ 24 + 1 * 2 ^ 16 + 5 * 2 ^ 11), 0, 0, 0, 0, 0, 0, 0,
   0, 0, 0, 0,
   word (2 * 2 ^ 55), word (1 * 2 ^ 60 + 2 * 2 ^ 58 + 2 * 2 ^ 55),
   word (2 * 2 ^ 62 + 2 * 2 ^ 52 + 1 * 2 ^ 47)]

/-- The slot holds that image for this hart. -/
structure CopySlot (i : Nat) (s : State) : Prop where
  valid : boundHere s i = true
  image : (getSlot s i).image = copyImage

/-- Its elements that the stream brings from index v: those below la that the mask governs (R295). -/
def copied (s : State) (m v la : Nat) : List Nat := (List.range la).filter (fun i => decide (v ≤ i) && governs s m i)

/-- Slot i's binding holds no token on an arc. -/
def arcsClear (s : State) (i : Nat) : Prop :=
  (if (getSlot s i).run.live then (getSlot s i).run.arcs else initArcs (getSlot s i).image) = []

/-- No hart of the core has a buffered store, no other one has an access in its queues, and no stream of the core is under way:
nothing to wait for before a memory tile changes its mode (R96). -/
structure CoreQuiet (s : State) : Prop where
  buffers : ∀ n, coreOf n = myCore s → (getHart s n).storeBuf = []
  queues : ∀ n, coreOf n = myCore s → n ≠ s.hn → (getHart s n).vq = [] ∧ (getHart s n).mq = []
  queue : ∀ e, (getCq s (myCore s) e).live = false

/-- The words of the image at the address that sa gave. -/
def imageAt (s : State) (loc : Nat → Loc) (n : Nat) : List Word := (List.range n).map (fun k => word (accRead s (loc k) 8))

end Sys2Proof.Claims

/-- R293 to R296: a `fop` of an image that copies a stream writes the elements of va that its mask governs, from `vstart` on, to
vd in order, packed; `vl` becomes their number, `fsidx0` the length, MORE zero. A `fop.c` goes on at `fsidx0`. A slot that is not
bound traps with FABRIC_SLOT. -/
def Obligations.FabricOpcode : Prop :=
  ∀ (p : BitVec 4) (d a b : BitVec 6) (m : BitVec 3) (s : State), Issuing s → s.hart.vill = false →
    let i := p.toNat
    (boundHere s i = false →
      exec (.fop p d a b m) s = .next (slotEarly cFabSlot (word i) s) ∧
        exec (.fopC p d a b m) s = .next (slotEarly cFabSlot (word i) s)) ∧
    (VectorReady s → s.hart.plane = false → s.hart.sew = 32 → CopySlot i s → s.hart.iss.re = false → s.hart.pmode = false →
      s.hart.vpois = [] → s.hart.mpois = [] → fopLa s copyImage ≤ s.hart.maxVl → GroupsOk s d.toNat 32 [(a.toNat, 32)] →
      disjoint s d.toNat 32 a.toNat 32 = true → disjoint s d.toNat 32 (ringSrc s a.toNat) 32 = true →
      ∀ x : Bool, (if x then (getSlot s i).owner = some s.hn ∧ (getSlot s i).run = freshRun copyImage
          else (getSlot s i).owner = none) → s.hart.cut = none →
        let v := if x then (Tab.get 0 s.hart.fsidx 0).toNat else s.hart.vstart.toNat
        let l := copied s m.toNat v (fopLa s copyImage)
        ∃ t, exec (if x then .fopC p d a b m else .fop p d a b m) s = .next t ∧ Issuing t ∧
          (∀ j k, l[j]? = some k → elem t d.toNat j 32 = srcElem s a.toNat k 32) ∧
          (∀ j, l.length ≤ j → elem t d.toNat j 32 = elem s d.toNat j 32) ∧
          t.hart.vl = BitVec.ofNat 17 l.length ∧ t.hart.vstart = 0 ∧
          Tab.get 0 t.hart.fsidx 0 = BitVec.ofNat 32 (fopLa s copyImage) ∧
          wbit t.hart.fstat 0 = false ∧ wfld t.hart.fstat 1 4 = i ∧ wfld t.hart.fstat 32 32 = wfld s.hart.fstat 32 32 ∧
          getSlot t i = { getSlot s i with run := {}, owner := none, tb := [], ptbase := 0, hstat := 0 } ∧
          SameMem s t ∧ t.hart.sregs = s.hart.sregs)

/-- R290, R292: `fbind` of a well-formed image takes a slot with which nothing overlaps, sets its memory tiles' modes and gives
status 0; a malformed image gives the place of its first malformed word and changes nothing. `funbind` and `fdrain` end the
suspended state of a slot that this hart has bound, and leave every other slot; `funbind` frees the slot and its memory tiles. -/
def Obligations.FabricControl : Prop :=
  (∀ (d a : BitVec 5) (p : BitVec 4) (s : State) (loc : Nat → Loc), Issuing s → Quiet s → s.hart.pmode = false →
    let i := p.toNat
    let n := imgWords (word (accRead s (loc 0) 8)); let img := imageAt s loc n
    LoadsAt (fun k => k < max 1 n) (needLoad 8) 8 (fun k => cap0 s + word (8 * k)) loc s → 0 < n →
    (∀ off, malformedAt img = some off →
      ∃ t, exec (.fbind d a p) s = .next t ∧
        t.hart.iss.results = s.hart.iss.results ++ [.reg d.toNat (word (1 + off * 65536)) 0] ∧
        t = { s with hart := { s.hart with prog := t.hart.prog, iss := t.hart.iss } }) ∧
    (malformedAt img = none → CoreQuiet s → overlapping s (imgBlocks img) = [] → (getSlot s i).valid = false →
      ∃ t, exec (.fbind d a p) s = .next t ∧ Issuing t ∧
        t.hart.iss.results = s.hart.iss.results ++ [.reg d.toNat 0 0] ∧
        (∀ m ∈ fabTiles img 1, Tab.get 0 t.tileMode (myCore s * 32 + m) = mMode (fabWord img 1 m)) ∧
        (getSlot t i).valid = true ∧ (getSlot t i).asid = wfld s.hart.asid 0 16 ∧ (getSlot t i).bytes = 8 * n ∧
        (getSlot t i).vaddr = cap0 s ∧ (getSlot t i).image = img ∧
        (∀ pa, loc 0 = .pa pa → (getSlot t i).addr = pa) ∧
        (∀ k, k ≠ i → getSlot t k = getSlot s k) ∧ t.hart.sregs = s.hart.sregs ∧ t.hart.vregs = s.hart.vregs)) ∧
  (∀ (p : BitVec 4) (s : State), Issuing s → s.hart.pmode = false →
    let i := p.toNat; let sl := getSlot s i
    ((boundHere s i = true ∨ (s.hart.sup = true ∧ sl.valid = true)) → arcsClear s i →
      ∃ t, exec (.funbind p) s = .next t ∧ Issuing t ∧ getSlot t i = {} ∧ (∀ k, k ≠ i → getSlot t k = getSlot s k) ∧
        (∀ m ∈ fabTiles sl.image 1, Tab.get 0 t.tileMode (myCore s * 32 + m) = 0) ∧ t.hart.vregs = s.hart.vregs) ∧
    (boundHere s i = true → arcsClear s i →
      ∃ t, exec (.fdrain p) s = .next t ∧ Issuing t ∧
        getSlot t i = { sl with run := {}, owner := none, tb := [], ptbase := 0, hstat := 0 } ∧
        (∀ k, k ≠ i → getSlot t k = getSlot s k) ∧ SameMem s t ∧ t.hart.vregs = s.hart.vregs) ∧
    (boundHere s i = false →
      (∃ t, exec (.fdrain p) s = .next t ∧ t = { s with hart := { s.hart with prog := t.hart.prog, iss := t.hart.iss } }) ∧
      ((s.hart.sup = false ∨ sl.valid = false) →
        ∃ t, exec (.funbind p) s = .next t ∧ t = { s with hart := { s.hart with prog := t.hart.prog, iss := t.hart.iss } })))

namespace Sys2Proof.Claims

/-! Compute tiles (R278, R279, R283 to R286), memory tiles (R91 to R94, R446) and memory edges (R97) of a binding at work -/

/-- The value of a payload under a node's integer format, and an exact result in its payload (R279, R285). -/
def intArg (w p : Word) : Int :=
  if nodeSigned w then sext p.toNat (nodeBits w) else ((p.toNat % 2 ^ nodeBits w : Nat) : Int)
def inPayload (w : Word) (x : Nat) : Word :=
  if nodeSigned w then wordI (sext x (nodeBits w)) else word (x % 2 ^ nodeBits w)
def intResult (w : Word) (i : Int) : Word :=
  let n := nodeBits w
  let lo : Int := if nodeSigned w then -2 ^ (n - 1) else 0
  let hi : Int := if nodeSigned w then 2 ^ (n - 1) - 1 else 2 ^ n - 1
  inPayload w (wrap (if cSat w then clampTo lo hi i else i) n)

/-- The same under a float format, where an operation rounds once (R285). -/
def floatArg (w p : Word) : FVal := Machine.decode (cFmt w) (p.toNat % 2 ^ nodeBits w) (cFtz w)
def floatResult (w : Word) (v : FVal) : Word :=
  inPayload w (roundTo (cFmt w) { mode := cRnd w, sat := cSat w, ftzo := cFtz w } v)
/-- A float that is only passed on, or picked (R134, R240). -/
def floatBits (w p : Word) : Nat := flushBits (cFmt w) (cFtz w) (p.toNat % 2 ^ nodeBits w)
def passed (w p : Word) : Word := inPayload w (if cFloat w then floatBits w p else p.toNat % 2 ^ nodeBits w)

/-- The low bits of two payloads, combined. -/
def onBits (f : Nat → Nat → Nat) (w a b : Word) : Word :=
  inPayload w (f (a.toNat % 2 ^ nodeBits w) (b.toNat % 2 ^ nodeBits w))

/-- The shift that B asks for. -/
def shiftBy (w b : Word) : Nat := b.toNat % 2 ^ nodeBits w % nodeBits w

/-- The operations of R283 that give one value of A, B and C, by their codes, under an integer format. -/
def intNodes : List (Nat × (Word → Word → Word → Word → Word)) :=
  [(0x02, fun w a b _ => intResult w (intArg w a + intArg w b)),
   (0x03, fun w a b _ => intResult w (intArg w a - intArg w b)),
   (0x04, fun w a b _ => intResult w (intArg w a * intArg w b)),
   (0x05, fun w a b c => intResult w (intArg w a * intArg w b + intArg w c)),
   (0x06, fun w a b _ => intResult w (min (intArg w a) (intArg w b))),
   (0x07, fun w a b _ => intResult w (max (intArg w a) (intArg w b))),
   (0x08, fun w a b _ => onBits Nat.land w a b), (0x09, fun w a b _ => onBits Nat.lor w a b),
   (0x0A, fun w a b _ => onBits Nat.xor w a b),
   (0x0B, fun w a b _ => intResult w (intArg w a * 2 ^ shiftBy w b)),
   (0x0C, fun w a b _ => intResult w (intArg w a / 2 ^ shiftBy w b))]
    ++ (List.range 6).map (fun cc => (0x10 + cc, fun w a b _ => word (b2n (ccHolds cc (intArg w a - intArg w b)))))

/-- The same under a float format. -/
def floatNodes : List (Nat × (Word → Word → Word → Word → Word)) :=
  [(0x02, fun w a b _ => floatResult w (fAdd (cRnd w) (floatArg w a) (floatArg w b))),
   (0x03, fun w a b _ => floatResult w (fSub (cRnd w) (floatArg w a) (floatArg w b))),
   (0x04, fun w a b _ => floatResult w (fMul (floatArg w a) (floatArg w b))),
   (0x05, fun w a b c => floatResult w (fAdd (cRnd w) (fMul (floatArg w a) (floatArg w b)) (floatArg w c))),
   (0x06, fun w a b _ => inPayload w (flushBits (cFmt w) (cFtz w) (pickBits false (cFmt w) (floatBits w a) (floatBits w b)))),
   (0x07, fun w a b _ => inPayload w (flushBits (cFmt w) (cFtz w) (pickBits true (cFmt w) (floatBits w a) (floatBits w b))))]
    ++ (List.range 6).map (fun cc => (0x10 + cc, fun w a b _ => word (b2n (match fCmp (floatArg w a) (floatArg w b) with
      | some c => ccHolds cc c
      | none => cc = 1))))

/-- Compute node n, of operation op, can act: it has arc inputs, no intersection unit, and nothing has stopped the invocation. -/
structure NodeReady (n op : Nat) (g : Fab) : Prop where
  calm : g.fault = none
  room : g.more = false
  code : cOp (fabWord g.img 0 n) = op
  known : op ≠ 0
  plain : Machine.unitOf g.img n = none
  inputs : arcPorts (fabWord g.img 0 n) ≠ []

/-- Each arc input of node n is open and offers a data token. -/
def AllData (n : Nat) (g : Fab) : Prop :=
  (g.node n).ended = 0 ∧ ∀ p ∈ arcPorts (fabWord g.img 0 n), ∃ t, g.head 0 n p = some t ∧ t.hl = false

/-- What node n reads at input p (0 A, 1 B, 2 C): the payload that its arc offers, the constant, or FREE (R278). -/
def operand (g : Fab) (n p : Nat) : Word :=
  let w := fabWord g.img 0 n
  if readsArc w p then ((g.head 0 n p).map (·.pay)).getD 0
  else g.fixed n (if p = 0 then cSrcA w else if p = 1 then cSrcB w else 0)

/-- The tag of the token at input p. -/
def tagAt (g : Fab) (n p : Nat) : Nat :=
  if readsArc (fabWord g.img 0 n) p then ((g.head 0 n p).map (·.tag)).getD 0 else 0

/-- Tile or edge n of a kind has consumed the tokens at its input ports ps, and sent outs from its output ports (R286). -/
structure Passed (kind n : Nat) (ps : List Nat) (outs : List (Nat × Token)) (g h : Fab) : Prop where
  taken : ∀ p ∈ ps, ∀ i, g.inArc kind n p = some i → h.arc i = none
  sent : ∀ o ∈ outs, ∀ r ∈ arcsFrom g.img kind n o.1, h.arc r.1 = some o.2
  others : ∀ i, (∀ p ∈ ps, g.inArc kind n p ≠ some i) → (∀ o ∈ outs, ∀ r ∈ arcsFrom g.img kind n o.1, r.1 ≠ i) → h.arc i = g.arc i
  fault : h.fault = g.fault

/-- A firing of node n: its state is st now, but for the tokens counted per port; lost tokens have been discarded. -/
structure Fired (n : Nat) (ps : List Nat) (outs : List (Nat × Token)) (lost : Nat) (st : NodeState) (g h : Fab) : Prop
    extends Passed 0 n ps outs g h where
  node : h.node n = { st with counts := (h.node n).counts }
  counts : ∀ p, Tab.get 0 (h.node n).counts p = Tab.get 0 (g.node n).counts p + (outs.filter (fun o => o.1 = p)).length
  nodes : ∀ k, k ≠ n → h.node k = g.node k
  discard : h.discard = g.discard + lost
  rest : h.st = g.st ∧ h.run.tiles = g.run.tiles ∧ h.run.edges = g.run.edges ∧ h.run.out = g.run.out

/-- It fires so once every arc that it writes is empty, and waits until then (R286). -/
def FiresAs (n : Nat) (ps : List Nat) (outs : List (Nat × Token)) (lost : Nat) (st : NodeState) (g : Fab) : Prop :=
  (outs.all (fun o => g.empty 0 n o.1) = true → Fired n ps outs lost st g (g.stepNode n)) ∧
  (outs.all (fun o => g.empty 0 n o.1) = false → g.stepNode n = g)

/-- The fields of a headland that the fabric emits, from the flags that its inputs brought (R67, R284). -/
structure HeadlandOf (flags : Word) (mism : Bool) (count : Nat) (t : Token) : Prop where
  hl : t.hl = true
  kind : wfld t.pay 62 2 = 2
  err : wbit t.pay 61 = (wbit flags 61 || mism)
  poison : wbit t.pay 60 = wbit flags 60
  mism : wbit t.pay 59 = (wbit flags 59 || mism)
  xfer : wbit t.pay 58 = wbit flags 58
  strict : wbit t.pay 57 = wbit flags 57
  count : wfld t.pay 0 32 = count % 2 ^ 32

/-- The sum so far with one more token (R285): a rounding for each addition. -/
def sumNext (w : Word) (st : NodeState) (start a : Word) : Word :=
  let acc := if st.begun then st.acc else start
  if cFloat w then
    floatResult w (fAdd (cRnd w) (Machine.decode (cFmt w) (acc.toNat % 2 ^ nodeBits w) (cFtz w && !st.begun)) (floatArg w a))
  else intResult w (intArg w acc + intArg w a)

/-- Memory tile n, of this mode, can act, and no word of it is poisoned. -/
structure TileReady (n mode : Nat) (g : Fab) : Prop where
  mode : mMode (fabWord g.img 1 n) = mode
  open' : (g.tile n).ended = 0
  clean : g.spoiled n = false

/-- The tile has taken the token at port 0 and is u now. -/
def TileTook (n : Nat) (u : TileState) (g h : Fab) : Prop := Passed 1 n [0] [] g h ∧ h.tile n = u ∧ h.discard = g.discard

/-- The tile has offered the token x and is u now. -/
def TileGave (n : Nat) (x : Token) (u : TileState) (g h : Fab) : Prop := Passed 1 n [] [(0, x)] g h ∧ h.tile n = u

/-- The elements that a line buffer emits for its rows: each window, oldest row first (R91). -/
def lineWindows (len win step : Nat) (rows : List (List Word)) : List Word :=
  ((List.range len).filter (fun j => j % step = 0 && decide (j + win ≤ len))).flatMap (fun j =>
    rows.flatMap (fun r => (r.drop j).take win))

/-- A memory edge e of the identity transform can act (R97), with no edge asleep and nothing between it and memory. -/
structure EdgeReady (e : Nat) (out : Bool) (g : Fab) : Prop where
  calm : g.fault = none
  room : g.more = false
  awake : g.was = false
  works : g.inject = true
  plain : eXf (fabWord g.img 2 e) = 0
  port : ePort (fabWord g.img 2 e) = 3
  dir : eOut (fabWord g.img 2 e) = out
  going : (g.edge e).ended = false
  fifo : (g.edge e).fifo = []
  quiet : Quiet g.st

end Sys2Proof.Claims

/-- R91 to R94, R97, R278, R279, R283 to R286, R446: what the parts of a binding do with their tokens. A compute node consumes the
tokens of its inputs together and sends the result of its operation, once the arcs that it writes are empty; it gathers a sum or a
count; it steers, filters, merges or switches; it takes headlands, discards what is left over, and sends headlands of its own. An
intersection unit delivers where two coordinates meet. An operand store, a FIFO, a line buffer, a fibre store and a reorder tile take
and offer tokens as their modes say. A memory edge moves element i of its stream to or from its address. -/
def Obligations.FabricNodes : Prop :=
  (∀ (n op : Nat) (g : Fab), NodeReady n op g → AllData n g →
    let w := fabWord g.img 0 n; let ps := arcPorts w; let st := g.node n
    let a := operand g n 0; let b := operand g n 1; let c := operand g n 2; let tag := tagAt g n 0
    let start : Word := if cSrcB w = 1 then nodeConst w (cK w) else 0
    (∀ x ∈ (if cFloat w then floatNodes else intNodes), x.1 = op →
      FiresAs n ps [(0, { pay := x.2 w a b c, tag := tag })] 0 st g) ∧
    (op = 0x01 → FiresAs n ps [(0, { pay := passed w a, tag := tag })] 0 st g) ∧
    (op = 0x18 → FiresAs n ps [] 0 { st with acc := sumNext w st start a, begun := true } g) ∧
    (op = 0x19 → FiresAs n ps [(0, { pay := sumNext w st 0 a, tag := tag })] 0
      { st with acc := sumNext w st 0 a, begun := true } g) ∧
    (op = 0x1A → FiresAs n ps [] 0 { st with acc := st.acc + 1 } g) ∧
    (op = 0x1B → FiresAs n ps [(0, { pay := passed w a, tag := (cK w + st.ordinal) % 65536 })] 0
      { st with ordinal := st.ordinal + 1 } g) ∧
    (op = 0x1C → FiresAs n ps [(0, { pay := word (tag % 2 ^ nodeBits w), tag := tag })] 0 st g) ∧
    (op = 0x1D → FiresAs n ps [(0, { pay := inPayload w (c.toNat % 2 ^ nodeBits w), tag := tagAt g n 2 })] 0 st g) ∧
    (op = 0x20 → FiresAs n ps [(if wbit c 0 then 0 else 1, { pay := passed w a, tag := tag })] 0 st g) ∧
    (op = 0x21 → FiresAs n ps (if wbit c 0 then [(0, { pay := passed w a, tag := tag })] else []) 0 st g) ∧
    (op = 0x23 → FiresAs n ps (if wfld c 0 3 ≤ cNout w then [(wfld c 0 3, { pay := passed w a, tag := tag })] else [])
      (if wfld c 0 3 ≤ cNout w then 0 else 1) st g) ∧
    (op = 0x22 → (∀ p, p ≤ 1 → readsArc w p = true) →
      let p := if wbit c 0 then 0 else 1
      FiresAs n [2, p] [(0, { pay := passed w (operand g n p), tag := tagAt g n p })] 0 st g)) ∧
  (∀ (n op p : Nat) (t : Token) (g : Fab), NodeReady n op g → op ≠ 0x22 →
    let w := fabWord g.img 0 n; let st := g.node n
    let live := (arcPorts w).filter (fun q => !nbit st.ended q)
    (live.find? (fun q => (g.head 0 n q).any (·.hl)) = some p → g.head 0 n p = some t →
      ((wbit t.pay 57 && wbit t.pay 59) = false → ∃ h, h = g.stepNode n ∧ Passed 0 n [p] [] g h ∧
        h.node n = { st with ended := Nat.lor st.ended (2 ^ p), flags := st.flags ||| (t.pay &&& 0x3E00000000000000) }) ∧
      (wbit t.pay 57 = true → wbit t.pay 59 = true → g.inject = true →
        g.stepNode n = { g with fault := some (cStreamLength, t.pay) })) ∧
    (live ≠ [] → live.length < (arcPorts w).length → (∀ q ∈ live, (g.head 0 n q).any (·.hl) = false) →
      live.find? (fun q => (g.head 0 n q).isSome) = some p →
      ∃ h, h = g.stepNode n ∧ Passed 0 n [p] [] g h ∧ h.discard = g.discard + 1 ∧ h.node n = { st with mism := true }) ∧
    (live = [] → op ≠ 0x18 → op ≠ 0x1A → st.fin ≤ 2 → (headPorts g.img n).all (g.empty 0 n) = true →
      (g.stepNode n).node n = { st with fin := 3 } ∧
        ∀ q ∈ headPorts g.img n, ∀ r ∈ arcsFrom g.img 0 n q, ∃ x, (g.stepNode n).arc r.1 = some x ∧
          HeadlandOf st.flags st.mism (Tab.get 0 st.counts q) x) ∧
    (live = [] → op = 0x18 ∨ op = 0x1A → st.fin ≤ 1 → g.empty 0 n 0 = true → op = 0x1A ∨ st.begun = true →
      Passed 0 n [] [(0, { pay := if op = 0x1A then word (st.acc.toNat % 2 ^ nodeBits w) else st.acc })] g (g.stepNode n) ∧
        ((g.stepNode n).node n).fin = 2)) ∧
  (∀ (n ta tb : Nat) (x y : Token) (g : Fab), g.fault = none → g.more = false → cOp (fabWord g.img 0 n) = 0x04 →
    Machine.unitOf g.img n = some (ta, tb) → (g.node n).fin = 0 → (g.node n).ended = 0 →
    g.head 0 n 0 = some x → g.head 0 n 1 = some y → x.hl = false → y.hl = false →
    let w := fabWord g.img 0 n
    let f := if cFloat w then floatResult w (fMul (floatArg w x.val) (floatArg w y.val))
      else intResult w (intArg w x.val * intArg w y.val)
    (x.pay = y.pay → FiresAs n [0, 1] [(0, { pay := f })] 0 (g.node n) g) ∧
    (x.pay.toNat < y.pay.toNat → mUnion (fabWord g.img 1 ta) = false → Passed 0 n [0] [] g (g.stepNode n)) ∧
    (y.pay.toNat < x.pay.toNat → mUnion (fabWord g.img 1 ta) = false → Passed 0 n [1] [] g (g.stepNode n))) ∧
  (∀ (n : Nat) (x : Token) (g : Fab), g.head 1 n 0 = some x → x.hl = false →
    let w := fabWord g.img 1 n; let t := g.tile n; let v : Word := word (x.pay.toNat % 2 ^ (8 * mBytes w))
    (TileReady n 2 g → mEnt w = 1 → (∀ e ∈ t.entries, e.closed = true) →
      (t.entries.length < mCap w →
        TileTook n { t with entries := t.entries ++ [{ tag := x.tag, toks := [(v, 0)], closed := true }], pos := 1 } g (g.stepIn n)) ∧
      (t.entries.length = mCap w → g.stepIn n = g)) ∧
    (TileReady n 1 g → (∀ e ∈ t.entries, e.closed = true) → 1 < mBufWords w * 64 / mBytes w →
      (t.entries.length < mBufs w → TileTook n { t with entries := t.entries ++ [{ toks := [(v, 0)] }] } g (g.stepIn n)) ∧
      (t.entries.length = mBufs w → g.stepIn n = g)) ∧
    (TileReady n 3 g → t.out = [] →
      (t.part.length + 1 < mRowLen w → TileTook n { t with part := t.part ++ [v] } g (g.stepIn n)) ∧
      (t.part.length + 1 = mRowLen w → t.rows.length ≤ mRows w → mWin w ≤ mRowLen w → ∃ u, TileTook n u g (g.stepIn n) ∧ u.part = [] ∧
        u.rows = (t.rows ++ [t.part ++ [v]]).drop (t.rows.length + 1 - mRows w) ∧
        (u.rows.length < mRows w → u.out = []) ∧
        (u.rows.length = mRows w → u.out.map (·.pay) = lineWindows (mRowLen w) (mWin w) (mStepX w) u.rows))) ∧
    (TileReady n 4 g → mPosv w = true → t.entries.length < mFibres w →
      let c := x.pay.toNat % 2 ^ (8 * mCoord w)
      ((∀ l, t.last = some l → l < c) →
        TileTook n { t with entries := t.entries ++ [{ toks := [(word c, word t.pos)], closed := true }]
                            last := some c, pos := t.pos + 1 } g (g.stepIn n)) ∧
      (∀ l, t.last = some l → c ≤ l → g.inject = true → g.stepIn n = { g with fault := some (cFibre, word n) })) ∧
    (TileReady n 5 g → mEnt w = 1 → t.out = [] → (∀ e ∈ t.entries, e.closed = true ∧ e.tag ≠ tileNext w t) →
      let d := (x.tag + 65536 - tileNext w t) % 65536
      ((mCap w ≤ d ∨ ∃ e ∈ t.entries, e.tag = x.tag) → g.inject = true →
        g.stepIn n = { g with fault := some (cFabTag, word n) }) ∧
      (d < mCap w → (∀ e ∈ t.entries, e.tag ≠ x.tag) →
        TileTook n { t with entries := t.entries ++ [{ tag := x.tag, toks := [(v, 0)], closed := true }] } g (g.stepIn n)))) ∧
  (∀ (n : Nat) (g : Fab), g.empty 1 n 0 = true →
    let w := fabWord g.img 1 n; let t := g.tile n
    (∀ e es v, TileReady n 2 g → t.entries = e :: es → e.toks = [v] → e.closed = true →
      TileGave n { pay := v.1, tag := if mTagged w then e.tag else 0 } { t with entries := es } g (g.stepOut n)) ∧
    (∀ e es, TileReady n 1 g → t.entries = e :: es → e.closed = true → t.pos < e.toks.length →
      TileGave n { pay := (nth (0, 0) e.toks t.pos).1 }
        (if t.pos + 1 < e.toks.length then { t with pos := t.pos + 1 }
         else if t.reps + 1 < mRepeat w then { t with pos := 0, reps := t.reps + 1 }
         else { t with entries := es, pos := 0, reps := 0 }) g (g.stepOut n)) ∧
    (∀ x xs, TileReady n 3 g → t.out = x :: xs → TileGave n x { t with out := xs } g (g.stepOut n)) ∧
    (∀ e es c, TileReady n 4 g → t.entries = e :: es → e.toks = [c] →
      TileGave n { pay := c.1, val := c.2 } { t with entries := es, count := t.count + 1 } g (g.stepOut n)) ∧
    (∀ e v, TileReady n 5 g → t.out = [] → t.entries = [e] → e.tag = tileNext w t → e.toks = [v] → e.closed = true →
      ((g.stepOut n).tile n).out = [{ pay := v.1, tag := e.tag }] ∧ ((g.stepOut n).tile n).entries = [] ∧
        ((g.stepOut n).tile n).next = some ((e.tag + 1) % 65536))) ∧
  (∀ (e : Nat) (g : Fab) (l : Loc) (mt : Nat),
    let w := fabWord g.img 2 e; let es := g.edge e; let k := eBytes w
    let o := es.idx * k
    let va := Tab.get 0 g.st.hart.tb (eBase w) + wordI ((o / eRow w : Nat) * ePitch w) + word (o % eRow w)
    (EdgeReady e false g → g.empty 2 e 0 = true →
      (es.idx < es.lim → check g.st va k { rd := true, mtMax := 1, align := k } = .ok l mt false →
        Passed 2 e [] [(0, { pay := word (accRead g.st l k), tag := es.idx % 65536 })] g (g.stepEdgeIn e) ∧
          (g.stepEdgeIn e).edge e = { es with idx := es.idx + 1, count := es.count + 1 } ∧ (g.stepEdgeIn e).st = g.st) ∧
      (es.lim ≤ es.idx → ∃ x, Passed 2 e [] [(0, x)] g (g.stepEdgeIn e) ∧ HeadlandOf 0 es.mism es.count x ∧
        ((g.stepEdgeIn e).edge e).ended = true)) ∧
    (∀ (t : Token) (pa : Nat), EdgeReady e true g → g.head 2 e 0 = some t → t.hl = false → inRegs pa = false →
      check g.st va k { wr := true, mtMax := 1, align := k } = .ok (.pa pa) mt false →
      Passed 2 e [0] [] g (g.stepEdgeOut e) ∧
        (g.stepEdgeOut e).edge e = { es with idx := es.idx + 1, count := es.count + 1 } ∧
        (∀ i, i < k → getByte (g.stepEdgeOut e).st (pa + i) = BitVec.ofNat 8 (t.pay.toNat / 256 ^ i)) ∧
        SameMemBut pa k g.st (g.stepEdgeOut e).st) ∧
    (∀ c v, (EdgeReady e false g → g.empty 2 e 0 = true → es.idx < es.lim →
        check g.st va k { rd := true, mtMax := 1, align := k } = .trap c →
        v = va → g.stepEdgeIn e = { g with fault := some (c, v) })))

namespace Sys2Proof.Claims

/-! The device's own steps -/

/-- Nothing differs but what the harts hold. -/
def OnlyHarts (s t : State) : Prop := t = { s with hart := t.hart, parked := t.parked }

/-- Hart n holds h now, and every other hart holds what it held. -/
structure HartBecomes (n : Nat) (h : Hart) (s t : State) : Prop where
  frame : OnlyHarts s t
  this : getHart t n = h
  others : ∀ k, k ≠ n → getHart t k = getHart s k

/-- The hart holds a context and runs or waits. -/
def Acting (h : Hart) : Prop := h.status ≠ .noContext ∧ h.status ≠ .halted

/-- Events that act on one hart as its own steps do. -/
def HartEvent (e : Nat → Instr) (h : Hart) : Prop :=
  e = .interruptTake ∨ (e = .storeBufferDrain ∧ h.storeBuf ≠ []) ∨ e = .waitSpuriousEnd ∨ ∃ va, e = fun n => .tableWalk n va

/-- The one arrival that waits for the context m in the state u of its hart's own step, and what becomes of it there (R205). -/
def ArrivalCounts (n : Nat) (m : Member) (s u : State) : Prop :=
  ∀ k, (barrierOf u m).pendArrivals = [k] →
    (owesAt u m k = true → exec (.barrierArrival n) s = .next u) ∧
    (owesAt u m k = false → (barrierOf u m).arrived = false →
      (∃ j ∈ gangOf u (memberSeat u m), j ≠ memberSeat u m ∧ (holderOf u m j).any (fun x => (barrierOf u x).arrived) = false) →
      ∃ t, exec (.barrierArrival n) s = .next t ∧ (barrierOf t m).arrived = true ∧ (barrierOf t m).pendArrivals = [] ∧
        (barrierOf t m).phase = (barrierOf u m).phase ∧ (∀ j, (getHart t j).sregs = (getHart u j).sregs) ∧ t.mem = u.mem)

end Sys2Proof.Claims

/-- R45, R53, R152 to R154, R184, R205, R362, R364, R403: what the device's own steps do to a hart and its convoys. A convoy
whose words are legal and well-formed is in hand once decoded; one whose scalar slots have executed enters the VQ at its end;
the head of the VQ issues, and retires once its slots are complete, its value reaching its register; a pending interrupt is
taken between two convoys; a `wait` ends; an arrival that waited counts, also one of a displaced context; a cancelled `fut.ld`
leaves the deferral buffer. A step whose rule asks nothing changes nothing. A step of another hart is what that hart's own step
would be. When a step comes (logs 1, 9), that interrupts stand in a list (log 22) and the counter that orders waits and accesses
(log 47) are the model's choice. -/
def Obligations.EventsOfHarts : Prop :=
  (∀ s : State, s.stop = none →
    (s.hart.status ≠ .running ∨ s.hart.cv.live = true ∨ attachHolds s.hart = true → exec .convoyDecode s = .next s) ∧
    (∀ pa mt v (ws : List (BitVec 32)), s.hart.status = .running → s.hart.cv = {} → attachHolds s.hart = false →
      check s s.hart.pc 16 { ex := true, window := false, align := 16 } = .ok (.pa pa) mt v →
      Tab.get none (getCore s (myCore s)).icache (pa / 128) = none → Tab.get none s.hart.ahead (pa / 128) = none →
      ws = (List.range 4).map (fun i => BitVec.ofNat 32 (ofBytes (bytesPast mt s (pa + 4 * i) 4))) → decodeTrap s ws 0 = none →
      ∃ t, exec .convoyDecode s = .next t ∧ t = { s with hart := t.hart, cores := t.cores } ∧
        t.hart = { s.hart with
          cv := { live := true, base := convoyAddr s, words := ws, npc := convoyAddr s + 16 }, ahead := t.hart.ahead }) ∧
    (s.hart.cv.live = false → exec .convoyCommit s = .next s) ∧
    (s.hart.cv.live = true → 4 ≤ s.hart.cv.slot → (splitFence s.hart.cv.acts).2 = [] → streamsOf s.hart.cv.acts = 0 →
      stalls s (roomFor 0 s).2 s.hart.cv.acts = false →
      s.hart.cv.after = .go → s.hart.cv.acts.all (fun a => a.late.isEmpty) = true → s.hart.cv.acts.all isSetCtl = false →
      s.hart.ring = none →
      exec .convoyCommit s = .next { s with
        order := s.order + 6
        hart := { s.hart with
          pc := s.hart.cv.npc, cv := {}, status := .running
          vq := s.hart.vq ++
            [{ pc := s.hart.pc, words := s.hart.cv.words, acts := s.hart.cv.acts, seq := s.order + 1 }] } }) ∧
    (s.hart.vq = [] → exec .convoyIssue s = .next s ∧ exec .convoyRetire s = .next s) ∧
    (∀ e0 e young, s.hart.vq = e0 :: young → e = takeReads s e0 →
      (∃ t, exec .convoyIssue s = .next t ∧
        t.hart.iss = { group := true, seq := e.seq, re := e.re, flags := e.flags } ∧
        t = { s with hart := { s.hart with iss := t.hart.iss, vwait := none } }) ∧
      (headDone s.hart e = false → exec .convoyRetire s = .next s) ∧
      (headDone s.hart e = true → e.re = false → s.hart.iss.ringRead = false →
        e.results ++ s.hart.iss.results ++ s.hart.iss.whole.map (·.2) = [] →
        ∃ t, exec .convoyRetire s = .next t ∧
          t = { s with hart := { s.hart with vq := young, iss := {}, vwait := none, vanswer := none } }) ∧
      (∀ (d : BitVec 5) (v p : Word), headDone s.hart e = true → d ≠ 0 →
        e.results ++ s.hart.iss.results ++ s.hart.iss.whole.map (·.2) = [.reg d.toNat v p] →
        ∃ t, exec .convoyRetire s = .next t ∧ getS t d = v ∧ markS t d = p ∧ t.hart.vq = young ∧ t.hart.iss = {} ∧
          (∀ r : BitVec 5, r ≠ d → getS t r = getS s r) ∧ SameMem s t)) ∧
    (s.hn < 1280 → Acting s.hart →
      (takesIrq s.hart = false → exec (.interruptTake s.hn) s = .next s) ∧
      (∀ p ps, takesIrq s.hart = true → s.hart.pend = p :: ps → TrapRoom s →
        ∃ t, exec (.interruptTake s.hn) s = .next t ∧
          EntersHandler (setBit (word p.code) 63 true) p.tval (convoyAddr s)
            { s with hart := { s.hart with pend := ps } } t) ∧
      (s.hart.status ≠ .waiting .wait → exec (.waitSpuriousEnd s.hn) s = .next s)) ∧
    (∀ n, n < 1280 → (getHart s n).status = .waiting .wait →
      ∃ t, exec (.waitSpuriousEnd n) s = .next t ∧ HartBecomes n { getHart s n with answer := some (0, 0) } s t) ∧
    (s.hn < 1280 →
      (s.hart.pendArrivals = [] →
        (displacedFrom s s.hn = [] → exec (.barrierArrival s.hn) s = .next s) ∧
        (∀ m u, displacedFrom s s.hn = [m] → u = performAllOf m s → u.stop = none → ArrivalCounts s.hn m s u)) ∧
      (∀ u, s.hart.pendArrivals ≠ [] → u = performAllOf (.hart s.hn) (releaseState s) → u.stop = none →
        displacedFrom u s.hn = [] → ArrivalCounts s.hn (.hart s.hn) s u)) ∧
    (∀ n, exec (.futCancel n) s = .next { s with deferred := s.deferred.filter (fun d => decide (d.hart ≠ n)) })) ∧
  (∀ e (n : Nat) (s u : State), HartEvent e (getHart s n) → s.stop = none → n < 1280 → Acting (getHart s n) →
    exec (e n) (switchTo n s) = .next u → exec (e n) s = .next (switchTo s.hn u))

/-- R36, R37, R42, R43, R48 to R53, R59, R60, R66, R69, R229, R230: what the device's own steps do to memory, futures, the TLBs
and streams. A write changes exactly its bytes, where memory has them, and ends the poison of lines that it covers; poison
answers the requests deferred on its line; a future request gives what its word holds, waits or is turned away; a walk fills the
TLBs of its hart; the oldest combining entry is one atomic access, which a poisoned line does not take; an exchange goes on when
its gang is complete; a stream waits for earlier stores of its bytes; a headland delivers the status word. When an exchange or a
stream moves (log 10) and that an access enters no translation itself (log 12) are the model's choices; a poisoned line under a
combining entry: log 92. -/
def Obligations.EventsOfMemory : Prop :=
  ∀ s : State, s.stop = none →
    (∀ (pa : Nat) (bytes : List Byte), ∀ i ∈ [(.writePerform pa bytes : Instr), .sliceRequest (.write pa bytes)],
      (populated s pa bytes.length = false → exec i s = .next s) ∧
      (populated s pa bytes.length = true →
        ∃ t, exec i s = .next t ∧ (∀ k b, bytes[k]? = some b → getByte t (pa + k) = b) ∧ SameMemBut pa bytes.length s t ∧
          (∀ l, Tab.get false t.linePois l =
            if pa ≤ 128 * l ∧ 128 * l + 128 ≤ pa + bytes.length then false else Tab.get false s.linePois l) ∧
          t.hart = s.hart ∧ t.parked = s.parked ∧
          ∀ c, { getCore t c with dcache := [] } = { getCore s c with dcache := [] })) ∧
    (∀ pa, exec (.sliceRequest (.read pa)) s = .next s) ∧
    (∀ line, Tab.wf none s.far = true →
      ∃ t, exec (.sliceRequest (.evict line)) s = .next t ∧ t.hart = s.hart ∧ t.parked = s.parked ∧
        (∀ c, { getCore t c with dcache := [] } = { getCore s c with dcache := [] }) ∧
        (∀ a b, a / 128 = line → Tab.get none s.far a = some b → getByte t a = b ∧ Tab.get none t.far a = none) ∧
        (∀ a, (a / 128 ≠ line ∨ Tab.get none s.far a = none) →
          getByte t a = getByte s a ∧ Tab.get none t.far a = Tab.get none s.far a)) ∧
    (∀ line, ∃ t, exec (.sliceRequest (.poison line)) s = .next t ∧ t.mem = s.mem ∧
      (∀ l, Tab.get false t.linePois l = if l = line then true else Tab.get false s.linePois l) ∧
      t.deferred = s.deferred.filter (fun d => decide (d.pa / 128 ≠ line)) ∧
      ∀ d ∈ s.deferred, d.pa / 128 = line → (getHart s d.hart).status = .waiting .future →
        getHart t d.hart = { getHart s d.hart with answer := some (0, 2), status := .running }) ∧
    (∀ (n pa : Nat) (d b : BitVec 5),
      (futureAt s pa = false ∨ awaits s n = false → exec (.futLdApply n pa d b) s = .next s) ∧
      (futureAt s pa = true → awaits s n = true →
        (linePoisoned s pa 8 = true → ∃ t, exec (.futLdApply n pa d b) s = .next t ∧
          HartBecomes n { getHart s n with answer := some (0, 2), status := .running } s t) ∧
        (linePoisoned s pa 8 = false → isFull s pa = true → ∃ t, exec (.futLdApply n pa d b) s = .next t ∧
          HartBecomes n { getHart s n with answer := some (word (getMem s pa 8), 0), status := .running } s t) ∧
        (linePoisoned s pa 8 = false → isFull s pa = false → deferredAt s (homeOf pa) < 256 →
          exec (.futLdApply n pa d b) s =
            .next { s with deferred := s.deferred ++ [{ hart := n, pa := pa, d := d.toNat, b := b.toNat }] }) ∧
        (linePoisoned s pa 8 = false → isFull s pa = false → 256 ≤ deferredAt s (homeOf pa) →
          ∃ t, exec (.futLdApply n pa d b) s = .next t ∧
            HartBecomes n { getHart s n with answer := some (0, 1), status := .running } s t))) ∧
    (∀ (pa : Nat) (v : Word),
      (futureAt s pa = false ∨ isFull s pa = true → exec (.futStApply pa v) s = .next s) ∧
      (futureAt s pa = true → isFull s pa = false →
        ∃ t, exec (.futStApply pa v) s = .next t ∧ isFull t pa = true ∧ Stored (.pa pa) 8 v.toNat s t ∧
          t.deferred = s.deferred.filter (fun d => decide (d.pa ≠ pa)) ∧
          ∀ d ∈ s.deferred, d.pa = pa → (getHart s d.hart).status = .waiting .future →
            getHart t d.hart = { getHart s d.hart with answer := some (v, 0), status := .running })) ∧
    (∀ pa,
      (futureAt s pa = false → exec (.futClrApply pa) s = .next s) ∧
      (futureAt s pa = true →
        ∃ t, exec (.futClrApply pa) s = .next t ∧ t = { s with full := t.full } ∧ isFull t pa = false ∧
          ∀ a, a / 8 ≠ pa / 8 → isFull t a = isFull s a)) ∧
    (∀ va : Word, s.hn < 1280 → Acting s.hart →
      let asid := wfld s.hart.asid 0 16
      ((tlbHit s (myCore s) asid va).isSome = true → exec (.tableWalk s.hn va) s = .next s) ∧
      (∀ c, walk s s.hart.ptbase va = .fault c → exec (.tableWalk s.hn va) s = .next s) ∧
      (∀ w size, tlbHit s (myCore s) asid va = none → wfld va 52 12 = 0 → inWindow va = false →
        walk s s.hart.ptbase va = .leaf w size →
        let e (l2 : Bool) : TlbEntry :=
          { core := myCore s, l2 := l2, asid := asid, vpage := va.toNat / 2 ^ size, size := size, leaf := w }
        ∃ t, exec (.tableWalk s.hn va) s = .next t ∧ t = { s with tlb := t.tlb } ∧ e true ∈ t.tlb ∧ e false ∈ t.tlb ∧
          ∀ x ∈ t.tlb, x ∈ s.tlb ∨ x = e true ∨ x = e false)) ∧
    (∀ core,
      ((getCore s core).comb = [] → exec (.combiningEntryRetire core) s = .next s) ∧
      (∀ e es, (getCore s core).comb = e :: es →
        ∃ t, exec (.combiningEntryRetire core) s = .next t ∧ (getCore t core).comb = es ∧
          (linePoisoned s e.pa e.n = true → t.mem = s.mem) ∧
          (linePoisoned s e.pa e.n = false → Stored (.pa e.pa) e.n (vamoF e.op e.n (getMem s e.pa e.n) e.val) s t) ∧
          t.hart = s.hart ∧ t.parked = s.parked)) ∧
    (∀ m n, n = seatOf s m →
      ((xchParts s n).all (fun x => !storesKeep s x.2.2) = true →
        ((∃ k ∈ gangOf s n, xchEntry s k = none) ∨ xchReady s n = false) → exec (.exchangeStart m) s = .next s) ∧
      (∀ e, gangOf s n = [n] → xchEntry s n = some e → entryBlocked s (coreOf n) e = false →
        ∃ t, exec (.exchangeStart m) s = .next t ∧ (getCq t (coreOf n) e).phase = 2 ∧ t.hn = s.hn ∧
          ∀ k, k ≠ e → getCq t (coreOf n) k = getCq s (coreOf n) k)) ∧
    (∀ core e,
      let q := getCq s core e
      (q.phase = 1 → q.xch = true → seatOf s q.hart = q.seat →
        exec (.streamRetire core e) s = exec (.exchangeStart q.hart) s) ∧
      (q.phase ≠ 1 → exec (.streamRetire core e) s = .next s) ∧
      (q.phase = 1 → q.xch = false → storesKeep s q = false → entryBlocked s core e = true →
        exec (.streamRetire core e) s = .next s) ∧
      (∀ t, q.phase = 1 → q.xch = false → storesKeep s q = true → t = drainFor q.owner s → t.stop = none →
        entryBlocked t core e = true → exec (.streamRetire core e) s = .next t) ∧
      (q.phase = 1 → q.xch = false → entryBlocked s core e = false →
        ∃ t, exec (.streamRetire core e) s = .next t ∧ (getCq t core e).phase = 2 ∧
          ∀ k, k ≠ e → getCq t core k = getCq s core k) ∧
      (q.phase = 2 → q.heads ≠ [] →
        ∃ t, exec (.streamHeadland core e) s = .next t ∧ t = { s with cores := t.cores } ∧
          ∀ k, getCq t core k = if k = e then { q with heads := q.heads.tail } else getCq s core k) ∧
      (q.phase = 2 → q.heads = [] → q.frame = none → q.bar = false → (getHart s q.hart).pendArrivals = [] →
        (getCore s core).retired = false →
        ∃ t, exec (.streamHeadland core e) s = .next t ∧
          getHart t q.hart = { getHart s q.hart with strStat := Tab.set 0 (getHart s q.hart).strStat e q.status } ∧
          (∀ k, k ≠ q.hart → getHart t k = getHart s k) ∧
          (∀ k, getCq t core k = if k = e then {} else getCq s core k) ∧ SameMem s t))

namespace Sys2Proof.Claims

/-- The invocation that has stopped in slot i of the current hart's core, as that hart goes on with it (R296, R297). -/
def stoppedRun (s : State) (i : Nat) : Fab :=
  { st := s, run := (getSlot s i).run, img := (getSlot s i).image, mask := 0, va := 0, vb := 0, vd := 0
    room := s.hart.maxVl, seed := s.free }

/-- Slot i holds an invocation of the current hart that has stopped part-way. -/
structure StoppedPart (s : State) (i : Nat) : Prop where
  acting : Acting s.hart
  hart : s.hn < 1280
  owner : (getSlot s i).owner = some s.hn
  live : (getSlot s i).run.live = true
  stopped : s.hart.fopStop = [i]

/-- Queue j holds the one record r on chip, and every other queue none. -/
structure OnlyRecord (j : Nat) (r : QRec) (s : State) : Prop where
  this : (getQueue s j).onchip = [r] ∧ (getQueue s j).spilled = 0
  others : ∀ i, i ≠ j → (getQueue s i).onchip = []

end Sys2Proof.Claims

/-- R116, R195, R196, R199, R269, R291, R295 to R297, R365 to R368, R370, R373, R381, R382: the device's own steps on lanes,
contexts, tasks, attachments and fabric slots. A hart takes the lowest free group; the owner of a marked group is displaced; a
listed context resumes on a free hart; a ready record is bound to the harts that wait for it; the last member's task ends; a
looked-up record is marked, or completed by a hit; a bound channel's token is posted; a spilled record returns on chip; an
attachment is granted. A hart that cannot stop yet commits no more (R409). FOP_COMPLETE completes a stopped `fop`, and
FOP_MORE_STOP stops it with MORE. FOP_FAULT, where its convoy goes on with it and the next token faults: `fsidx`, `fstat`.SLOT,
`vstart` and the slot record the invocation, and the convoy traps to the handler with the fault's cause and `tval`, as the head
of the shadow VQ; where no convoy goes on with it yet, it stays as R297 has recorded it. A run that no hart owns is given up,
once 512 clocks have let its outbound edges write what they can. The record lies on a page of memory type 0 or 1: what another
does is the model's choice (log 86). Where the addresses of spilled records stand is the model's choice (log 46), and which ASID
names a word its reading (log 44). -/
def Obligations.EventsOfContexts : Prop :=
  ∀ s : State, s.stop = none →
    (∀ n,
      (negotiating s n = false → exec (.laneGroupTake n) s = .next s) ∧
      (∀ g : Neg, (getHart s n).neg = some g → g.stage = 2 → 4 ≤ lanesOwned s n →
        ∃ t, exec (.laneGroupTake n) s = .next t ∧ HartBecomes n { getHart s n with neg := some { g with stage := 3 } } s t) ∧
      (∀ (g : Neg) (j : Nat), (getHart s n).neg = some g → g.stage = 2 → lanesOwned s n < 4 →
        findFrom (groupFree s n) 0 16 = some j →
        ∃ t, exec (.laneGroupTake n) s = .next t ∧ ownerOf t (coreOf n) j = n % 8 + 1 ∧ SameMem s t)) ∧
    (∀ n,
      ((ownedList s n).any (marked s (coreOf n)) = false → exec (.reclaimTimeout n) s = .next s) ∧
      (∀ f, (ownedList s n).any (marked s (coreOf n)) = true → freeFrame s (clusterOf n) = some f →
        canStop (getHart s n) = true → (getHart s n).rowsDue = none →
        ∃ t, exec (.reclaimTimeout n) s = .next t ∧ (getHart t n).status = .noContext ∧
          f ∈ (getCluster t (clusterOf n)).resumeList ∧ (getFrame t (clusterOf n) f).use = .listed ∧
          ∀ g, g < 16 → ownerOf t (coreOf n) g ≠ n % 8 + 1) ∧
      (∀ f, (ownedList s n).any (marked s (coreOf n)) = true → freeFrame s (clusterOf n) = some f → Acting (getHart s n) →
        canStop (getHart s n) = false → (getHart s n).rowsDue = none →
        ∃ t, exec (.reclaimTimeout n) s = .next t ∧ HartBecomes n { getHart s n with stopFor := some none } s t)) ∧
    (∀ n,
      (isFree s n = false ∨ (getCluster s (clusterOf n)).resumeList = [] → exec (.contextResume n) s = .next s) ∧
      (∀ f, n < 1280 → isFree s n = true → (getHart s n).status = .noContext →
        let k := clusterOf n; let fr := getFrame s k f; let w0 := frameWord s k f 0
        resumeOrder s k = [f] → fr.use = .listed → fr.taking = false → fr.target.getD fr.home = coreOf n →
        fld w0 23 17 = 0 → nbit w0 61 = false → streamsWritten s k f = true →
        ∃ t, exec (.contextResume n) s = .next t ∧ (getHart t n).status = .running ∧
          (getHart t n).pc = word (frameWord s k f 24 / 16 * 16) ∧
          (∀ r, 1 ≤ r → r < 32 → Tab.get 0 (getHart t n).sregs r = word (frameWord s k f (0x100 + 8 * r))) ∧
          getFrame t k f = {} ∧ f ∉ (getCluster t k).resumeList ∧ SameMem s t)) ∧
    (∀ k,
      (10 ≤ k → exec (.taskDispatch k) s = .next s) ∧
      (∀ j r g, k < 10 → (getCluster s k).resumeList = [] → OnlyRecord j r s → wantsLookup s r = false →
        chooseHead s k = some (j, r, g) →
        ∃ t tid, exec (.taskDispatch k) s = .next t ∧ (getQueue t j).onchip = [] ∧
          ∀ n ∈ g, (getHart t n).bound = some { queue := j, tid := tid } ∧ (getHart t n).status = .running ∧
            (getHart t n).answer = some (r.addr, 0))) ∧
    (∀ q tid, (∀ n, (getTask s q tid).members ≠ [.hart n]) → exec (.taskCompletion q tid) s = .next s) ∧
    (∀ b : BoundTask, s.hn < 1280 → s.hart.bound = some b → s.hart.cv.live = true → s.hart.status = .waiting .stream →
      (getTask s b.queue b.tid).members = [.hart s.hn] →
      let w := (nth 0 s.hart.cv.words s.hart.cv.slot).toNat
      let u := releaseState s
      let d := BitVec.ofNat 5 (fld w 21 5)
      isTaskDone w = true → u.stop = none → unperformed u = false → (getTask u b.queue b.tid).owing = [] →
      recField (getTask u b.queue b.tid).rc.bytes 104 8 = 0 →
      ∃ t, exec (.taskCompletion b.queue b.tid) s = .next t ∧ t.hart.bound = none ∧ getTask t b.queue b.tid = {} ∧
        (d ≠ 0 → getS t d = 2) ∧ t.hart.status = .running ∧ t.hart.cv = { s.hart.cv with slot := s.hart.cv.slot + 1 }) ∧
    (∀ q,
      (640 ≤ q → exec (.reuseLookup q) s = .next s) ∧
      (readyHead s q = none → exec (.reuseLookup q) s = .next s) ∧
      (∀ r, q < 640 → readyHead s q = some r →
        (lookDue s q r = false → exec (.reuseLookup q) s = .next s) ∧
        (lookDue s q r = true → mapTenant s (getQueue s q).qasid = some 0 →
          ∃ t, exec (.reuseLookup q) s = .next t ∧ t = { s with queues := t.queues } ∧
            (getQueue t q).onchip = { r with looked := true, insertable := false } :: (getQueue s q).onchip.tail) ∧
        (∀ x l e, lookDue s q r = true → mapTenant s (getQueue s q).qasid = some x → x ≠ 0 →
          lookRanges s (getQueue s q).ptb r.bytes = some l →
          findEntry s x (reuseKey (getTenant s x).salt r.bytes l s).2 = some e → e.tenant = x → e.spans = l.outs →
          recField r.bytes 104 8 = 0 → (getQueue s q).spilled = 0 →
          ∃ t, exec (.reuseLookup q) s = .next t ∧ (getQueue t q).onchip = (getQueue s q).onchip.tail ∧
            (getTenant t x).hits = bump32 (getTenant s x).hits ∧ SameMem s t))) ∧
    (∀ c,
      let ch := getIn s c; let q := getQueue s ch.queue
      (ch.tokens = [] ∨ 256 ≤ c ∨ ch.isBound = false ∨ ch.lfault = true → exec (.boundLaunch c) s = .next s) ∧
      (∀ n v rest pa mt x, c < 256 → ch.tokens = (n, v) :: rest → ch.isBound = true → ch.lfault = false → ch.queue < 640 →
        let va := ch.rbase + word (128 * v.toNat)
        checkCtl s q.ptb va 128 false { rd := true, mtMax := 1, window := false, align := 128 } = .ok (.pa pa) mt x →
        (q.en = true → malformed (bytesPast mt s pa 128) = false → q.spf = false → q.onchip.length < 32 → q.spilled = 0 →
          ∃ t, exec (.boundLaunch c) s = .next t ∧ (getIn t c).tokens = rest ∧ (getIn t c).cons = ch.cons + 1 ∧
            (getQueue t ch.queue).onchip = q.onchip ++ [{ addr := va, bytes := bytesPast mt s pa 128 }] ∧ SameMem s t) ∧
        (q.en = true → malformed (bytesPast mt s pa 128) = true →
          ∃ t, exec (.boundLaunch c) s = .next t ∧ (getIn t c).lfault = true ∧ (getIn t c).tokens = ch.tokens ∧ SameMem s t))) ∧
    (∀ j,
      let q := getQueue s j
      (q.spf = true ∨ q.spilled = 0 ∨ 32 ≤ q.onchip.length ∨ 640 ≤ j → exec (.ringRefill j) s = .next s) ∧
      (∀ pa mt x, j < 640 → q.spf = false → q.spilled = 1 → q.onchip.length < 32 →
        checkCtl s q.ptb (ringVa q q.head) 128 true { rd := true, mtMax := 1, window := false, align := 128 } = .ok (.pa pa) mt x →
        ∃ t, exec (.ringRefill j) s = .next t ∧ t = { s with queues := t.queues } ∧
          (getQueue t j).onchip = q.onchip ++ [{ addr := q.addrs.headD 0, bytes := bytesPast mt s pa 128 }] ∧
          (getQueue t j).spilled = 0 ∧ (getQueue t j).head = (q.head + 1) % q.room)) ∧
    (∀ quad,
      (attachQueue s quad = [] → exec (.mattachGrant quad) s = .next s) ∧
      (∀ n ns, attachQueue s quad = n :: ns → (getHart s n).rowsDue = none → 12 ≤ rowsFree s quad →
        let g := min (rowsWanted (getHart s n)) (rowsFree s quad) / 12 * 12
        ∃ t, exec (.mattachGrant quad) s = .next t ∧
          getHart t n = { getHart s n with
            rows := g, acc := [], accPois := [], granted := true, vwait := none
            status := if (getHart s n).status = .waiting .attach then .running else (getHart s n).status } ∧
          (∀ k, k ≠ n → getHart t k = getHart s k) ∧ rowsUsed t quad = rowsUsed s quad + g ∧ SameMem s t)) ∧
    (∀ i, StoppedPart s i →
      let c := myCore s; let g := stoppedRun s i
      (g.complete = false → exec (.fopComplete c i) s = .next s) ∧
      (g.complete = true →
        ∃ t, exec (.fopComplete c i) s = .next t ∧ t.hart.vstart = 0 ∧ t.hart.fopStop = [] ∧
          t.hart.vl = BitVec.ofNat 17 (if hasVd g.img then g.run.out else 0) ∧ wbit t.hart.fstat 0 = false ∧
          getSlot t i = { getSlot s i with run := {}, owner := none, tb := [], ptbase := 0, hstat := 0 } ∧
          (∀ k, k ≠ i → getSlot t k = getSlot s k) ∧ t.hart.vregs = s.hart.vregs ∧ SameMem s t) ∧
      (hasVd g.img = true → s.hart.maxVl ≤ g.run.out →
        ∃ t, exec (.fopMoreStop c i) s = .next t ∧ t.hart.vstart = 0 ∧ t.hart.fopStop = [] ∧
          t.hart.vl = BitVec.ofNat 17 s.hart.maxVl ∧ wbit t.hart.fstat 0 = true ∧ (getSlot t i).run = g.run ∧
          (getSlot t i).owner = some s.hn ∧ t.hart.vregs = s.hart.vregs ∧ SameMem s t)) ∧
    (∀ i e a young c v, StoppedPart s i → i < 16 → fopHead s i = some (e, a, young) → e.space = none →
      let u := fopIssued e a young s; let g := fopOnward i a u
      let r := updH (fun h => { h with vstart := BitVec.ofNat 17 g.run.out }) (fopRecorded i g u)
      fopRefused i a u = false → g.fault = some (c, v) → word c ≠ word cPurity →
      g.st.hn = s.hn → g.st.stop = none → g.st.hart.shadow = [] →
      ∃ t, exec (.fopFault (myCore s) i) s = .next t ∧ EntersHandler (word c) v (resumePoint g.st) r t ∧
        t.hart.fopStop = [i] ∧ wfld t.hart.fstat 1 4 = i ∧ t.hart.vstart = BitVec.ofNat 17 g.run.out ∧ t.hart.vq = [] ∧
        (∃ x, t.hart.shadow = x :: young.map unreserve ∧ x.acts.map (·.w) = [a.w]) ∧
        (∀ j e es, j < 2 → edgesWhere g.img (fun w => ePort w = j) = e :: es →
          Tab.get 0 t.hart.fsidx j = BitVec.ofNat 32 (g.edge e).idx) ∧
        (getSlot t i).run = g.run ∧ (getSlot t i).owner = some s.hn ∧ SameMem g.st t) ∧
    (∀ i, StoppedPart s i → i < 16 → fopHead s i = none →
      let g := stoppedRun s i
      ∃ t, exec (.fopFault (myCore s) i) s = .next t ∧ t.hart.fopStop = [i] ∧ wfld t.hart.fstat 1 4 = i ∧
        wbit t.hart.fstat 0 = wbit s.hart.fstat 0 ∧ wfld t.hart.fstat 32 32 = wfld s.hart.fstat 32 32 ∧
        (∀ j e es, j < 2 → edgesWhere g.img (fun w => ePort w = j) = e :: es →
          Tab.get 0 t.hart.fsidx j = BitVec.ofNat 32 (g.edge e).idx) ∧
        getSlot t i = { getSlot s i with
          run := g.run, owner := some s.hn, tb := s.hart.tb, ptbase := s.hart.ptbase, hstat := s.hart.hstat } ∧
        (∀ k, k ≠ i → getSlot t k = getSlot s k) ∧ t.hart.vl = s.hart.vl ∧ t.hart.vstart = s.hart.vstart ∧
        t.hart.vregs = s.hart.vregs ∧ t.hart.sregs = s.hart.sregs ∧ SameMem s t) ∧
    (∀ c i,
      let sl := Tab.get {} (getCore s c).slots i
      (sl.run.live = false ∨ sl.owner = none ∨ (∃ n, sl.owner = some n ∧ (getHart s n).fopStop.contains i = false) →
        exec (.fopFault c i) s = .next s ∧ exec (.fopComplete c i) s = .next s ∧ exec (.fopMoreStop c i) s = .next s)) ∧
    (∀ c i,
      let sl := Tab.get {} (getCore s c).slots i
      (sl.run.live = false → exec (.fabricDrainTimeout c i) s = .next s) ∧
      (∀ u g, sl.valid = true → sl.run.live = true → sl.owner = none → u = switchTo (8 * c) s → g = drained i (inSlot sl u) →
        g.st.stop = none → g.st.hn = 8 * c →
        ∃ t, exec (.fabricDrainTimeout c i) s = .next t ∧
          Tab.get {} (getCore t c).slots i = { sl with run := {}, owner := none, tb := [], ptbase := 0, hstat := 0 } ∧
          (∀ k, k ≠ i → Tab.get {} (getCore t c).slots k = Tab.get {} (getCore g.st c).slots k) ∧ SameMem g.st t))

namespace Sys2Proof.Claims

/-- Port p has sent the flit b: it is numbered, and kept until it is acknowledged (R325). -/
def Sent (p : Nat) (b : FlitBody) (s t : State) : Prop :=
  getPort t p = { getPort s p with
    seq := (getPort s p).seq + 1, replay := (getPort s p).replay ++ [stampFlit (getPort s p) (makeFlit s b)] }

/-- Context k of a die's engine can send now: it is live, has the role, and a port is open to each consumer (R325). -/
structure CanSend (k : Nat) (role : CollRole) (s : State) : Prop where
  live : (getColl s k).live = true
  role : (getColl s k).role = role
  ports : canSendOuts s (getColl s k) = true

/-- Flit f is the next of port p, which carries flits; it is for this node and its context is k, or none waits for it. -/
structure Arrives (p : Nat) (f : Flit) (s : State) : Prop where
  up : portUp s p = true
  good : flitGood s p f = true
  here : f.dst = s.mgmt.node

/-- The events of a flit by its type (R324). -/
noncomputable def flitEvents : List ((Nat → Flit → Instr) × BitVec 8) :=
  [(.roundFlit, 1), (.exponentsFlit, 2), (.endFlit, 3), (.cancelFlit, 4), (.replayRequest, 5)]

end Sys2Proof.Claims

/-- R310, R319 to R321, R324 to R326: the steps of a collective's contexts and of the Kraha ports. A sender sends the next round
of its tiles, and the end flit after the last; a reducer forwards the digit sums once it holds every input; an accepted flit
reaches its context or waits for it, and a dropped one asks for a replay; a port retrains after 16 replays without progress,
carries flits again, or goes down and ends every collective through it. -/
def Obligations.EventsOfLinks : Prop :=
  ∀ s : State, s.stop = none →
    (∀ die ctx,
      let k := die * 32 + ctx; let c := getColl s k
      (c.live = false ∨ canSendOuts s c = false ∨ 32 ≤ ctx →
        exec (.collectiveRoundSend die ctx) s = .next s ∧ exec (.reducerForward die ctx) s = .next s) ∧
      (ctx < 32 → CanSend k .send s →
        (exec (.reducerForward die ctx) s = .next s) ∧
        (c.outDone = [] → c.stop = true ∨ c.nextRound = none →
          ∃ t, exec (.collectiveRoundSend die ctx) s = .next t ∧ getColl t k = {} ∧
            Sent (portTo c.peer) { type := 3, cid := c.cid, dst := c.peer, wg := wgOf c, payload := endPayload c } s t) ∧
        (∀ win q tile, c.outDone = [] → c.stop = false → c.nextRound = some (win, q, tile) → c.winEnd win ≤ c.exps →
          ∃ t, exec (.collectiveRoundSend die ctx) s = .next t ∧ getColl t k = c.passed win q tile ∧
            Sent (portTo c.peer) { type := 1, cid := c.cid, dst := c.peer, wg := wgOf c, tile := tile, round := q
                                   nblk := c.g + 1, payload := ownPlane c.w q (nth {} c.own tile) } s t)) ∧
      (ctx < 32 → CanSend k .red s →
        (exec (.collectiveRoundSend die ctx) s = .next s) ∧
        (∀ win q tile ds, c.outDone = [] → c.stop = false → c.peer ≠ 0xFFF → c.slots = [] → c.dirty = [] →
          c.nextRound = some (win, q, tile) → c.winEnd win ≤ c.exps → digitsOf c q tile = some ds →
          ∃ t, exec (.reducerForward die ctx) s = .next t ∧ getColl t k = c.passed win q tile ∧
            Sent (portTo c.peer) { type := 1, cid := c.cid, dst := c.peer, wg := wgOf c, tile := tile, round := q
                                   nblk := c.g + 1, payload := addDigits c.g ds } s t))) ∧
    (∀ e ∈ flitEvents, ∀ (p : Nat) (f : Flit),
      (f.type ≠ e.2 ∨ portUp s p = false → exec (e.1 p f) s = .next s) ∧
      (f.type = e.2 → portUp s p = true → flitGood s p f = false → exec (e.1 p f) s = exec (.droppedFlit p f) s) ∧
      (f.type = e.2 → e.2 ≠ 5 → Arrives p f s → flitColl s f = none →
        let waiting := ((getPort s p).held.filter isRoundFlit).length
        (isRoundFlit f = true → 64 ≤ waiting → exec (e.1 p f) s = .next s) ∧
        (isRoundFlit f = false ∨ waiting < 64 →
          ∃ t, exec (e.1 p f) s = .next t ∧ (getPort t p).held = (getPort s p).held ++ [f] ∧
            (getPort t p).rxNext = (getPort s p).rxNext + 1 ∧ t.colls = s.colls))) ∧
    (∀ (p : Nat) (f : Flit) (k : Nat), Arrives p f s → flitColl s f = some k →
      let c := getColl s k; let i := inputOf c f.src.toNat; let tile := f.tile.toNat
      (f.type = 1 → c.role = .red → f.nblk.toNat = c.g + 1 → c.g ≤ 4 → f.round.toNat < c.w → tile < c.ntile →
        ∃ t, exec (.roundFlit p f) s = .next t ∧
          Tab.get none (Tab.get {} (getColl t k).inputs i).digits (16 * tile + f.round.toNat) =
            some (BitVec.ofNat 1280 (ofBytes (f.payload.take (32 * (c.g + 1)))))) ∧
      (f.type = 2 → c.role = .red → 1 ≤ f.nblk.toNat → tile < c.ntile →
        ∃ t, exec (.exponentsFlit p f) s = .next t ∧
          Tab.get none (Tab.get {} (getColl t k).inputs i).exps tile = some (flitExp f 0)) ∧
      (f.type = 3 → c.role = .red →
        ∃ t, exec (.endFlit p f) s = .next t ∧ (Tab.get {} (getColl t k).inputs i).ended = true) ∧
      (f.type = 3 → c.role = .recv → ∃ t, exec (.endFlit p f) s = .next t ∧ getColl t k = {}) ∧
      (f.type = 4 → c.role = .send →
        ∃ t, exec (.cancelFlit p f) s = .next t ∧ getColl t k = { c with stop := true })) ∧
    (∀ (p : Nat) (f : Flit), portUp s p = true →
      (flitGood s p f = true → exec (.droppedFlit p f) s = .next s) ∧
      (flitGood s p f = false →
        let r := makeFlit s { type := 5, payload := (getPort s p).rxNext.toNat }
        ∃ t, exec (.droppedFlit p f) s = .next t ∧ (getPort t p).rxNext = (getPort s p).rxNext ∧
          ((getPort s p).room 1 = true → (getPort t p).replay = (getPort s p).replay ++ [stampFlit (getPort s p) r]) ∧
          ((getPort s p).room 1 = false → (getPort t p).due = (getPort s p).due ++ [r]) ∧
          (getPort t p).nReplays = (getPort s p).nReplays + 1 ∧ t.colls = s.colls) ∧
      (f.type = 5 → flitGood s p f = true →
        let waiting := (ackTo f.ack (getPort s p)).replay; let e := ofBytes (f.payload.take 4)
        ∃ t, exec (.replayRequest p f) s = .next t ∧ (getPort t p).rxNext = (getPort s p).rxNext + 1 ∧
          (getPort t p).nReplays = (getPort s p).nReplays + 1 ∧
          ((∃ g ∈ waiting, g.seq.toNat = e) → ∃ g gs, (getPort t p).replay = g :: gs ∧ g.seq.toNat = e) ∧ t.colls = s.colls)) ∧
    (∀ p,
      let q := getPort s p
      (portUp s p = false ∨ (q.replays < 16 ∧ q.asks < 16) → exec (.replayLimit p) s = .next s) ∧
      (portUp s p = true → 16 ≤ q.replays ∨ 16 ≤ q.asks →
        ∃ t, exec (.replayLimit p) s = .next t ∧ t = { s with ports := t.ports } ∧
          getPort t p = { q with retraining := true, nRetrains := q.nRetrains + 1 }) ∧
      (q.retraining = false → exec (.portRetrained p) s = .next s ∧ exec (.retrainTimeout p) s = .next s) ∧
      (q.retraining = true →
        (∃ t, exec (.portRetrained p) s = .next t ∧ t = { s with ports := t.ports } ∧
          getPort t p = { q with retraining := false, replays := 0, asks := 0 }) ∧
        (∃ t, exec (.retrainTimeout p) s = .next t ∧
          getPort t p = { q with retraining := false, down := true, nFailures := q.nFailures + 1 } ∧
          ∀ k c, (k, c) ∈ s.colls → c.live = true → (∃ n ∈ c.ins ++ c.outs, portTo n = p) → getColl t k = {})))

namespace Sys2Proof.Claims

/-- The command register of cluster k has status st and is not BUSY (R415). -/
def CommandEnds (k st : Nat) (t : State) : Prop :=
  wfld (getCluster t k).cmd 60 3 = st ∧ wbit (getCluster t k).cmd 63 = false

/-- The events of the command register by their codes (R415). -/
noncomputable def commandEvents : List ((Nat → Word → Instr) × Nat) :=
  [(.displace, 1), (.hold, 2), (.resume, 3), (.free, 4), (.adopt, 5)]

/-- Registers of a cluster's block by offset, with their writable bits and what they hold (R372). -/
def clusterWords : List (Nat × Word × (Cluster → Word)) :=
  [(0x1000, 0x80000000000007FF, Cluster.cirq), (0x1008, 0x3FFFFFFFFF000, Cluster.ctxbase), (0x1010, 0xFF, Cluster.ctxn),
   (0x1020, 0xFFFFFFFFFFFFFFF1, Cluster.dentry)]

end Sys2Proof.Claims

/-- R361, R372, R374, R385, R386, R415, R416, R436, R437: what writes from outside do to the device registers. A token enters an
enabled channel or is refused, leaves, is skipped or is tried again; a gang changes where none of its harts is busy, and is
refused where one is; a queue resumes; the commands HOLD, RESUME, FREE, ADOPT and DISPLACE act on frames and give their status,
or stay BUSY (a RESUME for a retired core gives 0: the model's choice, log 87; the seat of a displaced context: log 39); the
reuse block takes a salt, a flush or a new control word; other writes change the writable bits of their register only. STATUS 2
for a frame that is not in the state that the OP needs is the model's inference (log 50). -/
def Obligations.EventsOfRegisters : Prop :=
  ∀ s : State, s.stop = none →
    (∀ (c : Nat) (v : Word),
      (256 ≤ c → exec (.ingressRaise c v) s = .next s) ∧
      (c < 256 → ∃ t, exec (.ingressRaise c v) s = .next t ∧ t = { s with ingress := t.ingress } ∧
        (∀ k, k ≠ c → getIn t k = getIn s k) ∧
        getIn t c = if raiseRefused s (getIn s c) = true then { getIn s c with refused := true }
          else { getIn s c with
            refused := false, prod := (getIn s c).prod + 1
            tokens := (getIn s c).tokens ++ [((getIn s c).prod, v.setWidth 32)] })) ∧
    (∀ c,
      ((getOut s c).tokens = [] → exec (.egressPop c) s = .next s) ∧
      (∀ x rest, (getOut s c).tokens = x :: rest →
        ∃ t, exec (.egressPop c) s = .next t ∧ t = { s with egress := t.egress } ∧
          (∀ k, k ≠ c → getOut t k = getOut s k) ∧
          getOut t c = { getOut s c with tokens := rest, cons := (getOut s c).cons + 1 })) ∧
    (∀ c,
      let ch := getIn s c
      (256 ≤ c → exec (.lfaultClear c) s = .next s ∧ exec (.skip c) s = .next s) ∧
      (ch.lfault = false → exec (.lfaultClear c) s = .next s) ∧
      (c < 256 → ch.lfault = true →
        exec (.lfaultClear c) s = exec (.boundLaunch c) (modIn c (fun x => { x with lfault := false }) s) ∧
          (ch.tokens = [] → ∃ t, exec (.lfaultClear c) s = .next t ∧ getIn t c = { ch with lfault := false })) ∧
      (c < 256 → ∃ t, exec (.skip c) s = .next t ∧ t = { s with ingress := t.ingress } ∧
        getIn t c = if ch.isBound = true ∧ ch.tokens ≠ [] then
            { ch with tokens := ch.tokens.tail, cons := ch.cons + 1, lfault := false }
          else { ch with lfault := false })) ∧
    (∀ (k h : Nat) (v : Word),
      let n := 128 * k + h; let g := wfld v 0 5
      let u := modCluster k (fun c => { c with gid := Tab.set 0 c.gid h (g + 1) }) s
      let fits : Prop := (gangOf s n).length ≤ 16 ∧ (gangOf u n).length ≤ 16 ∧
        (∀ m ∈ gangOf s n ++ gangOf u n, gangBusy s m = false) ∧ (getCore s (coreOf n)).retired = false
      (10 ≤ k ∨ 128 ≤ h → exec (.gangWordWrite k h v) s = .next s) ∧
      (k < 10 → h < 128 →
        (fits → ∃ t, exec (.gangWordWrite k h v) s = .next t ∧ gidOf t n = g ∧
          Tab.get false (getCluster t k).refused h = false ∧
          (∀ m, m ≠ n → gidOf t m = gidOf s m) ∧
          (∀ m ∈ gangOf s n ++ gangOf u n, ∀ x ∈ seatHolders s m,
            (barrierOf t x).phase = 0 ∧ (barrierOf t x).gerr = false ∧ (barrierOf t x).joined = none) ∧
          SameMem s t) ∧
        (¬ fits → ∃ t, exec (.gangWordWrite k h v) s = .next t ∧ t = { s with clusters := t.clusters } ∧
          Tab.get false (getCluster t k).refused h = true ∧ ∀ m, gidOf t m = gidOf s m))) ∧
    (∀ j,
      let q := getQueue s j
      ((q.spf = false ∨ 640 ≤ j) → exec (.qctlResume j) s = .next s) ∧
      (j < 640 → q.spf = true → q.reserve = none → q.spilled = 0 →
        ∃ t, exec (.qctlResume j) s = .next t ∧ t = { s with queues := t.queues } ∧ getQueue t j = { q with spf := false })) ∧
    (∀ e ∈ commandEvents, ∀ (k : Nat) (v : Word),
      (10 ≤ k ∨ wfld v 56 4 ≠ e.2 ∨ wbit (getCluster s k).cmd 63 = true → exec (e.1 k v) s = .next s)) ∧
    (∀ (k : Nat) (v : Word), k < 10 → wbit (getCluster s k).cmd 63 = false →
      let w := cmdKept v; let f := wfld w 0 8; let fr := getFrame s k f
      (wfld v 56 4 = 2 →
        (fr.use ≠ .listed → ∃ t, exec (.hold k v) s = .next t ∧ CommandEnds k 2 t ∧ getFrame t k f = fr) ∧
        (fr.use = .listed → ∃ t, exec (.hold k v) s = .next t ∧ CommandEnds k 0 t ∧ getFrame t k f = { fr with use := .held } ∧
          f ∉ (getCluster t k).resumeList ∧ SameMem s t)) ∧
      (wfld v 56 4 = 3 →
        (fr.use ≠ .held → ∃ t, exec (.resume k v) s = .next t ∧ CommandEnds k 2 t ∧ getFrame t k f = fr) ∧
        (fr.use = .held →
          let st := resumeStatus s k f (wfld w 40 8)
          (st ≠ 0 → ∃ t, exec (.resume k v) s = .next t ∧ CommandEnds k st t ∧ getFrame t k f = fr) ∧
          (st = 0 → ∃ t, exec (.resume k v) s = .next t ∧ CommandEnds k 0 t ∧
            getFrame t k f = { fr with use := .listed, target := some (wfld w 40 8) } ∧
            (getCluster t k).resumeList = (getCluster s k).resumeList ++ [f] ∧ SameMem s t))) ∧
      (wfld v 56 4 = 4 →
        (fr.use ≠ .held → ∃ t, exec (.free k v) s = .next t ∧ CommandEnds k 2 t ∧ getFrame t k f = fr) ∧
        (fr.use = .held → ∃ t, exec (.free k v) s = .next t ∧ CommandEnds k 0 t ∧ getFrame t k f = {} ∧ SameMem s t)) ∧
      (wfld v 56 4 = 5 →
        (fr.use ≠ .free ∨ frameCount s k ≤ f →
          ∃ t, exec (.adopt k v) s = .next t ∧ CommandEnds k 2 t ∧ getFrame t k f = fr) ∧
        (fr.use = .free → f < frameCount s k → nbit (frameWord s k f 32) 63 = false →
          ∃ t, exec (.adopt k v) s = .next t ∧ CommandEnds k 0 t ∧ (getFrame t k f).use = .held ∧ SameMem s t)) ∧
      (wfld v 56 4 = 1 →
        let n := wfld w 8 11; let h := getHart s n
        (clusterOf n ≠ k ∨ 1280 ≤ n ∨ h.status = .noContext ∨ idleTaker h = true →
          ∃ t, exec (.displace k v) s = .next t ∧ CommandEnds k 2 t) ∧
        (clusterOf n = k → n < 1280 → h.status ≠ .noContext → idleTaker h = false →
          (frameFor s n = none → ∃ t, exec (.displace k v) s = .next t ∧ CommandEnds k 1 t ∧ t.hart = s.hart) ∧
          (∀ x, frameFor s n = some x →
            (canStop h = true → wbit w 55 = false ∨ quiesced h = true →
              ∃ t, exec (.displace k v) s = .next t ∧ CommandEnds k 0 t ∧ wfld (getCluster t k).cmd 0 8 = x ∧
                (getHart t n).status = .noContext ∧ (getFrame t k x).use = .held) ∧
            (canStop h = false ∨ (wbit w 55 = true ∧ quiesced h = false) →
              ∃ t, exec (.displace k v) s = .next t ∧ wbit (getCluster t k).cmd 63 = true ∧
                t = { s with clusters := t.clusters }))))) ∧
    (∀ v : Word,
      (∃ t, exec (.rsaltCommit v) s = .next t ∧
        (getTenant t s.reuse.sel).salt = setNth (getTenant s s.reuse.sel).staged 3 v ∧
        t.reuse.entries = s.reuse.entries.filter (fun e => decide (e.tenant ≠ s.reuse.sel)) ∧
        (∀ x, x ≠ s.reuse.sel → getTenant t x = getTenant s x) ∧ t = { s with reuse := t.reuse }) ∧
      (wbit v 0 = false → exec (.rflush v) s = .next s) ∧
      (wbit v 0 = true → exec (.rflush v) s = .next { s with reuse := { s.reuse with
        entries := s.reuse.entries.filter (fun e => decide (e.tenant ≠ s.reuse.sel)) } }) ∧
      exec (.rctlWrite v) s = .next { s with reuse := { s.reuse with
        ctl := v &&& 0x8003FFFFFFFE0000, entries := if wbit v 63 then s.reuse.entries else [] } }) ∧
    (∀ (pa : Nat) (v : Word), inRegs pa = false ∨ pa % 8 ≠ 0 → exec (.registerWrite pa v) s = .next s) ∧
    (∀ x ∈ clusterWords, ∀ (k : Nat) (v : Word), k < 10 →
      ∃ t, exec (.registerWrite (0x3FF0001000000 + 65536 * k + x.1) v) s = .next t ∧ t = { s with clusters := t.clusters } ∧
        x.2.2 (getCluster t k) = v &&& x.2.1 ∧ (∀ y ∈ clusterWords, y.1 ≠ x.1 → y.2.2 (getCluster t k) = y.2.2 (getCluster s k)) ∧
        ∀ i, i ≠ k → getCluster t i = getCluster s i)

namespace Sys2Proof.Claims

/-- Messages with their heads: the events that carry one (R439). -/
def MessageEvent (m : MsgHead) (i : Instr) : Prop :=
  (∃ a b c, i = .ringSetup m a b c) ∨ (∃ a b, i = .start m a b) ∨ (∃ a b c d e, i = .place m a b c d e) ∨
    (∃ a b c d, i = .nodemap m a b c d) ∨ (∃ h, i = .debugHalt m h) ∨ (∃ h, i = .debugRelease m h) ∨
    (∃ h b, i = .haltOnBreak m h b) ∨ (∃ n, i = .attest m n) ∨ i = .reset m ∨ i = .dumprel m ∨ i = .resync m ∨
    (∃ x, i = .otherTypeMessage m x)

/-- The management core has accepted message m: it expects the next number, and lets go what ACK names (R440). -/
def accepted (m : MsgHead) (s : State) : State :=
  { s with mgmt := ackMsgs m.ack { s.mgmt with expect := s.mgmt.expect + 1 } }

/-- Message x has been sent, and memory outside its slot of the ring stays (R439, R440). -/
structure SentMessage (x : Msg) (s t : State) : Prop where
  sent : t.mgmt.sent = s.mgmt.sent ++ [x]
  next : t.mgmt.next = s.mgmt.next + 1
  memory : ∀ a, (∀ r, s.mgmt.rings = some r →
    a < hostBase + r.2 + 64 * (x.seq.toNat % 256) ∨ hostBase + r.2 + 64 * (x.seq.toNat % 256) + 64 ≤ a) →
    getByte t a = getByte s a

/-- The reply to a message: its tag, a status and results (R439). -/
def replyMsg (s : State) (tag : BitVec 16) (status : Nat) (results : List Byte) : Msg :=
  { seq := s.mgmt.next, type := 9, tag := tag, payload := (BitVec.ofNat 8 status :: results).take 52 }

/-- The harts, cores (but for the lines that their scalar data caches hold), clusters, channels and ports are as they were. -/
def SameDevice (s t : State) : Prop :=
  t.hart = s.hart ∧ t.parked = s.parked ∧
    (∀ c, { getCore t c with dcache := [] } = { getCore s c with dcache := [] }) ∧ t.clusters = s.clusters ∧ t.ingress = s.ingress ∧
    t.egress = s.egress ∧ t.ports = s.ports

end Sys2Proof.Claims

/-- R13, R14, R34, R36, R111, R182, R430, R439 to R445: the management core. A message out of its order changes nothing; each
other is accepted, has its effect and is answered: the rings, START of harts that hold no context, PLACE with its statuses, the
node map, debug halt and release, halt on break, attestation, a warm reset that keeps memory and channels, the release of the
dump region, a repeat of messages. A cold start comes as far as its steps succeed, each after the one before it: it scrubs HBM
once that has trained, keeps retirements, and reports a rejected image over the sideband (what the steps find: the model's
opaque values, log 19, log 91); a fatal stop holds the dies in reset; the clock slows, heat stops the cores, counted events are
sent, lanes and cores retire. What a warm reset keeps and how a debug halt stands beside a displacement is its reading (logs 65,
67). -/
def Obligations.EventsOfManagement : Prop :=
  ∀ s : State, s.stop = none →
    (∀ (m : MsgHead) (i : Instr), MessageEvent m i → (m.seq ≠ s.mgmt.expect ∨ notUp s = true) → exec i s = .next s) ∧
    (∀ m : MsgHead, m.seq = s.mgmt.expect → notUp s = false →
      let u := accepted m s
      (∀ a b hext,
        (s.mgmt.rings = none → exec (.ringSetup m a b hext) s =
          .next { u with mgmt := { u.mgmt with rings := some (a, b) }, hext := hext }) ∧
        (s.mgmt.rings ≠ none → exec (.ringSetup m a b hext) s =
          .next { u with mgmt := { u.mgmt with rings := some (a, b), hextNext := some hext } })) ∧
      (∀ (harts : List Nat) (entry : Word),
        ∃ t, exec (.start m harts entry) s = .next t ∧ SentMessage (replyMsg u m.tag 0 []) u t ∧
          (∀ n, (getHart t n) =
            if s.mgmt.held = false ∧ n ∈ harts ∧ (getHart s n).status = .noContext ∧
                (getCore s (coreOf n)).retired = false ∧ n < 1280 then
              { emptyHart (getHart s n) with status := .running, pc := entry &&& 0xFFFFFFFFFFFFFFF0, hstat := 0x9 }
            else getHart s n)) ∧
      (∀ ngi len mask dst dstLen,
        let bs := getBytes s ngi len; let g := wordsOf bs; let key := granaryKey bs (mask % 65536)
        (ngi % 64 ≠ 0 ∨ populated s ngi len = false →
          ∃ t, exec (.place m ngi len mask dst dstLen) s = .next t ∧ SentMessage (replyMsg u m.tag 2 (toBytes 0 8)) u t) ∧
        (ngi % 64 = 0 → populated s ngi len = true →
          (∀ off, ngiMalformedAt g len = some off →
            ∃ t, exec (.place m ngi len mask dst dstLen) s = .next t ∧
              SentMessage (replyMsg u m.tag 2 (toBytes off 8)) u t) ∧
          (ngiMalformedAt g len = none → (∃ n, n < ngiNodes g ∧ lacks g n = true) →
            ∃ t, exec (.place m ngi len mask dst dstLen) s = .next t ∧ SentMessage (replyMsg u m.tag 4 []) u t) ∧
          (ngiMalformedAt g len = none → (∀ n, n < ngiNodes g → lacks g n = false) →
            (granarySlot s key).bind (fun a => granaryHit s a key) = none →
            (placed bs (mask % 65536) = none →
              ∃ t, exec (.place m ngi len mask dst dstLen) s = .next t ∧ SentMessage (replyMsg u m.tag 3 []) u t) ∧
            (∀ img, placed bs (mask % 65536) = some img → dstLen < img.length ∨ populated s dst img.length = false →
              ∃ t, exec (.place m ngi len mask dst dstLen) s = .next t ∧ SentMessage (replyMsg u m.tag 5 []) u t) ∧
            (∀ img, placed bs (mask % 65536) = some img → img.length ≤ dstLen → populated s dst img.length = true →
              granarySlot s key = none → s.mgmt.rings = none →
              ∃ t, exec (.place m ngi len mask dst dstLen) s = .next t ∧
                t.mgmt.sent = u.mgmt.sent ++ [replyMsg u m.tag 0 (toBytes img.length 8)] ∧
                (∀ k b, img[k]? = some b → getByte t (dst + k) = b) ∧ SameMemBut dst img.length s t)) ∧
          (∀ a img, ngiMalformedAt g len = none → (∀ n, n < ngiNodes g → lacks g n = false) →
            granarySlot s key = some a → granaryHit s a key = some img → img.length ≤ dstLen →
            populated s dst img.length = true → s.mgmt.rings = none →
            ∃ t, exec (.place m ngi len mask dst dstLen) s = .next t ∧
              t.mgmt.sent = u.mgmt.sent ++ [replyMsg u m.tag 1 (toBytes img.length 8)] ∧
              (∀ k b, img[k]? = some b → getByte t (dst + k) = b) ∧ SameMemBut dst img.length s t))) ∧
      (∀ node ns ps rs, ∃ t, exec (.nodemap m node ns ps rs) s = .next t ∧ SameDevice s t ∧
        t.mgmt.node = node ∧ t.mgmt.nodeSet = ns ∧ t.mgmt.poolSet = ps ∧ t.mgmt.reach = rs ∧
        SentMessage (replyMsg u m.tag 0 []) u t) ∧
      (∀ n,
        let h := getHart s n
        (∃ t, exec (.debugHalt m n) s = .next t ∧ SentMessage (replyMsg u m.tag 0 []) u t ∧
          (h.status = .noContext ∨ h.status = .halted → SameDevice s t) ∧
          (h.status ≠ .noContext → h.status ≠ .halted → h.shadow = [] ∨ h.vq = [] →
            (getHart t n).status = .halted ∧ wbit (getHart t n).hstat 6 = true ∧ (getHart t n).sregs = h.sregs ∧
              (getHart t n).pc = h.pc)) ∧
        (∃ t, exec (.debugRelease m n) s = .next t ∧ SentMessage (replyMsg u m.tag 0 []) u t ∧
          getHart t n = (if h.status = .halted then
              { h with status := .running, hstat := setBit h.hstat 6 false, haltReq := false }
            else { h with haltReq := false }) ∧ ∀ k, k ≠ n → getHart t k = getHart s k) ∧
        (∀ on, ∃ t, exec (.haltOnBreak m n on) s = .next t ∧ SentMessage (replyMsg u m.tag 0 []) u t ∧
          getHart t n = { h with brkHalt := on } ∧ ∀ k, k ≠ n → getHart t k = getHart s k)) ∧
      (∀ nonce, ∃ t pre c0 c1 c2, exec (.attest m nonce) s = .next t ∧ SameDevice s t ∧
        t.mgmt.sent = u.mgmt.sent ++ pre ++ [c0, c1, c2] ∧ (∀ x ∈ pre ++ [c0, c1, c2], x.type = 9 ∧ x.tag = m.tag) ∧
        (pre.map (fun x => x.payload.drop 1)).flatten =
          (attestBody s nonce ++ Config.signature (attestBody s nonce)).take (51 * 64) ∧
        (c0.payload ++ c1.payload ++ c2.payload) = 0 :: Config.certificate.take 51 ++ 0 :: (Config.certificate.drop 51).take 51
          ++ 0 :: (Config.certificate.drop 102).take 51) ∧
      (∃ t, exec (.reset m) s = .next t ∧ t.hart = {} ∧ t.parked = [] ∧ t.queues = [] ∧ t.clusters = [] ∧ t.tasks = [] ∧
        t.tlb = [] ∧ t.reuse = {} ∧ t.tiles = [] ∧ t.ingress = s.ingress ∧ t.egress = s.egress ∧ t.ports = s.ports ∧
        t.mgmt.held = decide (s.mgmt.steps < 6) ∧ t.mgmt.fatal = none ∧ t.hext = s.mgmt.hextNext.getD s.hext ∧
        (∀ c, c < 160 → (getCore t c).lanefal = (getCore s c).lanefal) ∧
        (s.mgmt.rings = none → s.mgmt.dumpRel = false → s.far = [] → SameMem s t)) ∧
      (∃ t st, exec (.dumprel m) s = .next t ∧ SameDevice s t ∧ t.mgmt.dumpRel = true ∧ st ≤ 1 ∧
        t.mgmt.sent = u.mgmt.sent ++ [replyMsg u m.tag st []]) ∧
      (∃ t, exec (.resync m) s = .next t ∧ t.mgmt = u.mgmt ∧ t.hart = s.hart ∧ t.parked = s.parked ∧
        (s.mgmt.rings = none ∨ u.mgmt.sent = [] → t = u) ∧
        (∀ a b x, s.mgmt.rings = some (a, b) → u.mgmt.sent = [x] →
          let pa := hostBase + b + 64 * (x.seq.toNat % 256)
          populated s pa 64 = true → getBytes t pa 64 = msgBytes u.mgmt.expect x ∧ SameMemBut pa 64 s t)) ∧
      (∀ x, ∃ t, exec (.otherTypeMessage m x) s = .next t ∧ SameDevice s t ∧ SentMessage (replyMsg u m.tag 0xFF []) u t)) ∧
    (∃ t, exec .coldStart s = .next t ∧ t.hart = {} ∧ t.parked = [] ∧ t.queues = [] ∧ t.clusters = [] ∧ t.tasks = [] ∧
      t.ingress = [] ∧ t.egress = [] ∧ t.tiles = [] ∧ t.mgmt.steps = stepsDone s.free ∧
      (3 ≤ stepsDone s.free → ∀ a, a < 0x8000000000 → getByte t a = 0) ∧ (stepsDone s.free < 3 → s.far = [] → SameMem s t) ∧
      (s.far = [] → ∀ a, 0x8000000000 ≤ a → getByte t a = getByte s a) ∧
      (∀ p, Tab.get 0 t.cxlLen p ≤ 0x10000000000) ∧
      (t.mgmt.held = true ↔ imageAccepted s.free = false ∨ Config.jointTrained s.free = false ∨ Config.hbmTrained s.free = false ∨
        Config.portsTrained s.free = false) ∧
      t.mgmt.sideband = (if imageAccepted s.free = true then [] else [Config.rejectStatus s.free]) ∧
      ∀ c, c < 160 → (getCore t c).lanefal = (getCore s c).lanefal) ∧
    (∀ c : FatalCause, ∀ i ∈ (if c = .watchdog then [Instr.watchdogExpiry, .fatalStop c] else [.fatalStop c]),
      ∃ t, exec i s = .next t ∧ t.mgmt.fatal = some c ∧ t.mgmt.held = true ∧ t.hart = {} ∧ t.parked = [] ∧ t.colls = []) ∧
    (12 ≤ s.mgmt.clockStep → exec .throttleStep s = .next s) ∧
    (s.mgmt.clockStep < 12 → ∃ t, exec .throttleStep s = .next t ∧ t = { s with mgmt := t.mgmt } ∧
      t.mgmt.clockStep = s.mgmt.clockStep + 1 ∧ Tab.get 0 t.mgmt.events 3 = Tab.get 0 s.mgmt.events 3 + 1) ∧
    (exec .thermalStop s = .next { s with mgmt := { s.mgmt with stopped := true } }) ∧
    (∀ src,
      (Tab.get 0 s.mgmt.events src = 0 → exec (.eventReport src) s = .next s) ∧
      (Tab.get 0 s.mgmt.events src ≠ 0 → ∃ t, exec (.eventReport src) s = .next t ∧ Tab.get 0 t.mgmt.events src = 0 ∧
        SentMessage { seq := s.mgmt.next, type := 10, tag := 0
                      payload := BitVec.ofNat 8 src :: toBytes (Tab.get 0 s.mgmt.events src) 4 } s t)) ∧
    (exec .patrolScrub s = .next s) ∧
    (∀ c lane, ownerOf s c (lane / 4) = 0 → (getCluster s (c / 16)).resumeList = [] → lane < 64 →
      4 ≤ activeLanes 65535 (setBit (getCore s c).lanefal lane true).toNat →
      ∃ t, exec (.laneRetire c lane) s = .next t ∧ (getCore t c).lanefal = setBit (getCore s c).lanefal lane true ∧
        (∀ k, k ≠ c → getCore t k = getCore s k) ∧ Tab.get 0 t.mgmt.events 5 = Tab.get 0 s.mgmt.events 5 + 1 ∧
        t.hart = s.hart ∧ t.parked = s.parked ∧ SameMem s t) ∧
    (∀ c, (∀ n, 8 * c ≤ n → n < 8 * c + 8 → (getHart s n).status = .noContext) → (∀ e, (getCq s c e).live = false) →
      ∃ t, exec (.coreRetire c) s = .next t ∧ getCore t c = { getCore s c with retired := true } ∧
        (∀ k, k ≠ c → getCore t k = getCore s k) ∧ t.hart = s.hart ∧ t.parked = s.parked ∧ SameMem s t)

namespace Sys2Proof.Claims

/-- The current hart acts in the next step: no input has come, it runs or waits, and nothing is to stop it. -/
structure Steps (s : State) : Prop where
  able : s.stop = none
  inputs : s.inputs = []
  clocked : s.mgmt.stopped = false
  up : s.mgmt.held = false
  acting : Acting s.hart
  stays : displacing s s.hn = false
  runs : s.hart.haltReq = false
  goes : s.hart.stopFor = none
  regs : regsLeft s.hart.storeBuf = false

/-- Words of the opcode map with the instructions that they stand for: the words of the worked encoding in
spec/08_encoding.md, then words put together from the fields of R146 and the codes of R149. -/
noncomputable def printedWords : List (BitVec 32 × Instr) :=
  [(0xBC820038, .vld 8 4 0 7), (0x9D021400, .vfmacc 16 8 20 0 0), (0x10840400, .addi 4 4 0x0400), (0x54860000, .bne 4 6 0),
   (0b000001_00011_00100_00101_00000000010, .and 3 4 5),
   (0b001100_00111_00010_010_1111111111000, .ldW 7 2 0x1FF8),
   (0b010011_00001_00010_00011_0110_0_01_1_111, .amoCas 1 2 3 6 1 1),
   (0b011101_01001_00000_00_00_000001000000, .ctlRd 9 0x040),
   (0b011110_00101_00110_00000_001_000_01010, .vsetvli 5 6 0b01010),
   (0b011111_00000_00000_00011_0110_0010000, .fence 3 6),
   (0b100000_00001_00010_00011_00000_1_0_1_000, .strLd 1 2 3 1 0 1),
   (0b100001_00001_00010_00000_0000_0100_001, .collRecv 1 2 4),
   (0b100011_000100_000101_00110_001_000000, .vaddVx 4 5 6 1),
   (0b101100_000001_000010_000001_000_011_00, .vredsumTF 1 2 0 3),
   (0b101101_000001_000010_00011_000_000000, .vbtr 1 2 3 0),
   (0b110001_000001_00010_000000_000_000_000, .vspill 1 2),
   (0b110100_000001_00010_000011_000_111_000, .vamoAdd 1 2 3 0 1 1),
   (0b110101_10_000011_001000_000_001_000000, .mmac 2 3 8 0 1),
   (0b110110_0101_000001_000010_000011_001_0, .fop 5 1 2 3 1),
   (0b110111_00001_00010_00000_000_0111_0000, .fbind 1 2 7)]

/-- Words that are no instruction: reserved majors and codes, a field that R148 requires to be zero, reserved values. -/
def otherWords : List (BitVec 32) :=
  [0xFFFFFFFF, 0x48000000, 0xC8000000, 0x00000008, 0x0400000F, 0x00000100, 0x280000C0,
   0b011101_01001_00000_00_00_000001000111, 0b011111_00000_00000_00011_1011_0010000, 0b110101_10_000011_001001_000_001_000000]

/-- Control registers with the values that the Reset columns of R117 and R119 give. -/
def resetRegs : List (Nat × Word) :=
  [(0x000, 0), (0x001, 0x8000000000000000), (0x002, 0), (0x003, 0), (0x004, 0), (0x005, 32), (0x006, 0), (0x008, 0), (0x009, 0),
   (0x00A, 0), (0x00B, 0), (0x00C, 0), (0x010, 0), (0x011, 0), (0x018, 0), (0x020, 0), (0x021, 0), (0x022, 0), (0x023, 0),
   (0x024, 0), (0x025, 0), (0x026, 0), (0x027, 0), (0x040, 0x9), (0x041, 0), (0x042, 0), (0x043, 0), (0x044, 0), (0x045, 0),
   (0x046, 0), (0x048, 0), (0x049, 0), (0x080, 0), (0x081, 0), (0x0F0, 0x0100)]

end Sys2Proof.Claims

/-- R146, R152, R360, R362, R363, R364: a step runs the decoded instruction. A machine that has stopped stops; an input is taken
first, and one that comes while the dies are held in reset, or that is a core's own while every core is stopped for heat, comes
to nothing (R17, R444); else the current hart acts. With a convoy in hand it runs the convoy's slots; with none it decodes the
next; with convoys queued it runs the head. A scalar slot that touches a pending register waits; one whose word decodes to i is
exec of i, and the slots after it follow; a slot of the vector side is captured and passed, and at the head of the VQ it is exec
of what its word decodes to, with its own captured values. Whose turn it is, when the vector side acts, and the step that ends a
machine whose access reached no address are the model's (logs 1, 9, 15). -/
def Obligations.StepRunsTheInstruction : Prop :=
  (∀ (s : State) f, s.stop = some f → step s = .fault f) ∧
  (∀ (s : State) i xs, s.stop = none → s.inputs = .event i :: xs →
    (idleEvent s i = false → step s = exec i { s with inputs := xs }) ∧
    (idleEvent s i = true → step s = .next { s with inputs := xs })) ∧
  (∀ (s : State) x xs, s.stop = none → s.inputs = x :: xs → (∀ i, x ≠ .event i) → (∀ n, x ≠ .turn n) →
    (∀ n, x = .cut n → step s = .next (stopAfter n { s with inputs := xs })) ∧
    (∀ n, x = .delivery n → notUp s = false → n < 1280 →
      step s = .next { s with inputs := xs, mgmt := { s.mgmt with mgmtHart := n } }) ∧
    (s.mgmt.held = true → (∀ n, x ≠ .cut n) → toMgmt x = false → step s = .next { s with inputs := xs })) ∧
  (∀ (s : State) n xs, s.stop = none → s.inputs = .turn n :: xs → n < 1280 →
    step s = .next (switchTo n { s with inputs := xs })) ∧
  (∀ s : State, Steps s → s.hart.mq = [] → s.hart.vq = [] → s.hart.rowsDue = none → s.hart.cv.live = true →
    step s = scalarPhase (runWord exec) 5 { s with hart := { s.hart with came := false } }) ∧
  (∀ s t : State, Steps s → idleHart s.hart = true → takesIrq s.hart = false → exec .convoyDecode s = .next t →
    step s = if t.hart.cv.live = true then scalarPhase (runWord exec) 5 t else .next t) ∧
  (∀ (s : State) e young, Steps s → s.hart.mq = [] → s.hart.vq = e :: young → s.hart.rowsDue = none →
    takesIrq s.hart = false →
    step s = andThen (runHead (runWord exec) s) (fun t =>
      if t.hart.vwait.isSome && !attachHolds t.hart && t.hn = s.hn then runConvoy (runWord exec) t else .next t)) ∧
  (∀ (n : Nat) (s0 s : State) (w : BitVec 32) (i : Instr), s = settleLate s0 → s.hart.cv.slot < 4 → nth 0 s.hart.cv.words s.hart.cv.slot = w →
    Sys2Proof.decode w = .ok i →
    (touchesPending s w.toNat = true → isScalarWord w.toNat = true →
      scalarPhase (runWord exec) (n + 1) s0 = .next (waitHere .register s)) ∧
    (touchesPending s w.toNat = false → isScalarWord w.toNat = true →
      scalarPhase (runWord exec) (n + 1) s0 = andThen (exec i { s with hart := { s.hart with
          came := false, status := if s.hart.status = .waiting .register then .running else s.hart.status } }) (fun t =>
        if goesOn s t = true then
          scalarPhase (runWord exec) n
            { t with hart := { t.hart with cv := { t.hart.cv with slot := s.hart.cv.slot + 1 } } }
        else .next t)) ∧
    (isScalarWord w.toNat = false →
      scalarPhase (runWord exec) (n + 1) s0 = scalarPhase (runWord exec) n { s with hart := { s.hart with
        cv := { s.hart.cv with slot := s.hart.cv.slot + 1, acts := s.hart.cv.acts ++ [capture s s.hart.cv.slot w] } } })) ∧
  (∀ (e : VqEntry) (a : Act) (i : Instr) (s : State), isSetCtl a = false → slotDone e a.slot = false →
    Sys2Proof.decode a.w = .ok i →
    runAct (runWord exec) e a s = andThen (exec i { s with hart := { s.hart with
      iss := { s.hart.iss with act := a, cell := Tab.get 0 e.cells a.slot, bound := match s.hart.iss.lims with
        | some l => Tab.get none l a.slot
        | none => s.hart.iss.bound } } }) (fun t => .next (ringBehind e a t)))

/-- R146 to R149: decode and encode agree. Every well-formed instruction that has a word is what its word decodes to, with every
operand at every value, and a word that decodes is the word of its instruction, which is well-formed. -/
def Obligations.EncodingRoundTrip : Prop :=
  (∀ (i : Instr) (w : BitVec 32), i.wf = true → encode i = some w → Sys2Proof.decode w = .ok i) ∧
  (∀ (w : BitVec 32) (i : Instr), Sys2Proof.decode w = .ok i → encode i = some w ∧ i.wf = true)

/-- R148, R149, R156: the check that a convoy's decode makes on a word, told without building the instruction, accepts exactly
the words that decode. -/
def Obligations.LegalWordsDecode : Prop :=
  ∀ w : BitVec 32, legal w = true ↔ ∃ i, Sys2Proof.decode w = .ok i

/-- R146 to R149: words written out from the encodings decode to the instructions that they stand for, and words that the map
reserves to none. -/
def Obligations.WrittenWordsDecode : Prop :=
  (∀ x ∈ printedWords, Sys2Proof.decode x.1 = .ok x.2) ∧ (∀ w ∈ otherWords, ∀ i, Sys2Proof.decode w ≠ .ok i)

/-- R34, R85, R104, R108, R114, R117, R119, R443: after reset every hart holds no context, its scalar registers are zero and its
control registers have the values of the Reset columns; HBM is zero with every word empty; every memory tile is unbound and
zero, with no binding that holds a tag entry; no queue holds a record. -/
def Obligations.ResetState : Prop :=
  (∀ n, n < 1280 →
    let s := switchTo n State.reset
    s.hn = n ∧ s.hart.status = .noContext ∧ (∀ r : BitVec 5, getS s r = 0) ∧ (∀ x ∈ resetRegs, ctlValue s x.1 = x.2) ∧
      (∀ v, Tab.get 0 s.hart.prog v = 0 ∧ Tab.get 0 s.hart.cells v = 0) ∧
      s.hart.vq = [] ∧ s.hart.mq = [] ∧ s.hart.shadow = [] ∧ s.hart.bq = []) ∧
  (∀ a, a < 0x59682F0000 → getByte State.reset a = 0 ∧ isFull State.reset a = false) ∧
  (∀ k, Tab.get 0 State.reset.tileMode k = 0 ∧ Tab.get 0 State.reset.tiles k = 0) ∧ (∀ c, (getCore State.reset c).slots = []) ∧
  (∀ q, (getQueue State.reset q).onchip = [] ∧ (getQueue State.reset q).spilled = 0 ∧ (getQueue State.reset q).en = false)

/-- The model's own invariant (log 15): a state in which an access has reached no address is left by no step, and no step that
answers a next state leaves such a state; it holds after reset. -/
def Obligations.NoLostAccess : Prop :=
  (∀ s t : State, step s = .next t → s.stop = none ∧ t.stop = none) ∧ State.reset.stop = none

/-- The model's own invariant: memory keeps its canonical form in every step, so that memories that read alike are equal; it holds
after reset. -/
def Obligations.MemoryKeepsItsForm : Prop :=
  (∀ s t : State, Memory.wf s.mem → step s = .next t → Memory.wf t.mem) ∧ Memory.wf State.reset.mem
end

