-- ==== Sys2Proof/Laws/Bits.lean ====
section
/-! SUPPORT. Bit fields of numbers: what a replaced field reads as, and that other fields stay. -/

namespace Sys2Proof.Laws

open Sys2Proof.Machine

theorem putFld_eq (x lo n v : Nat) :
    putFld x lo n v = (x / 2 ^ lo / 2 ^ n * 2 ^ n + v % 2 ^ n) * 2 ^ lo + x % 2 ^ lo := by
  unfold putFld fld
  have h1 := Nat.div_add_mod x (2 ^ lo)
  have h2 := Nat.div_add_mod (x / 2 ^ lo) (2 ^ n)
  generalize x / 2 ^ lo = q at *
  generalize q / 2 ^ n = hi at *
  generalize q % 2 ^ n = mid at *
  generalize x % 2 ^ lo = r at *
  generalize v % 2 ^ n = u
  subst h2
  subst h1
  have e1 : 2 ^ lo * (2 ^ n * hi + mid) = hi * 2 ^ n * 2 ^ lo + mid * 2 ^ lo := by ring
  have e2 : (hi * 2 ^ n + u) * 2 ^ lo = hi * 2 ^ n * 2 ^ lo + u * 2 ^ lo := by ring
  rw [e1, e2]
  omega

theorem fld_putFld_same (x lo n v : Nat) : fld (putFld x lo n v) lo n = v % 2 ^ n := by
  rw [putFld_eq]
  unfold fld
  have hr := Nat.mod_lt x (Nat.two_pow_pos lo)
  rw [Nat.mul_comm _ (2 ^ lo), Nat.mul_add_div (Nat.two_pow_pos lo), Nat.div_eq_of_lt hr, Nat.add_zero,
    Nat.mul_comm (_ / _) (2 ^ n), Nat.mul_add_mod, Nat.mod_mod]

theorem fld_putFld_above (x lo n v lo' n' : Nat) (h : lo + n ≤ lo') : fld (putFld x lo n v) lo' n' = fld x lo' n' := by
  obtain ⟨k, rfl⟩ := Nat.exists_eq_add_of_le h
  have e : putFld x lo n v / 2 ^ (lo + n) = x / 2 ^ (lo + n) := by
    rw [putFld_eq, Nat.pow_add, ← Nat.div_div_eq_div_mul]
    have hr := Nat.mod_lt x (Nat.two_pow_pos lo)
    rw [Nat.mul_comm _ (2 ^ lo), Nat.mul_add_div (Nat.two_pow_pos lo), Nat.div_eq_of_lt hr, Nat.add_zero,
      Nat.mul_comm (_ / _) (2 ^ n), Nat.mul_add_div (Nat.two_pow_pos n),
      Nat.div_eq_of_lt (Nat.mod_lt v (Nat.two_pow_pos n)), Nat.add_zero, Nat.div_div_eq_div_mul]
  unfold fld
  rw [Nat.pow_add 2 (lo + n) k, ← Nat.div_div_eq_div_mul, ← Nat.div_div_eq_div_mul, e]

theorem fld_putFld_below (x lo n v lo' n' : Nat) (h : lo' + n' ≤ lo) : fld (putFld x lo n v) lo' n' = fld x lo' n' := by
  obtain ⟨k, rfl⟩ := Nat.exists_eq_add_of_le h
  have e : putFld x (lo' + n' + k) n v % 2 ^ (lo' + n') = x % 2 ^ (lo' + n') := by
    rw [putFld_eq, Nat.pow_add 2 (lo' + n') k]
    rw [Nat.mul_comm _ (2 ^ (lo' + n') * 2 ^ k), Nat.mul_assoc, Nat.mul_add_mod, Nat.mod_mul_right_mod]
  unfold fld
  have g : ∀ y : Nat, y / 2 ^ lo' % 2 ^ n' = y % 2 ^ (lo' + n') / 2 ^ lo' := by
    intro y; rw [Nat.pow_add, Nat.mod_mul_right_div_self]
  rw [g, g, e]

theorem putFld_lt (x lo n v k : Nat) (hx : x < 2 ^ k) (h : lo + n ≤ k) : putFld x lo n v < 2 ^ k := by
  obtain ⟨j, rfl⟩ := Nat.exists_eq_add_of_le h
  have a : x / 2 ^ lo / 2 ^ n < 2 ^ j := by
    rw [Nat.div_div_eq_div_mul, ← Nat.pow_add]
    exact Nat.div_lt_of_lt_mul (by rw [← Nat.pow_add]; exact hx)
  have b := Nat.mod_lt v (Nat.two_pow_pos n)
  have c := Nat.mod_lt x (Nat.two_pow_pos lo)
  rw [putFld_eq]
  have d : x / 2 ^ lo / 2 ^ n * 2 ^ n + v % 2 ^ n < 2 ^ (n + j) := by
    rw [Nat.pow_add]
    calc _ < x / 2 ^ lo / 2 ^ n * 2 ^ n + 2 ^ n := by omega
      _ = (x / 2 ^ lo / 2 ^ n + 1) * 2 ^ n := by ring
      _ ≤ 2 ^ j * 2 ^ n := Nat.mul_le_mul_right _ a
      _ = 2 ^ n * 2 ^ j := Nat.mul_comm _ _
  calc _ < (x / 2 ^ lo / 2 ^ n * 2 ^ n + v % 2 ^ n) * 2 ^ lo + 2 ^ lo := by omega
    _ = (x / 2 ^ lo / 2 ^ n * 2 ^ n + v % 2 ^ n + 1) * 2 ^ lo := by ring
    _ ≤ 2 ^ (n + j) * 2 ^ lo := Nat.mul_le_mul_right _ d
    _ = 2 ^ (lo + n + j) := by rw [← Nat.pow_add]; congr 1; omega

theorem toBytes_length (x n : Nat) : (toBytes x n).length = n := by
  induction n generalizing x with
  | zero => rfl
  | succ n ih => simp [toBytes, ih]

theorem ofBytes_toBytes (x n : Nat) : ofBytes (toBytes x n) = x % 2 ^ (8 * n) := by
  induction n generalizing x with
  | zero => simp [toBytes, ofBytes, Nat.mod_one]
  | succ n ih =>
    simp only [toBytes, ofBytes, ih, BitVec.toNat_ofNat]
    have : 2 ^ (8 * (n + 1)) = 256 * 2 ^ (8 * n) := by rw [Nat.mul_add, Nat.pow_add]; ring
    rw [this, Nat.mod_mul]

end Sys2Proof.Laws
end

