-- ==== Sys2Proof/Laws/Tab.lean ====
section
/-! SUPPORT. What sparse tables do: a read after a write, and the canonical form. -/

namespace Sys2Proof.Laws

variable {α : Type}

theorem get_erase (d : α) (t : Tab α) (k j : Nat) :
    Tab.get d (Tab.erase t k) j = if k = j then d else Tab.get d t j := by
  induction t with
  | nil => simp [Tab.erase, Tab.get]
  | cons x t ih =>
    obtain ⟨i, a⟩ := x
    by_cases h : i = k
    · subst h
      simp only [Tab.erase, if_true, ih]
      split <;> simp_all [Tab.get]
    · simp only [Tab.erase, h, if_false, Tab.get, ih]
      split <;> split <;> simp_all

theorem get_insert (d : α) (t : Tab α) (k j : Nat) (v : α) :
    Tab.get d (Tab.insert t k v) j = if k = j then v else Tab.get d t j := by
  induction t with
  | nil => simp [Tab.insert, Tab.get]
  | cons x t ih =>
    obtain ⟨i, a⟩ := x
    simp only [Tab.insert]
    split
    · simp [Tab.get]
    · split
      · subst i
        simp [Tab.get]
        split <;> rfl
      · simp only [Tab.get, ih]
        split <;> split <;> simp_all

/-- A read after a write: the value at the key written, the old one elsewhere. -/
theorem get_set [DecidableEq α] (d : α) (t : Tab α) (k j : Nat) (v : α) :
    Tab.get d (Tab.set d t k v) j = if k = j then v else Tab.get d t j := by
  unfold Tab.set
  split
  · next h => rw [get_erase, h]
  · exact get_insert d t k j v

@[simp] theorem get_set_same [DecidableEq α] (d : α) (t : Tab α) (k : Nat) (v : α) :
    Tab.get d (Tab.set d t k v) k = v := by simp [get_set]

theorem get_set_other [DecidableEq α] (d : α) (t : Tab α) {k j : Nat} (v : α) (h : k ≠ j) :
    Tab.get d (Tab.set d t k v) j = Tab.get d t j := by simp [get_set, h]

theorem above_mono {t : Tab α} : ∀ {k l : Nat}, l ≤ k → Tab.above k t = true → Tab.above l t = true := by
  intro k l h ht
  cases t with
  | nil => rfl
  | cons x t =>
    simp only [Tab.above, Bool.and_eq_true, decide_eq_true_eq] at ht ⊢
    exact ⟨by omega, ht.2⟩

theorem above_erase {t : Tab α} (k : Nat) : ∀ {l : Nat}, Tab.above l t = true → Tab.above l (Tab.erase t k) = true := by
  induction t with
  | nil => intro _ _; rfl
  | cons x t ih =>
    intro l h
    obtain ⟨i, a⟩ := x
    simp only [Tab.above, Bool.and_eq_true, decide_eq_true_eq] at h
    simp only [Tab.erase]
    split
    · exact above_mono (by omega) (ih h.2)
    · simp only [Tab.above, Bool.and_eq_true, decide_eq_true_eq]
      exact ⟨h.1, ih h.2⟩

theorem above_insert {t : Tab α} (k : Nat) (v : α) :
    ∀ {l : Nat}, l ≤ k → Tab.above l t = true → Tab.above l (Tab.insert t k v) = true := by
  induction t with
  | nil => intro l h _; simp [Tab.insert, Tab.above, h]
  | cons x t ih =>
    intro l hl h
    obtain ⟨i, a⟩ := x
    simp only [Tab.above, Bool.and_eq_true, decide_eq_true_eq] at h
    simp only [Tab.insert]
    split
    · simp only [Tab.above, Bool.and_eq_true, decide_eq_true_eq]
      exact ⟨hl, by omega, h.2⟩
    · split
      · subst i
        simp only [Tab.above, Bool.and_eq_true, decide_eq_true_eq]
        exact ⟨hl, h.2⟩
      · simp only [Tab.above, Bool.and_eq_true, decide_eq_true_eq]
        exact ⟨h.1, ih (by omega) h.2⟩

theorem all_erase {t : Tab α} (p : Nat × α → Bool) (k : Nat) (h : t.all p = true) : (Tab.erase t k).all p = true := by
  induction t with
  | nil => rfl
  | cons x t ih =>
    simp only [List.all_cons, Bool.and_eq_true] at h
    simp only [Tab.erase]
    split
    · exact ih h.2
    · simp only [List.all_cons, Bool.and_eq_true]
      exact ⟨h.1, ih h.2⟩

theorem all_insert {t : Tab α} (p : Nat × α → Bool) (k : Nat) (v : α) (hv : p (k, v) = true) (h : t.all p = true) :
    (Tab.insert t k v).all p = true := by
  induction t with
  | nil => simp [Tab.insert, hv]
  | cons x t ih =>
    simp only [List.all_cons, Bool.and_eq_true] at h
    simp only [Tab.insert]
    split
    · simp only [List.all_cons, Bool.and_eq_true]; exact ⟨hv, h.1, h.2⟩
    · split
      · simp only [List.all_cons, Bool.and_eq_true]; exact ⟨hv, h.2⟩
      · simp only [List.all_cons, Bool.and_eq_true]; exact ⟨h.1, ih h.2⟩

@[simp] theorem wf_nil [DecidableEq α] (d : α) : Tab.wf d ([] : Tab α) = true := rfl

/-- A write keeps the canonical form. -/
theorem wf_set [DecidableEq α] (d : α) (t : Tab α) (k : Nat) (v : α) (h : Tab.wf d t = true) :
    Tab.wf d (Tab.set d t k v) = true := by
  simp only [Tab.wf, Bool.and_eq_true] at h ⊢
  unfold Tab.set
  split
  · exact ⟨above_erase k h.1, all_erase _ k h.2⟩
  · next hv => exact ⟨above_insert k v (Nat.zero_le k) h.1, all_insert _ k v (by simp [hv]) h.2⟩

theorem above_filter (p : Nat × α → Bool) {t : Tab α} : ∀ {l : Nat}, Tab.above l t = true → Tab.above l (t.filter p) = true := by
  induction t with
  | nil => intro _ _; rfl
  | cons x t ih =>
    intro l h
    obtain ⟨i, a⟩ := x
    simp only [Tab.above, Bool.and_eq_true, decide_eq_true_eq] at h
    by_cases hp : p (i, a) = true
    · rw [List.filter_cons_of_pos hp]
      simp only [Tab.above, Bool.and_eq_true, decide_eq_true_eq]
      exact ⟨h.1, ih h.2⟩
    · rw [List.filter_cons_of_neg hp]
      exact above_mono (by omega) (ih h.2)

/-- Dropping entries keeps the canonical form. -/
theorem wf_drop [DecidableEq α] (d : α) (p : Nat → Bool) (t : Tab α) (h : Tab.wf d t = true) :
    Tab.wf d (Tab.drop p t) = true := by
  simp only [Tab.wf, Bool.and_eq_true, Tab.drop] at h ⊢
  refine ⟨above_filter _ h.1, ?_⟩
  rw [List.all_eq_true] at h ⊢
  intro x hx
  exact h.2 x (List.mem_of_mem_filter hx)

theorem get_above (d : α) {t : Tab α} {k j : Nat} (hj : j < k) (h : Tab.above k t = true) : Tab.get d t j = d := by
  induction t generalizing k with
  | nil => rfl
  | cons x t ih =>
    obtain ⟨i, a⟩ := x
    simp only [Tab.above, Bool.and_eq_true, decide_eq_true_eq] at h
    simp only [Tab.get]
    rw [if_neg (by omega)]
    exact ih (by omega) h.2

/-- Equal reads make equal data: two canonical tables that read alike at every key are one table. -/
theorem wf_ext [DecidableEq α] (d : α) : ∀ {t u : Tab α} {k : Nat}, Tab.above k t = true → Tab.above k u = true →
    t.all (fun e => !decide (e.2 = d)) = true → u.all (fun e => !decide (e.2 = d)) = true →
    (∀ j, Tab.get d t j = Tab.get d u j) → t = u := by
  intro t
  induction t with
  | nil =>
    intro u k _ hu _ hud h
    cases u with
    | nil => rfl
    | cons y u =>
      obtain ⟨j, b⟩ := y
      have := h j
      simp [Tab.get] at this
      simp [← this] at hud
  | cons x t ih =>
    intro u k ht hu htd hud h
    obtain ⟨i, a⟩ := x
    simp only [Tab.above, Bool.and_eq_true, decide_eq_true_eq, List.all_cons, Bool.not_eq_true', decide_eq_false_iff_not] at ht htd
    cases u with
    | nil =>
      have := h i
      simp [Tab.get] at this
      exact absurd this htd.1
    | cons y u =>
      obtain ⟨j, b⟩ := y
      simp only [Tab.above, Bool.and_eq_true, decide_eq_true_eq, List.all_cons, Bool.not_eq_true', decide_eq_false_iff_not] at hu hud
      have hij : i = j := by
        rcases Nat.lt_trichotomy i j with hlt | he | hlt
        · have := h i
          simp only [Tab.get, if_true] at this
          rw [if_neg (by omega), get_above d (by omega) hu.2] at this
          exact absurd this htd.1
        · exact he
        · have := h j
          simp only [Tab.get, if_true] at this
          rw [if_neg (by omega), get_above d (by omega) ht.2] at this
          exact absurd this.symm hud.1
      subst hij
      have hab : a = b := by simpa [Tab.get] using h i
      subst hab
      rw [ih (k := i + 1) ht.2 hu.2 (by simpa using htd.2) (by simpa using hud.2) (fun m => ?_)]
      by_cases hm : m = i
      · subst hm; rw [get_above d (by omega) ht.2, get_above d (by omega) hu.2]
      · have := h m
        simpa [Tab.get, Ne.symm hm] using this

end Sys2Proof.Laws
end

