-- ==== Sys2Proof/Laws/Elems.lean ====
section
/-! SUPPORT. Elements of the vector file: what a written element reads as, and that other elements and registers stay
(R112). -/

namespace Sys2Proof.Laws

open Sys2Proof.Machine

theorem pos_fits {w L : Nat} (i : Nat) (hw : w ∣ L) (hL : 0 < L) : i * w % L + w ≤ L := by
  have h1 : i * w % L < L := Nat.mod_lt _ hL
  have h2 : w ∣ i * w % L := (Nat.dvd_mod_iff hw).2 (Nat.dvd_mul_left w i)
  obtain ⟨a, ha⟩ := hw
  obtain ⟨b, hb⟩ := h2
  rw [hb] at h1 ⊢
  rw [ha] at h1 ⊢
  have : b < a := Nat.lt_of_mul_lt_mul_left h1
  calc w * b + w = w * (b + 1) := by ring
    _ ≤ w * a := Nat.mul_le_mul_left _ this

theorem pos_apart {w L i j : Nat} (hw : w ∣ L) (hL : 0 < L) (h : i * w % L ≠ j * w % L) :
    i * w % L + w ≤ j * w % L ∨ j * w % L + w ≤ i * w % L := by
  have h1 : w ∣ i * w % L := (Nat.dvd_mod_iff hw).2 (Nat.dvd_mul_left w i)
  have h2 : w ∣ j * w % L := (Nat.dvd_mod_iff hw).2 (Nat.dvd_mul_left w j)
  obtain ⟨a, ha⟩ := h1
  obtain ⟨b, hb⟩ := h2
  rw [ha, hb] at h ⊢
  have hab : a ≠ b := fun e => h (by rw [e])
  rcases Nat.lt_or_gt_of_ne hab with hlt | hgt
  · left
    calc w * a + w = w * (a + 1) := by ring
      _ ≤ w * b := Nat.mul_le_mul_left _ hlt
  · right
    calc w * b + w = w * (b + 1) := by ring
      _ ≤ w * a := Nat.mul_le_mul_left _ hgt

/-- A register that holds no part of the element keeps its value. -/
theorem get_setElemOf_other (t : Tab VReg) (L v i w x k : Nat) (h : k ≠ v + i * w / L) :
    Tab.get 0 (setElemOf t L v i w x) k = Tab.get 0 t k := by
  unfold setElemOf
  exact get_set_other 0 t _ (Ne.symm h)

/-- The element written reads back, modulo its width. -/
theorem elemOf_setElemOf_same (t : Tab VReg) (L v i w x : Nat) (hw : w ∣ L) (hL : 0 < L) (hm : L ≤ 65536) :
    elemOf (setElemOf t L v i w x) L v i w = x % 2 ^ w := by
  unfold elemOf setElemOf vbits
  simp only [get_set_same, BitVec.toNat_ofNat]
  have hp := pos_fits i hw hL
  rw [Nat.mod_eq_of_lt (putFld_lt _ _ _ _ _ (BitVec.isLt _) (by omega))]
  exact fld_putFld_same _ _ _ _

/-- Another element of the same width keeps its value. -/
theorem elemOf_setElemOf_other (t : Tab VReg) (L v i w x v' i' : Nat) (hw : w ∣ L) (hL : 0 < L) (hm : L ≤ 65536)
    (h : v + i * w / L ≠ v' + i' * w / L ∨ i * w % L ≠ i' * w % L) :
    elemOf (setElemOf t L v i w x) L v' i' w = elemOf t L v' i' w := by
  unfold elemOf
  by_cases hk : v + i * w / L = v' + i' * w / L
  · have hpos : i * w % L ≠ i' * w % L := by rcases h with h | h; exact absurd hk h; exact h
    unfold setElemOf vbits
    simp only [hk, get_set_same, BitVec.toNat_ofNat]
    have hp := pos_fits i hw hL
    rw [Nat.mod_eq_of_lt (putFld_lt _ _ _ _ _ (BitVec.isLt _) (by omega))]
    rcases pos_apart hw hL hpos with h1 | h1
    · exact fld_putFld_above _ _ _ _ _ _ h1
    · exact fld_putFld_below _ _ _ _ _ _ h1
  · rw [get_setElemOf_other _ _ _ _ _ _ _ (Ne.symm hk)]

/-- Two elements of one group lie apart. -/
theorem elem_ne {w L i j : Nat} (hw : 0 < w) (h : i ≠ j) : i * w / L ≠ j * w / L ∨ i * w % L ≠ j * w % L := by
  by_contra hc
  rw [not_or, not_not, not_not] at hc
  have e : i * w = j * w := by
    rw [← Nat.div_add_mod (i * w) L, ← Nat.div_add_mod (j * w) L, hc.1, hc.2]
  exact h (Nat.eq_of_mul_eq_mul_right hw e)

end Sys2Proof.Laws
end

