-- ==== Sys2Proof/Laws/Memory.lean ====
section
/-! SUPPORT. Memory: every operation that writes it keeps the canonical form, a read after a write gives what was written,
and every other byte stays. -/

namespace Sys2Proof.Laws

open Sys2Proof.Machine

/-! The canonical form -/

theorem reset_mem_wf : Memory.wf State.reset.mem := rfl

theorem wf_putBytesRaw {m : List Host.Cell} (pa : Nat) (bs : List Byte) (h : Memory.wf m) : Memory.wf (putBytesRaw m pa bs) := by
  induction bs generalizing m pa with
  | nil => exact h
  | cons b bs ih => exact ih (pa + 1) (wf_set memDefault m pa b h)

theorem wf_putBytesBy (who : Option (Member × Nat)) (pa : Nat) (bs : List Byte) {s : State} (h : Memory.wf s.mem) :
    Memory.wf (putBytesBy who pa bs s).mem := wf_putBytesRaw pa bs h

theorem wf_putBytes (pa : Nat) (bs : List Byte) {s : State} (h : Memory.wf s.mem) : Memory.wf (putBytes pa bs s).mem :=
  wf_putBytesBy _ pa bs h

theorem wf_putMem (pa n v : Nat) {s : State} (h : Memory.wf s.mem) : Memory.wf (putMem pa n v s).mem := wf_putBytes pa _ h

theorem wf_writeLoc (l : Loc) (n v : Nat) {s : State} (h : Memory.wf s.mem) : Memory.wf (writeLoc l n v s).mem := by
  cases l with
  | pa a => exact wf_putMem a n v h
  | tile o => exact h

theorem foldl_cleanLine_mem (ls : List Nat) (s : State) : (ls.foldl (fun t l => cleanLine (128 * l) t) s).mem = s.mem := by
  induction ls generalizing s with
  | nil => rfl
  | cons l ls ih => rw [List.foldl_cons, ih]; rfl

theorem wf_putLines (who : Option (Member × Nat)) (pa : Nat) (bs : List Byte) {s : State} (h : Memory.wf s.mem) :
    Memory.wf (putLines who pa bs s).mem := by
  unfold putLines
  rw [foldl_cleanLine_mem]
  exact wf_putBytesBy who pa bs h

theorem wf_agentWrite (pa : Nat) (bs : List Byte) {s : State} (h : Memory.wf s.mem) : Memory.wf (agentWrite pa bs s).mem := by
  unfold agentWrite
  split
  · exact wf_putLines none pa bs h
  · exact h

/-- What memory is once the L2 holds nothing. -/
theorem wf_seenMem {s : State} (h : Memory.wf s.mem) : Memory.wf (seenMem s) := by
  have step : ∀ (l : Tab (Option Byte)) (m : List Host.Cell), Memory.wf m →
      Memory.wf (l.foldl (fun m e => match e.2 with | some b => Tab.set memDefault m e.1 b | none => m) m) := by
    intro l
    induction l with
    | nil => exact fun _ h => h
    | cons e l ih =>
      intro m hm
      rw [List.foldl_cons]
      apply ih
      split
      · exact wf_set memDefault m e.1 _ hm
      · exact hm
  exact step s.far s.mem h

theorem wf_dropDump {m : List Host.Cell} (h : Memory.wf m) : Memory.wf (dropDump m) := wf_drop memDefault _ m h

theorem wf_warmReset {s : State} (h : Memory.wf s.mem) : Memory.wf (warmReset s).mem := by
  show Memory.wf (if s.mgmt.dumpRel then dropDump (seenMem s) else seenMem s)
  split
  · exact wf_dropDump (wf_seenMem h)
  · exact wf_seenMem h

/-! Reads after writes -/

theorem get_putBytesRaw (m : List Host.Cell) (pa a : Nat) (bs : List Byte) :
    Tab.get memDefault (putBytesRaw m pa bs) a = if pa ≤ a then (bs[a - pa]?).getD (Tab.get memDefault m a) else Tab.get memDefault m a := by
  induction bs generalizing m pa with
  | nil => simp [putBytesRaw]
  | cons b bs ih =>
    simp only [putBytesRaw, ih, get_set]
    by_cases h : pa = a
    · subst h
      simp
    · by_cases g : pa ≤ a
      · obtain ⟨k, hk⟩ : ∃ k, a - pa = k + 1 := ⟨a - pa - 1, by omega⟩
        rw [if_pos (by omega), if_pos g, hk, List.getElem?_cons_succ, show a - (pa + 1) = k by omega, if_neg h]
      · rw [if_neg (by omega), if_neg g, if_neg h]

/-- Byte a after a write of bytes from pa up. -/
theorem getByte_putBytesBy (who : Option (Member × Nat)) (pa a : Nat) (bs : List Byte) (s : State) :
    getByte (putBytesBy who pa bs s) a = if pa ≤ a then (bs[a - pa]?).getD (getByte s a) else getByte s a :=
  get_putBytesRaw s.mem pa a bs

/-- A write leaves every byte outside it. -/
theorem getByte_putBytesBy_other (who : Option (Member × Nat)) {pa a : Nat} (bs : List Byte) (s : State) (h : a < pa ∨ pa + bs.length ≤ a) :
    getByte (putBytesBy who pa bs s) a = getByte s a := by
  rw [getByte_putBytesBy]
  split
  · rw [List.getElem?_eq_none (by omega)]
    rfl
  · rfl

theorem getByte_putMem_other {pa n a : Nat} (v : Nat) (s : State) (h : a < pa ∨ pa + n ≤ a) :
    getByte (putMem pa n v s) a = getByte s a :=
  getByte_putBytesBy_other _ _ s (by rw [toBytes_length]; exact h)

theorem getMem_eq (s : State) (pa n : Nat) : getMem s pa n = ofBytes ((List.range n).map (fun i => getByte s (pa + i))) := by
  induction n generalizing pa with
  | zero => rfl
  | succ n ih =>
    rw [List.range_succ_eq_map, List.map_cons, List.map_map, getMem, ofBytes, ih]
    simp only [Nat.add_zero, Function.comp_def, Nat.succ_eq_add_one, Nat.add_comm 1, Nat.add_assoc, Nat.add_left_comm]

/-- A read after a write to the same place gives the value written. -/
theorem getMem_putMem (pa n v : Nat) (s : State) : getMem (putMem pa n v s) pa n = v % 2 ^ (8 * n) := by
  rw [getMem_eq, ← ofBytes_toBytes]
  congr 1
  apply List.ext_getElem
  · simp [toBytes_length]
  · intro i h _
    rw [List.length_map, List.length_range] at h
    rw [List.getElem_map, List.getElem_range]
    show getByte (putBytesBy _ pa (toBytes v n) s) (pa + i) = _
    rw [getByte_putBytesBy, if_pos (by omega), Nat.add_sub_cancel_left, List.getElem?_eq_getElem (by rwa [toBytes_length])]
    rfl

/-- Reads that a write does not touch. -/
theorem getMem_putMem_other {pa n a k : Nat} (v : Nat) (s : State) (h : a + k ≤ pa ∨ pa + n ≤ a) :
    getMem (putMem pa n v s) a k = getMem s a k := by
  rw [getMem_eq, getMem_eq]
  congr 1
  apply List.map_congr_left
  intro i hi
  rw [List.mem_range] at hi
  exact getByte_putMem_other v s (by omega)

end Sys2Proof.Laws
end

