-- ==== Sys2Proof/Laws/State.lean ====
section
/-! SUPPORT. What each named update of the state leaves in each field, so that no later proof unfolds a record update. -/

namespace Sys2Proof.Laws

open Sys2Proof.Machine


/-! `updH` -/

@[simp] theorem updH_hn (f : Hart → Hart) (s : State) : (updH f s).hn = s.hn := rfl
@[simp] theorem updH_parked (f : Hart → Hart) (s : State) : (updH f s).parked = s.parked := rfl
@[simp] theorem updH_mem (f : Hart → Hart) (s : State) : (updH f s).mem = s.mem := rfl
@[simp] theorem updH_linePois (f : Hart → Hart) (s : State) : (updH f s).linePois = s.linePois := rfl
@[simp] theorem updH_full (f : Hart → Hart) (s : State) : (updH f s).full = s.full := rfl
@[simp] theorem updH_far (f : Hart → Hart) (s : State) : (updH f s).far = s.far := rfl
@[simp] theorem updH_tiles (f : Hart → Hart) (s : State) : (updH f s).tiles = s.tiles := rfl
@[simp] theorem updH_tilePois (f : Hart → Hart) (s : State) : (updH f s).tilePois = s.tilePois := rfl
@[simp] theorem updH_tileMode (f : Hart → Hart) (s : State) : (updH f s).tileMode = s.tileMode := rfl
@[simp] theorem updH_cores (f : Hart → Hart) (s : State) : (updH f s).cores = s.cores := rfl
@[simp] theorem updH_quads (f : Hart → Hart) (s : State) : (updH f s).quads = s.quads := rfl
@[simp] theorem updH_clusters (f : Hart → Hart) (s : State) : (updH f s).clusters = s.clusters := rfl
@[simp] theorem updH_queues (f : Hart → Hart) (s : State) : (updH f s).queues = s.queues := rfl
@[simp] theorem updH_tasks (f : Hart → Hart) (s : State) : (updH f s).tasks = s.tasks := rfl
@[simp] theorem updH_tlb (f : Hart → Hart) (s : State) : (updH f s).tlb = s.tlb := rfl
@[simp] theorem updH_deferred (f : Hart → Hart) (s : State) : (updH f s).deferred = s.deferred := rfl
@[simp] theorem updH_reuse (f : Hart → Hart) (s : State) : (updH f s).reuse = s.reuse := rfl
@[simp] theorem updH_ingress (f : Hart → Hart) (s : State) : (updH f s).ingress = s.ingress := rfl
@[simp] theorem updH_egress (f : Hart → Hart) (s : State) : (updH f s).egress = s.egress := rfl
@[simp] theorem updH_mgmt (f : Hart → Hart) (s : State) : (updH f s).mgmt = s.mgmt := rfl
@[simp] theorem updH_colls (f : Hart → Hart) (s : State) : (updH f s).colls = s.colls := rfl
@[simp] theorem updH_ports (f : Hart → Hart) (s : State) : (updH f s).ports = s.ports := rfl
@[simp] theorem updH_cxlLen (f : Hart → Hart) (s : State) : (updH f s).cxlLen = s.cxlLen := rfl
@[simp] theorem updH_hext (f : Hart → Hart) (s : State) : (updH f s).hext = s.hext := rfl
@[simp] theorem updH_time (f : Hart → Hart) (s : State) : (updH f s).time = s.time := rfl
@[simp] theorem updH_order (f : Hart → Hart) (s : State) : (updH f s).order = s.order := rfl
@[simp] theorem updH_free (f : Hart → Hart) (s : State) : (updH f s).free = s.free := rfl
@[simp] theorem updH_inputs (f : Hart → Hart) (s : State) : (updH f s).inputs = s.inputs := rfl
@[simp] theorem updH_stop (f : Hart → Hart) (s : State) : (updH f s).stop = s.stop := rfl

/-! `updCv` -/

@[simp] theorem updCv_hn (f : Conv → Conv) (s : State) : (updCv f s).hn = s.hn := rfl
@[simp] theorem updCv_parked (f : Conv → Conv) (s : State) : (updCv f s).parked = s.parked := rfl
@[simp] theorem updCv_mem (f : Conv → Conv) (s : State) : (updCv f s).mem = s.mem := rfl
@[simp] theorem updCv_linePois (f : Conv → Conv) (s : State) : (updCv f s).linePois = s.linePois := rfl
@[simp] theorem updCv_full (f : Conv → Conv) (s : State) : (updCv f s).full = s.full := rfl
@[simp] theorem updCv_far (f : Conv → Conv) (s : State) : (updCv f s).far = s.far := rfl
@[simp] theorem updCv_tiles (f : Conv → Conv) (s : State) : (updCv f s).tiles = s.tiles := rfl
@[simp] theorem updCv_tilePois (f : Conv → Conv) (s : State) : (updCv f s).tilePois = s.tilePois := rfl
@[simp] theorem updCv_tileMode (f : Conv → Conv) (s : State) : (updCv f s).tileMode = s.tileMode := rfl
@[simp] theorem updCv_cores (f : Conv → Conv) (s : State) : (updCv f s).cores = s.cores := rfl
@[simp] theorem updCv_quads (f : Conv → Conv) (s : State) : (updCv f s).quads = s.quads := rfl
@[simp] theorem updCv_clusters (f : Conv → Conv) (s : State) : (updCv f s).clusters = s.clusters := rfl
@[simp] theorem updCv_queues (f : Conv → Conv) (s : State) : (updCv f s).queues = s.queues := rfl
@[simp] theorem updCv_tasks (f : Conv → Conv) (s : State) : (updCv f s).tasks = s.tasks := rfl
@[simp] theorem updCv_tlb (f : Conv → Conv) (s : State) : (updCv f s).tlb = s.tlb := rfl
@[simp] theorem updCv_deferred (f : Conv → Conv) (s : State) : (updCv f s).deferred = s.deferred := rfl
@[simp] theorem updCv_reuse (f : Conv → Conv) (s : State) : (updCv f s).reuse = s.reuse := rfl
@[simp] theorem updCv_ingress (f : Conv → Conv) (s : State) : (updCv f s).ingress = s.ingress := rfl
@[simp] theorem updCv_egress (f : Conv → Conv) (s : State) : (updCv f s).egress = s.egress := rfl
@[simp] theorem updCv_mgmt (f : Conv → Conv) (s : State) : (updCv f s).mgmt = s.mgmt := rfl
@[simp] theorem updCv_colls (f : Conv → Conv) (s : State) : (updCv f s).colls = s.colls := rfl
@[simp] theorem updCv_ports (f : Conv → Conv) (s : State) : (updCv f s).ports = s.ports := rfl
@[simp] theorem updCv_cxlLen (f : Conv → Conv) (s : State) : (updCv f s).cxlLen = s.cxlLen := rfl
@[simp] theorem updCv_hext (f : Conv → Conv) (s : State) : (updCv f s).hext = s.hext := rfl
@[simp] theorem updCv_time (f : Conv → Conv) (s : State) : (updCv f s).time = s.time := rfl
@[simp] theorem updCv_order (f : Conv → Conv) (s : State) : (updCv f s).order = s.order := rfl
@[simp] theorem updCv_free (f : Conv → Conv) (s : State) : (updCv f s).free = s.free := rfl
@[simp] theorem updCv_inputs (f : Conv → Conv) (s : State) : (updCv f s).inputs = s.inputs := rfl
@[simp] theorem updCv_stop (f : Conv → Conv) (s : State) : (updCv f s).stop = s.stop := rfl

/-! `updIss` -/

@[simp] theorem updIss_hn (f : Issue → Issue) (s : State) : (updIss f s).hn = s.hn := rfl
@[simp] theorem updIss_parked (f : Issue → Issue) (s : State) : (updIss f s).parked = s.parked := rfl
@[simp] theorem updIss_mem (f : Issue → Issue) (s : State) : (updIss f s).mem = s.mem := rfl
@[simp] theorem updIss_linePois (f : Issue → Issue) (s : State) : (updIss f s).linePois = s.linePois := rfl
@[simp] theorem updIss_full (f : Issue → Issue) (s : State) : (updIss f s).full = s.full := rfl
@[simp] theorem updIss_far (f : Issue → Issue) (s : State) : (updIss f s).far = s.far := rfl
@[simp] theorem updIss_tiles (f : Issue → Issue) (s : State) : (updIss f s).tiles = s.tiles := rfl
@[simp] theorem updIss_tilePois (f : Issue → Issue) (s : State) : (updIss f s).tilePois = s.tilePois := rfl
@[simp] theorem updIss_tileMode (f : Issue → Issue) (s : State) : (updIss f s).tileMode = s.tileMode := rfl
@[simp] theorem updIss_cores (f : Issue → Issue) (s : State) : (updIss f s).cores = s.cores := rfl
@[simp] theorem updIss_quads (f : Issue → Issue) (s : State) : (updIss f s).quads = s.quads := rfl
@[simp] theorem updIss_clusters (f : Issue → Issue) (s : State) : (updIss f s).clusters = s.clusters := rfl
@[simp] theorem updIss_queues (f : Issue → Issue) (s : State) : (updIss f s).queues = s.queues := rfl
@[simp] theorem updIss_tasks (f : Issue → Issue) (s : State) : (updIss f s).tasks = s.tasks := rfl
@[simp] theorem updIss_tlb (f : Issue → Issue) (s : State) : (updIss f s).tlb = s.tlb := rfl
@[simp] theorem updIss_deferred (f : Issue → Issue) (s : State) : (updIss f s).deferred = s.deferred := rfl
@[simp] theorem updIss_reuse (f : Issue → Issue) (s : State) : (updIss f s).reuse = s.reuse := rfl
@[simp] theorem updIss_ingress (f : Issue → Issue) (s : State) : (updIss f s).ingress = s.ingress := rfl
@[simp] theorem updIss_egress (f : Issue → Issue) (s : State) : (updIss f s).egress = s.egress := rfl
@[simp] theorem updIss_mgmt (f : Issue → Issue) (s : State) : (updIss f s).mgmt = s.mgmt := rfl
@[simp] theorem updIss_colls (f : Issue → Issue) (s : State) : (updIss f s).colls = s.colls := rfl
@[simp] theorem updIss_ports (f : Issue → Issue) (s : State) : (updIss f s).ports = s.ports := rfl
@[simp] theorem updIss_cxlLen (f : Issue → Issue) (s : State) : (updIss f s).cxlLen = s.cxlLen := rfl
@[simp] theorem updIss_hext (f : Issue → Issue) (s : State) : (updIss f s).hext = s.hext := rfl
@[simp] theorem updIss_time (f : Issue → Issue) (s : State) : (updIss f s).time = s.time := rfl
@[simp] theorem updIss_order (f : Issue → Issue) (s : State) : (updIss f s).order = s.order := rfl
@[simp] theorem updIss_free (f : Issue → Issue) (s : State) : (updIss f s).free = s.free := rfl
@[simp] theorem updIss_inputs (f : Issue → Issue) (s : State) : (updIss f s).inputs = s.inputs := rfl
@[simp] theorem updIss_stop (f : Issue → Issue) (s : State) : (updIss f s).stop = s.stop := rfl

/-! `modCore` -/

@[simp] theorem modCore_hart (c : Nat) (f : Core → Core) (s : State) : (modCore c f s).hart = s.hart := rfl
@[simp] theorem modCore_hn (c : Nat) (f : Core → Core) (s : State) : (modCore c f s).hn = s.hn := rfl
@[simp] theorem modCore_parked (c : Nat) (f : Core → Core) (s : State) : (modCore c f s).parked = s.parked := rfl
@[simp] theorem modCore_mem (c : Nat) (f : Core → Core) (s : State) : (modCore c f s).mem = s.mem := rfl
@[simp] theorem modCore_linePois (c : Nat) (f : Core → Core) (s : State) : (modCore c f s).linePois = s.linePois := rfl
@[simp] theorem modCore_full (c : Nat) (f : Core → Core) (s : State) : (modCore c f s).full = s.full := rfl
@[simp] theorem modCore_far (c : Nat) (f : Core → Core) (s : State) : (modCore c f s).far = s.far := rfl
@[simp] theorem modCore_tiles (c : Nat) (f : Core → Core) (s : State) : (modCore c f s).tiles = s.tiles := rfl
@[simp] theorem modCore_tilePois (c : Nat) (f : Core → Core) (s : State) : (modCore c f s).tilePois = s.tilePois := rfl
@[simp] theorem modCore_tileMode (c : Nat) (f : Core → Core) (s : State) : (modCore c f s).tileMode = s.tileMode := rfl
@[simp] theorem modCore_quads (c : Nat) (f : Core → Core) (s : State) : (modCore c f s).quads = s.quads := rfl
@[simp] theorem modCore_clusters (c : Nat) (f : Core → Core) (s : State) : (modCore c f s).clusters = s.clusters := rfl
@[simp] theorem modCore_queues (c : Nat) (f : Core → Core) (s : State) : (modCore c f s).queues = s.queues := rfl
@[simp] theorem modCore_tasks (c : Nat) (f : Core → Core) (s : State) : (modCore c f s).tasks = s.tasks := rfl
@[simp] theorem modCore_tlb (c : Nat) (f : Core → Core) (s : State) : (modCore c f s).tlb = s.tlb := rfl
@[simp] theorem modCore_deferred (c : Nat) (f : Core → Core) (s : State) : (modCore c f s).deferred = s.deferred := rfl
@[simp] theorem modCore_reuse (c : Nat) (f : Core → Core) (s : State) : (modCore c f s).reuse = s.reuse := rfl
@[simp] theorem modCore_ingress (c : Nat) (f : Core → Core) (s : State) : (modCore c f s).ingress = s.ingress := rfl
@[simp] theorem modCore_egress (c : Nat) (f : Core → Core) (s : State) : (modCore c f s).egress = s.egress := rfl
@[simp] theorem modCore_mgmt (c : Nat) (f : Core → Core) (s : State) : (modCore c f s).mgmt = s.mgmt := rfl
@[simp] theorem modCore_colls (c : Nat) (f : Core → Core) (s : State) : (modCore c f s).colls = s.colls := rfl
@[simp] theorem modCore_ports (c : Nat) (f : Core → Core) (s : State) : (modCore c f s).ports = s.ports := rfl
@[simp] theorem modCore_cxlLen (c : Nat) (f : Core → Core) (s : State) : (modCore c f s).cxlLen = s.cxlLen := rfl
@[simp] theorem modCore_hext (c : Nat) (f : Core → Core) (s : State) : (modCore c f s).hext = s.hext := rfl
@[simp] theorem modCore_time (c : Nat) (f : Core → Core) (s : State) : (modCore c f s).time = s.time := rfl
@[simp] theorem modCore_order (c : Nat) (f : Core → Core) (s : State) : (modCore c f s).order = s.order := rfl
@[simp] theorem modCore_free (c : Nat) (f : Core → Core) (s : State) : (modCore c f s).free = s.free := rfl
@[simp] theorem modCore_inputs (c : Nat) (f : Core → Core) (s : State) : (modCore c f s).inputs = s.inputs := rfl
@[simp] theorem modCore_stop (c : Nat) (f : Core → Core) (s : State) : (modCore c f s).stop = s.stop := rfl

/-! `modCluster` -/

@[simp] theorem modCluster_hart (k : Nat) (f : Cluster → Cluster) (s : State) : (modCluster k f s).hart = s.hart := rfl
@[simp] theorem modCluster_hn (k : Nat) (f : Cluster → Cluster) (s : State) : (modCluster k f s).hn = s.hn := rfl
@[simp] theorem modCluster_parked (k : Nat) (f : Cluster → Cluster) (s : State) : (modCluster k f s).parked = s.parked := rfl
@[simp] theorem modCluster_mem (k : Nat) (f : Cluster → Cluster) (s : State) : (modCluster k f s).mem = s.mem := rfl
@[simp] theorem modCluster_linePois (k : Nat) (f : Cluster → Cluster) (s : State) : (modCluster k f s).linePois = s.linePois := rfl
@[simp] theorem modCluster_full (k : Nat) (f : Cluster → Cluster) (s : State) : (modCluster k f s).full = s.full := rfl
@[simp] theorem modCluster_far (k : Nat) (f : Cluster → Cluster) (s : State) : (modCluster k f s).far = s.far := rfl
@[simp] theorem modCluster_tiles (k : Nat) (f : Cluster → Cluster) (s : State) : (modCluster k f s).tiles = s.tiles := rfl
@[simp] theorem modCluster_tilePois (k : Nat) (f : Cluster → Cluster) (s : State) : (modCluster k f s).tilePois = s.tilePois := rfl
@[simp] theorem modCluster_tileMode (k : Nat) (f : Cluster → Cluster) (s : State) : (modCluster k f s).tileMode = s.tileMode := rfl
@[simp] theorem modCluster_cores (k : Nat) (f : Cluster → Cluster) (s : State) : (modCluster k f s).cores = s.cores := rfl
@[simp] theorem modCluster_quads (k : Nat) (f : Cluster → Cluster) (s : State) : (modCluster k f s).quads = s.quads := rfl
@[simp] theorem modCluster_queues (k : Nat) (f : Cluster → Cluster) (s : State) : (modCluster k f s).queues = s.queues := rfl
@[simp] theorem modCluster_tasks (k : Nat) (f : Cluster → Cluster) (s : State) : (modCluster k f s).tasks = s.tasks := rfl
@[simp] theorem modCluster_tlb (k : Nat) (f : Cluster → Cluster) (s : State) : (modCluster k f s).tlb = s.tlb := rfl
@[simp] theorem modCluster_deferred (k : Nat) (f : Cluster → Cluster) (s : State) : (modCluster k f s).deferred = s.deferred := rfl
@[simp] theorem modCluster_reuse (k : Nat) (f : Cluster → Cluster) (s : State) : (modCluster k f s).reuse = s.reuse := rfl
@[simp] theorem modCluster_ingress (k : Nat) (f : Cluster → Cluster) (s : State) : (modCluster k f s).ingress = s.ingress := rfl
@[simp] theorem modCluster_egress (k : Nat) (f : Cluster → Cluster) (s : State) : (modCluster k f s).egress = s.egress := rfl
@[simp] theorem modCluster_mgmt (k : Nat) (f : Cluster → Cluster) (s : State) : (modCluster k f s).mgmt = s.mgmt := rfl
@[simp] theorem modCluster_colls (k : Nat) (f : Cluster → Cluster) (s : State) : (modCluster k f s).colls = s.colls := rfl
@[simp] theorem modCluster_ports (k : Nat) (f : Cluster → Cluster) (s : State) : (modCluster k f s).ports = s.ports := rfl
@[simp] theorem modCluster_cxlLen (k : Nat) (f : Cluster → Cluster) (s : State) : (modCluster k f s).cxlLen = s.cxlLen := rfl
@[simp] theorem modCluster_hext (k : Nat) (f : Cluster → Cluster) (s : State) : (modCluster k f s).hext = s.hext := rfl
@[simp] theorem modCluster_time (k : Nat) (f : Cluster → Cluster) (s : State) : (modCluster k f s).time = s.time := rfl
@[simp] theorem modCluster_order (k : Nat) (f : Cluster → Cluster) (s : State) : (modCluster k f s).order = s.order := rfl
@[simp] theorem modCluster_free (k : Nat) (f : Cluster → Cluster) (s : State) : (modCluster k f s).free = s.free := rfl
@[simp] theorem modCluster_inputs (k : Nat) (f : Cluster → Cluster) (s : State) : (modCluster k f s).inputs = s.inputs := rfl
@[simp] theorem modCluster_stop (k : Nat) (f : Cluster → Cluster) (s : State) : (modCluster k f s).stop = s.stop := rfl

/-! `modQueue` -/

@[simp] theorem modQueue_hart (q : Nat) (f : Queue → Queue) (s : State) : (modQueue q f s).hart = s.hart := rfl
@[simp] theorem modQueue_hn (q : Nat) (f : Queue → Queue) (s : State) : (modQueue q f s).hn = s.hn := rfl
@[simp] theorem modQueue_parked (q : Nat) (f : Queue → Queue) (s : State) : (modQueue q f s).parked = s.parked := rfl
@[simp] theorem modQueue_mem (q : Nat) (f : Queue → Queue) (s : State) : (modQueue q f s).mem = s.mem := rfl
@[simp] theorem modQueue_linePois (q : Nat) (f : Queue → Queue) (s : State) : (modQueue q f s).linePois = s.linePois := rfl
@[simp] theorem modQueue_full (q : Nat) (f : Queue → Queue) (s : State) : (modQueue q f s).full = s.full := rfl
@[simp] theorem modQueue_far (q : Nat) (f : Queue → Queue) (s : State) : (modQueue q f s).far = s.far := rfl
@[simp] theorem modQueue_tiles (q : Nat) (f : Queue → Queue) (s : State) : (modQueue q f s).tiles = s.tiles := rfl
@[simp] theorem modQueue_tilePois (q : Nat) (f : Queue → Queue) (s : State) : (modQueue q f s).tilePois = s.tilePois := rfl
@[simp] theorem modQueue_tileMode (q : Nat) (f : Queue → Queue) (s : State) : (modQueue q f s).tileMode = s.tileMode := rfl
@[simp] theorem modQueue_cores (q : Nat) (f : Queue → Queue) (s : State) : (modQueue q f s).cores = s.cores := rfl
@[simp] theorem modQueue_quads (q : Nat) (f : Queue → Queue) (s : State) : (modQueue q f s).quads = s.quads := rfl
@[simp] theorem modQueue_clusters (q : Nat) (f : Queue → Queue) (s : State) : (modQueue q f s).clusters = s.clusters := rfl
@[simp] theorem modQueue_tasks (q : Nat) (f : Queue → Queue) (s : State) : (modQueue q f s).tasks = s.tasks := rfl
@[simp] theorem modQueue_tlb (q : Nat) (f : Queue → Queue) (s : State) : (modQueue q f s).tlb = s.tlb := rfl
@[simp] theorem modQueue_deferred (q : Nat) (f : Queue → Queue) (s : State) : (modQueue q f s).deferred = s.deferred := rfl
@[simp] theorem modQueue_reuse (q : Nat) (f : Queue → Queue) (s : State) : (modQueue q f s).reuse = s.reuse := rfl
@[simp] theorem modQueue_ingress (q : Nat) (f : Queue → Queue) (s : State) : (modQueue q f s).ingress = s.ingress := rfl
@[simp] theorem modQueue_egress (q : Nat) (f : Queue → Queue) (s : State) : (modQueue q f s).egress = s.egress := rfl
@[simp] theorem modQueue_mgmt (q : Nat) (f : Queue → Queue) (s : State) : (modQueue q f s).mgmt = s.mgmt := rfl
@[simp] theorem modQueue_colls (q : Nat) (f : Queue → Queue) (s : State) : (modQueue q f s).colls = s.colls := rfl
@[simp] theorem modQueue_ports (q : Nat) (f : Queue → Queue) (s : State) : (modQueue q f s).ports = s.ports := rfl
@[simp] theorem modQueue_cxlLen (q : Nat) (f : Queue → Queue) (s : State) : (modQueue q f s).cxlLen = s.cxlLen := rfl
@[simp] theorem modQueue_hext (q : Nat) (f : Queue → Queue) (s : State) : (modQueue q f s).hext = s.hext := rfl
@[simp] theorem modQueue_time (q : Nat) (f : Queue → Queue) (s : State) : (modQueue q f s).time = s.time := rfl
@[simp] theorem modQueue_order (q : Nat) (f : Queue → Queue) (s : State) : (modQueue q f s).order = s.order := rfl
@[simp] theorem modQueue_free (q : Nat) (f : Queue → Queue) (s : State) : (modQueue q f s).free = s.free := rfl
@[simp] theorem modQueue_inputs (q : Nat) (f : Queue → Queue) (s : State) : (modQueue q f s).inputs = s.inputs := rfl
@[simp] theorem modQueue_stop (q : Nat) (f : Queue → Queue) (s : State) : (modQueue q f s).stop = s.stop := rfl

/-! `modTask` -/

@[simp] theorem modTask_hart (q tid : Nat) (f : Task → Task) (s : State) : (modTask q tid f s).hart = s.hart := rfl
@[simp] theorem modTask_hn (q tid : Nat) (f : Task → Task) (s : State) : (modTask q tid f s).hn = s.hn := rfl
@[simp] theorem modTask_parked (q tid : Nat) (f : Task → Task) (s : State) : (modTask q tid f s).parked = s.parked := rfl
@[simp] theorem modTask_mem (q tid : Nat) (f : Task → Task) (s : State) : (modTask q tid f s).mem = s.mem := rfl
@[simp] theorem modTask_linePois (q tid : Nat) (f : Task → Task) (s : State) : (modTask q tid f s).linePois = s.linePois := rfl
@[simp] theorem modTask_full (q tid : Nat) (f : Task → Task) (s : State) : (modTask q tid f s).full = s.full := rfl
@[simp] theorem modTask_far (q tid : Nat) (f : Task → Task) (s : State) : (modTask q tid f s).far = s.far := rfl
@[simp] theorem modTask_tiles (q tid : Nat) (f : Task → Task) (s : State) : (modTask q tid f s).tiles = s.tiles := rfl
@[simp] theorem modTask_tilePois (q tid : Nat) (f : Task → Task) (s : State) : (modTask q tid f s).tilePois = s.tilePois := rfl
@[simp] theorem modTask_tileMode (q tid : Nat) (f : Task → Task) (s : State) : (modTask q tid f s).tileMode = s.tileMode := rfl
@[simp] theorem modTask_cores (q tid : Nat) (f : Task → Task) (s : State) : (modTask q tid f s).cores = s.cores := rfl
@[simp] theorem modTask_quads (q tid : Nat) (f : Task → Task) (s : State) : (modTask q tid f s).quads = s.quads := rfl
@[simp] theorem modTask_clusters (q tid : Nat) (f : Task → Task) (s : State) : (modTask q tid f s).clusters = s.clusters := rfl
@[simp] theorem modTask_queues (q tid : Nat) (f : Task → Task) (s : State) : (modTask q tid f s).queues = s.queues := rfl
@[simp] theorem modTask_tlb (q tid : Nat) (f : Task → Task) (s : State) : (modTask q tid f s).tlb = s.tlb := rfl
@[simp] theorem modTask_deferred (q tid : Nat) (f : Task → Task) (s : State) : (modTask q tid f s).deferred = s.deferred := rfl
@[simp] theorem modTask_reuse (q tid : Nat) (f : Task → Task) (s : State) : (modTask q tid f s).reuse = s.reuse := rfl
@[simp] theorem modTask_ingress (q tid : Nat) (f : Task → Task) (s : State) : (modTask q tid f s).ingress = s.ingress := rfl
@[simp] theorem modTask_egress (q tid : Nat) (f : Task → Task) (s : State) : (modTask q tid f s).egress = s.egress := rfl
@[simp] theorem modTask_mgmt (q tid : Nat) (f : Task → Task) (s : State) : (modTask q tid f s).mgmt = s.mgmt := rfl
@[simp] theorem modTask_colls (q tid : Nat) (f : Task → Task) (s : State) : (modTask q tid f s).colls = s.colls := rfl
@[simp] theorem modTask_ports (q tid : Nat) (f : Task → Task) (s : State) : (modTask q tid f s).ports = s.ports := rfl
@[simp] theorem modTask_cxlLen (q tid : Nat) (f : Task → Task) (s : State) : (modTask q tid f s).cxlLen = s.cxlLen := rfl
@[simp] theorem modTask_hext (q tid : Nat) (f : Task → Task) (s : State) : (modTask q tid f s).hext = s.hext := rfl
@[simp] theorem modTask_time (q tid : Nat) (f : Task → Task) (s : State) : (modTask q tid f s).time = s.time := rfl
@[simp] theorem modTask_order (q tid : Nat) (f : Task → Task) (s : State) : (modTask q tid f s).order = s.order := rfl
@[simp] theorem modTask_free (q tid : Nat) (f : Task → Task) (s : State) : (modTask q tid f s).free = s.free := rfl
@[simp] theorem modTask_inputs (q tid : Nat) (f : Task → Task) (s : State) : (modTask q tid f s).inputs = s.inputs := rfl
@[simp] theorem modTask_stop (q tid : Nat) (f : Task → Task) (s : State) : (modTask q tid f s).stop = s.stop := rfl

/-! `takeFree` -/

@[simp] theorem takeFree_hart (s : State) : (takeFree s).hart = s.hart := rfl
@[simp] theorem takeFree_hn (s : State) : (takeFree s).hn = s.hn := rfl
@[simp] theorem takeFree_parked (s : State) : (takeFree s).parked = s.parked := rfl
@[simp] theorem takeFree_mem (s : State) : (takeFree s).mem = s.mem := rfl
@[simp] theorem takeFree_linePois (s : State) : (takeFree s).linePois = s.linePois := rfl
@[simp] theorem takeFree_full (s : State) : (takeFree s).full = s.full := rfl
@[simp] theorem takeFree_far (s : State) : (takeFree s).far = s.far := rfl
@[simp] theorem takeFree_tiles (s : State) : (takeFree s).tiles = s.tiles := rfl
@[simp] theorem takeFree_tilePois (s : State) : (takeFree s).tilePois = s.tilePois := rfl
@[simp] theorem takeFree_tileMode (s : State) : (takeFree s).tileMode = s.tileMode := rfl
@[simp] theorem takeFree_cores (s : State) : (takeFree s).cores = s.cores := rfl
@[simp] theorem takeFree_quads (s : State) : (takeFree s).quads = s.quads := rfl
@[simp] theorem takeFree_clusters (s : State) : (takeFree s).clusters = s.clusters := rfl
@[simp] theorem takeFree_queues (s : State) : (takeFree s).queues = s.queues := rfl
@[simp] theorem takeFree_tasks (s : State) : (takeFree s).tasks = s.tasks := rfl
@[simp] theorem takeFree_tlb (s : State) : (takeFree s).tlb = s.tlb := rfl
@[simp] theorem takeFree_deferred (s : State) : (takeFree s).deferred = s.deferred := rfl
@[simp] theorem takeFree_reuse (s : State) : (takeFree s).reuse = s.reuse := rfl
@[simp] theorem takeFree_ingress (s : State) : (takeFree s).ingress = s.ingress := rfl
@[simp] theorem takeFree_egress (s : State) : (takeFree s).egress = s.egress := rfl
@[simp] theorem takeFree_mgmt (s : State) : (takeFree s).mgmt = s.mgmt := rfl
@[simp] theorem takeFree_colls (s : State) : (takeFree s).colls = s.colls := rfl
@[simp] theorem takeFree_ports (s : State) : (takeFree s).ports = s.ports := rfl
@[simp] theorem takeFree_cxlLen (s : State) : (takeFree s).cxlLen = s.cxlLen := rfl
@[simp] theorem takeFree_hext (s : State) : (takeFree s).hext = s.hext := rfl
@[simp] theorem takeFree_time (s : State) : (takeFree s).time = s.time := rfl
@[simp] theorem takeFree_order (s : State) : (takeFree s).order = s.order := rfl
@[simp] theorem takeFree_inputs (s : State) : (takeFree s).inputs = s.inputs := rfl
@[simp] theorem takeFree_stop (s : State) : (takeFree s).stop = s.stop := rfl

/-! `report` -/

@[simp] theorem report_hart (n : Nat) (s : State) : (report n s).hart = s.hart := rfl
@[simp] theorem report_hn (n : Nat) (s : State) : (report n s).hn = s.hn := rfl
@[simp] theorem report_parked (n : Nat) (s : State) : (report n s).parked = s.parked := rfl
@[simp] theorem report_mem (n : Nat) (s : State) : (report n s).mem = s.mem := rfl
@[simp] theorem report_linePois (n : Nat) (s : State) : (report n s).linePois = s.linePois := rfl
@[simp] theorem report_full (n : Nat) (s : State) : (report n s).full = s.full := rfl
@[simp] theorem report_far (n : Nat) (s : State) : (report n s).far = s.far := rfl
@[simp] theorem report_tiles (n : Nat) (s : State) : (report n s).tiles = s.tiles := rfl
@[simp] theorem report_tilePois (n : Nat) (s : State) : (report n s).tilePois = s.tilePois := rfl
@[simp] theorem report_tileMode (n : Nat) (s : State) : (report n s).tileMode = s.tileMode := rfl
@[simp] theorem report_cores (n : Nat) (s : State) : (report n s).cores = s.cores := rfl
@[simp] theorem report_quads (n : Nat) (s : State) : (report n s).quads = s.quads := rfl
@[simp] theorem report_clusters (n : Nat) (s : State) : (report n s).clusters = s.clusters := rfl
@[simp] theorem report_queues (n : Nat) (s : State) : (report n s).queues = s.queues := rfl
@[simp] theorem report_tasks (n : Nat) (s : State) : (report n s).tasks = s.tasks := rfl
@[simp] theorem report_tlb (n : Nat) (s : State) : (report n s).tlb = s.tlb := rfl
@[simp] theorem report_deferred (n : Nat) (s : State) : (report n s).deferred = s.deferred := rfl
@[simp] theorem report_reuse (n : Nat) (s : State) : (report n s).reuse = s.reuse := rfl
@[simp] theorem report_ingress (n : Nat) (s : State) : (report n s).ingress = s.ingress := rfl
@[simp] theorem report_egress (n : Nat) (s : State) : (report n s).egress = s.egress := rfl
@[simp] theorem report_colls (n : Nat) (s : State) : (report n s).colls = s.colls := rfl
@[simp] theorem report_ports (n : Nat) (s : State) : (report n s).ports = s.ports := rfl
@[simp] theorem report_cxlLen (n : Nat) (s : State) : (report n s).cxlLen = s.cxlLen := rfl
@[simp] theorem report_hext (n : Nat) (s : State) : (report n s).hext = s.hext := rfl
@[simp] theorem report_time (n : Nat) (s : State) : (report n s).time = s.time := rfl
@[simp] theorem report_order (n : Nat) (s : State) : (report n s).order = s.order := rfl
@[simp] theorem report_free (n : Nat) (s : State) : (report n s).free = s.free := rfl
@[simp] theorem report_inputs (n : Nat) (s : State) : (report n s).inputs = s.inputs := rfl
@[simp] theorem report_stop (n : Nat) (s : State) : (report n s).stop = s.stop := rfl
@[simp] theorem updH_hart (f : Hart → Hart) (s : State) : (updH f s).hart = f s.hart := rfl
@[simp] theorem modCore_cores (c : Nat) (f : Core → Core) (s : State) : (modCore c f s).cores = Tab.modify {} s.cores c f := rfl
@[simp] theorem takeFree_free (s : State) : (takeFree s).free = s.free + 1 := rfl

/-! `updCv` in the hart -/

@[simp] theorem updCv_hart_status (f : Conv → Conv) (s : State) : (updCv f s).hart.status = s.hart.status := rfl
@[simp] theorem updCv_hart_sregs (f : Conv → Conv) (s : State) : (updCv f s).hart.sregs = s.hart.sregs := rfl
@[simp] theorem updCv_hart_spois (f : Conv → Conv) (s : State) : (updCv f s).hart.spois = s.hart.spois := rfl
@[simp] theorem updCv_hart_vregs (f : Conv → Conv) (s : State) : (updCv f s).hart.vregs = s.hart.vregs := rfl
@[simp] theorem updCv_hart_mregs (f : Conv → Conv) (s : State) : (updCv f s).hart.mregs = s.hart.mregs := rfl
@[simp] theorem updCv_hart_vpois (f : Conv → Conv) (s : State) : (updCv f s).hart.vpois = s.hart.vpois := rfl
@[simp] theorem updCv_hart_mpois (f : Conv → Conv) (s : State) : (updCv f s).hart.mpois = s.hart.mpois := rfl
@[simp] theorem updCv_hart_prog (f : Conv → Conv) (s : State) : (updCv f s).hart.prog = s.hart.prog := rfl
@[simp] theorem updCv_hart_cells (f : Conv → Conv) (s : State) : (updCv f s).hart.cells = s.hart.cells := rfl
@[simp] theorem updCv_hart_pc (f : Conv → Conv) (s : State) : (updCv f s).hart.pc = s.hart.pc := rfl
@[simp] theorem updCv_hart_vl (f : Conv → Conv) (s : State) : (updCv f s).hart.vl = s.hart.vl := rfl
@[simp] theorem updCv_hart_vtype (f : Conv → Conv) (s : State) : (updCv f s).hart.vtype = s.hart.vtype := rfl
@[simp] theorem updCv_hart_vstart (f : Conv → Conv) (s : State) : (updCv f s).hart.vstart = s.hart.vstart := rfl
@[simp] theorem updCv_hart_lanemod (f : Conv → Conv) (s : State) : (updCv f s).hart.lanemod = s.hart.lanemod := rfl
@[simp] theorem updCv_hart_vnreg (f : Conv → Conv) (s : State) : (updCv f s).hart.vnreg = s.hart.vnreg := rfl
@[simp] theorem updCv_hart_req (f : Conv → Conv) (s : State) : (updCv f s).hart.req = s.hart.req := rfl
@[simp] theorem updCv_hart_neg (f : Conv → Conv) (s : State) : (updCv f s).hart.neg = s.hart.neg := rfl
@[simp] theorem updCv_hart_fsidx (f : Conv → Conv) (s : State) : (updCv f s).hart.fsidx = s.hart.fsidx := rfl
@[simp] theorem updCv_hart_fstat (f : Conv → Conv) (s : State) : (updCv f s).hart.fstat = s.hart.fstat := rfl
@[simp] theorem updCv_hart_mshape (f : Conv → Conv) (s : State) : (updCv f s).hart.mshape = s.hart.mshape := rfl
@[simp] theorem updCv_hart_rows (f : Conv → Conv) (s : State) : (updCv f s).hart.rows = s.hart.rows := rfl
@[simp] theorem updCv_hart_acc (f : Conv → Conv) (s : State) : (updCv f s).hart.acc = s.hart.acc := rfl
@[simp] theorem updCv_hart_accPois (f : Conv → Conv) (s : State) : (updCv f s).hart.accPois = s.hart.accPois := rfl
@[simp] theorem updCv_hart_phase (f : Conv → Conv) (s : State) : (updCv f s).hart.phase = s.hart.phase := rfl
@[simp] theorem updCv_hart_gerr (f : Conv → Conv) (s : State) : (updCv f s).hart.gerr = s.hart.gerr := rfl
@[simp] theorem updCv_hart_gerrWord (f : Conv → Conv) (s : State) : (updCv f s).hart.gerrWord = s.hart.gerrWord := rfl
@[simp] theorem updCv_hart_arrived (f : Conv → Conv) (s : State) : (updCv f s).hart.arrived = s.hart.arrived := rfl
@[simp] theorem updCv_hart_arriveErr (f : Conv → Conv) (s : State) : (updCv f s).hart.arriveErr = s.hart.arriveErr := rfl
@[simp] theorem updCv_hart_heldArrivals (f : Conv → Conv) (s : State) : (updCv f s).hart.heldArrivals = s.hart.heldArrivals := rfl
@[simp] theorem updCv_hart_pendArrivals (f : Conv → Conv) (s : State) : (updCv f s).hart.pendArrivals = s.hart.pendArrivals := rfl
@[simp] theorem updCv_hart_joined (f : Conv → Conv) (s : State) : (updCv f s).hart.joined = s.hart.joined := rfl
@[simp] theorem updCv_hart_trem (f : Conv → Conv) (s : State) : (updCv f s).hart.trem = s.hart.trem := rfl
@[simp] theorem updCv_hart_tb (f : Conv → Conv) (s : State) : (updCv f s).hart.tb = s.hart.tb := rfl
@[simp] theorem updCv_hart_tflags (f : Conv → Conv) (s : State) : (updCv f s).hart.tflags = s.hart.tflags := rfl
@[simp] theorem updCv_hart_hstat (f : Conv → Conv) (s : State) : (updCv f s).hart.hstat = s.hart.hstat := rfl
@[simp] theorem updCv_hart_cause (f : Conv → Conv) (s : State) : (updCv f s).hart.cause = s.hart.cause := rfl
@[simp] theorem updCv_hart_epc (f : Conv → Conv) (s : State) : (updCv f s).hart.epc = s.hart.epc := rfl
@[simp] theorem updCv_hart_tval (f : Conv → Conv) (s : State) : (updCv f s).hart.tval = s.hart.tval := rfl
@[simp] theorem updCv_hart_vqpos (f : Conv → Conv) (s : State) : (updCv f s).hart.vqpos = s.hart.vqpos := rfl
@[simp] theorem updCv_hart_tvec (f : Conv → Conv) (s : State) : (updCv f s).hart.tvec = s.hart.tvec := rfl
@[simp] theorem updCv_hart_tscratch (f : Conv → Conv) (s : State) : (updCv f s).hart.tscratch = s.hart.tscratch := rfl
@[simp] theorem updCv_hart_asid (f : Conv → Conv) (s : State) : (updCv f s).hart.asid = s.hart.asid := rfl
@[simp] theorem updCv_hart_ptbase (f : Conv → Conv) (s : State) : (updCv f s).hart.ptbase = s.hart.ptbase := rfl
@[simp] theorem updCv_hart_ring (f : Conv → Conv) (s : State) : (updCv f s).hart.ring = s.hart.ring := rfl
@[simp] theorem updCv_hart_strStat (f : Conv → Conv) (s : State) : (updCv f s).hart.strStat = s.hart.strStat := rfl
@[simp] theorem updCv_hart_bq (f : Conv → Conv) (s : State) : (updCv f s).hart.bq = s.hart.bq := rfl
@[simp] theorem updCv_hart_storeBuf (f : Conv → Conv) (s : State) : (updCv f s).hart.storeBuf = s.hart.storeBuf := rfl
@[simp] theorem updCv_hart_cv (f : Conv → Conv) (s : State) : (updCv f s).hart.cv = f s.hart.cv := rfl
@[simp] theorem updCv_hart_saved (f : Conv → Conv) (s : State) : (updCv f s).hart.saved = s.hart.saved := rfl
@[simp] theorem updCv_hart_vq (f : Conv → Conv) (s : State) : (updCv f s).hart.vq = s.hart.vq := rfl
@[simp] theorem updCv_hart_shadow (f : Conv → Conv) (s : State) : (updCv f s).hart.shadow = s.hart.shadow := rfl
@[simp] theorem updCv_hart_mq (f : Conv → Conv) (s : State) : (updCv f s).hart.mq = s.hart.mq := rfl
@[simp] theorem updCv_hart_smq (f : Conv → Conv) (s : State) : (updCv f s).hart.smq = s.hart.smq := rfl
@[simp] theorem updCv_hart_iss (f : Conv → Conv) (s : State) : (updCv f s).hart.iss = s.hart.iss := rfl
@[simp] theorem updCv_hart_bound (f : Conv → Conv) (s : State) : (updCv f s).hart.bound = s.hart.bound := rfl
@[simp] theorem updCv_hart_takeMask (f : Conv → Conv) (s : State) : (updCv f s).hart.takeMask = s.hart.takeMask := rfl
@[simp] theorem updCv_hart_since (f : Conv → Conv) (s : State) : (updCv f s).hart.since = s.hart.since := rfl
@[simp] theorem updCv_hart_answer (f : Conv → Conv) (s : State) : (updCv f s).hart.answer = s.hart.answer := rfl
@[simp] theorem updCv_hart_waitPhase (f : Conv → Conv) (s : State) : (updCv f s).hart.waitPhase = s.hart.waitPhase := rfl
@[simp] theorem updCv_hart_pend (f : Conv → Conv) (s : State) : (updCv f s).hart.pend = s.hart.pend := rfl
@[simp] theorem updCv_hart_came (f : Conv → Conv) (s : State) : (updCv f s).hart.came = s.hart.came := rfl
@[simp] theorem updCv_hart_fopStop (f : Conv → Conv) (s : State) : (updCv f s).hart.fopStop = s.hart.fopStop := rfl
@[simp] theorem updCv_hart_brkHalt (f : Conv → Conv) (s : State) : (updCv f s).hart.brkHalt = s.hart.brkHalt := rfl
@[simp] theorem updCv_hart_haltReq (f : Conv → Conv) (s : State) : (updCv f s).hart.haltReq = s.hart.haltReq := rfl
@[simp] theorem updCv_hart_vwait (f : Conv → Conv) (s : State) : (updCv f s).hart.vwait = s.hart.vwait := rfl
@[simp] theorem updCv_hart_vanswer (f : Conv → Conv) (s : State) : (updCv f s).hart.vanswer = s.hart.vanswer := rfl
@[simp] theorem updCv_hart_vsince (f : Conv → Conv) (s : State) : (updCv f s).hart.vsince = s.hart.vsince := rfl
@[simp] theorem updCv_hart_ranTask (f : Conv → Conv) (s : State) : (updCv f s).hart.ranTask = s.hart.ranTask := rfl
@[simp] theorem updCv_hart_granted (f : Conv → Conv) (s : State) : (updCv f s).hart.granted = s.hart.granted := rfl
@[simp] theorem updCv_hart_rowsDue (f : Conv → Conv) (s : State) : (updCv f s).hart.rowsDue = s.hart.rowsDue := rfl
@[simp] theorem updCv_hart_cut (f : Conv → Conv) (s : State) : (updCv f s).hart.cut = s.hart.cut := rfl
@[simp] theorem updCv_hart_ahead (f : Conv → Conv) (s : State) : (updCv f s).hart.ahead = s.hart.ahead := rfl
@[simp] theorem updCv_hart_seat (f : Conv → Conv) (s : State) : (updCv f s).hart.seat = s.hart.seat := rfl
@[simp] theorem updCv_hart_writing (f : Conv → Conv) (s : State) : (updCv f s).hart.writing = s.hart.writing := rfl
@[simp] theorem updCv_hart_frozenAt (f : Conv → Conv) (s : State) : (updCv f s).hart.frozenAt = s.hart.frozenAt := rfl
@[simp] theorem updCv_hart_stopFor (f : Conv → Conv) (s : State) : (updCv f s).hart.stopFor = s.hart.stopFor := rfl

/-! `updIss` in the hart -/

@[simp] theorem updIss_hart_status (f : Issue → Issue) (s : State) : (updIss f s).hart.status = s.hart.status := rfl
@[simp] theorem updIss_hart_sregs (f : Issue → Issue) (s : State) : (updIss f s).hart.sregs = s.hart.sregs := rfl
@[simp] theorem updIss_hart_spois (f : Issue → Issue) (s : State) : (updIss f s).hart.spois = s.hart.spois := rfl
@[simp] theorem updIss_hart_vregs (f : Issue → Issue) (s : State) : (updIss f s).hart.vregs = s.hart.vregs := rfl
@[simp] theorem updIss_hart_mregs (f : Issue → Issue) (s : State) : (updIss f s).hart.mregs = s.hart.mregs := rfl
@[simp] theorem updIss_hart_vpois (f : Issue → Issue) (s : State) : (updIss f s).hart.vpois = s.hart.vpois := rfl
@[simp] theorem updIss_hart_mpois (f : Issue → Issue) (s : State) : (updIss f s).hart.mpois = s.hart.mpois := rfl
@[simp] theorem updIss_hart_prog (f : Issue → Issue) (s : State) : (updIss f s).hart.prog = s.hart.prog := rfl
@[simp] theorem updIss_hart_cells (f : Issue → Issue) (s : State) : (updIss f s).hart.cells = s.hart.cells := rfl
@[simp] theorem updIss_hart_pc (f : Issue → Issue) (s : State) : (updIss f s).hart.pc = s.hart.pc := rfl
@[simp] theorem updIss_hart_vl (f : Issue → Issue) (s : State) : (updIss f s).hart.vl = s.hart.vl := rfl
@[simp] theorem updIss_hart_vtype (f : Issue → Issue) (s : State) : (updIss f s).hart.vtype = s.hart.vtype := rfl
@[simp] theorem updIss_hart_vstart (f : Issue → Issue) (s : State) : (updIss f s).hart.vstart = s.hart.vstart := rfl
@[simp] theorem updIss_hart_lanemod (f : Issue → Issue) (s : State) : (updIss f s).hart.lanemod = s.hart.lanemod := rfl
@[simp] theorem updIss_hart_vnreg (f : Issue → Issue) (s : State) : (updIss f s).hart.vnreg = s.hart.vnreg := rfl
@[simp] theorem updIss_hart_req (f : Issue → Issue) (s : State) : (updIss f s).hart.req = s.hart.req := rfl
@[simp] theorem updIss_hart_neg (f : Issue → Issue) (s : State) : (updIss f s).hart.neg = s.hart.neg := rfl
@[simp] theorem updIss_hart_fsidx (f : Issue → Issue) (s : State) : (updIss f s).hart.fsidx = s.hart.fsidx := rfl
@[simp] theorem updIss_hart_fstat (f : Issue → Issue) (s : State) : (updIss f s).hart.fstat = s.hart.fstat := rfl
@[simp] theorem updIss_hart_mshape (f : Issue → Issue) (s : State) : (updIss f s).hart.mshape = s.hart.mshape := rfl
@[simp] theorem updIss_hart_rows (f : Issue → Issue) (s : State) : (updIss f s).hart.rows = s.hart.rows := rfl
@[simp] theorem updIss_hart_acc (f : Issue → Issue) (s : State) : (updIss f s).hart.acc = s.hart.acc := rfl
@[simp] theorem updIss_hart_accPois (f : Issue → Issue) (s : State) : (updIss f s).hart.accPois = s.hart.accPois := rfl
@[simp] theorem updIss_hart_phase (f : Issue → Issue) (s : State) : (updIss f s).hart.phase = s.hart.phase := rfl
@[simp] theorem updIss_hart_gerr (f : Issue → Issue) (s : State) : (updIss f s).hart.gerr = s.hart.gerr := rfl
@[simp] theorem updIss_hart_gerrWord (f : Issue → Issue) (s : State) : (updIss f s).hart.gerrWord = s.hart.gerrWord := rfl
@[simp] theorem updIss_hart_arrived (f : Issue → Issue) (s : State) : (updIss f s).hart.arrived = s.hart.arrived := rfl
@[simp] theorem updIss_hart_arriveErr (f : Issue → Issue) (s : State) : (updIss f s).hart.arriveErr = s.hart.arriveErr := rfl
@[simp] theorem updIss_hart_heldArrivals (f : Issue → Issue) (s : State) : (updIss f s).hart.heldArrivals = s.hart.heldArrivals := rfl
@[simp] theorem updIss_hart_pendArrivals (f : Issue → Issue) (s : State) : (updIss f s).hart.pendArrivals = s.hart.pendArrivals := rfl
@[simp] theorem updIss_hart_joined (f : Issue → Issue) (s : State) : (updIss f s).hart.joined = s.hart.joined := rfl
@[simp] theorem updIss_hart_trem (f : Issue → Issue) (s : State) : (updIss f s).hart.trem = s.hart.trem := rfl
@[simp] theorem updIss_hart_tb (f : Issue → Issue) (s : State) : (updIss f s).hart.tb = s.hart.tb := rfl
@[simp] theorem updIss_hart_tflags (f : Issue → Issue) (s : State) : (updIss f s).hart.tflags = s.hart.tflags := rfl
@[simp] theorem updIss_hart_hstat (f : Issue → Issue) (s : State) : (updIss f s).hart.hstat = s.hart.hstat := rfl
@[simp] theorem updIss_hart_cause (f : Issue → Issue) (s : State) : (updIss f s).hart.cause = s.hart.cause := rfl
@[simp] theorem updIss_hart_epc (f : Issue → Issue) (s : State) : (updIss f s).hart.epc = s.hart.epc := rfl
@[simp] theorem updIss_hart_tval (f : Issue → Issue) (s : State) : (updIss f s).hart.tval = s.hart.tval := rfl
@[simp] theorem updIss_hart_vqpos (f : Issue → Issue) (s : State) : (updIss f s).hart.vqpos = s.hart.vqpos := rfl
@[simp] theorem updIss_hart_tvec (f : Issue → Issue) (s : State) : (updIss f s).hart.tvec = s.hart.tvec := rfl
@[simp] theorem updIss_hart_tscratch (f : Issue → Issue) (s : State) : (updIss f s).hart.tscratch = s.hart.tscratch := rfl
@[simp] theorem updIss_hart_asid (f : Issue → Issue) (s : State) : (updIss f s).hart.asid = s.hart.asid := rfl
@[simp] theorem updIss_hart_ptbase (f : Issue → Issue) (s : State) : (updIss f s).hart.ptbase = s.hart.ptbase := rfl
@[simp] theorem updIss_hart_ring (f : Issue → Issue) (s : State) : (updIss f s).hart.ring = s.hart.ring := rfl
@[simp] theorem updIss_hart_strStat (f : Issue → Issue) (s : State) : (updIss f s).hart.strStat = s.hart.strStat := rfl
@[simp] theorem updIss_hart_bq (f : Issue → Issue) (s : State) : (updIss f s).hart.bq = s.hart.bq := rfl
@[simp] theorem updIss_hart_storeBuf (f : Issue → Issue) (s : State) : (updIss f s).hart.storeBuf = s.hart.storeBuf := rfl
@[simp] theorem updIss_hart_cv (f : Issue → Issue) (s : State) : (updIss f s).hart.cv = s.hart.cv := rfl
@[simp] theorem updIss_hart_saved (f : Issue → Issue) (s : State) : (updIss f s).hart.saved = s.hart.saved := rfl
@[simp] theorem updIss_hart_vq (f : Issue → Issue) (s : State) : (updIss f s).hart.vq = s.hart.vq := rfl
@[simp] theorem updIss_hart_shadow (f : Issue → Issue) (s : State) : (updIss f s).hart.shadow = s.hart.shadow := rfl
@[simp] theorem updIss_hart_mq (f : Issue → Issue) (s : State) : (updIss f s).hart.mq = s.hart.mq := rfl
@[simp] theorem updIss_hart_smq (f : Issue → Issue) (s : State) : (updIss f s).hart.smq = s.hart.smq := rfl
@[simp] theorem updIss_hart_iss (f : Issue → Issue) (s : State) : (updIss f s).hart.iss = f s.hart.iss := rfl
@[simp] theorem updIss_hart_bound (f : Issue → Issue) (s : State) : (updIss f s).hart.bound = s.hart.bound := rfl
@[simp] theorem updIss_hart_takeMask (f : Issue → Issue) (s : State) : (updIss f s).hart.takeMask = s.hart.takeMask := rfl
@[simp] theorem updIss_hart_since (f : Issue → Issue) (s : State) : (updIss f s).hart.since = s.hart.since := rfl
@[simp] theorem updIss_hart_answer (f : Issue → Issue) (s : State) : (updIss f s).hart.answer = s.hart.answer := rfl
@[simp] theorem updIss_hart_waitPhase (f : Issue → Issue) (s : State) : (updIss f s).hart.waitPhase = s.hart.waitPhase := rfl
@[simp] theorem updIss_hart_pend (f : Issue → Issue) (s : State) : (updIss f s).hart.pend = s.hart.pend := rfl
@[simp] theorem updIss_hart_came (f : Issue → Issue) (s : State) : (updIss f s).hart.came = s.hart.came := rfl
@[simp] theorem updIss_hart_fopStop (f : Issue → Issue) (s : State) : (updIss f s).hart.fopStop = s.hart.fopStop := rfl
@[simp] theorem updIss_hart_brkHalt (f : Issue → Issue) (s : State) : (updIss f s).hart.brkHalt = s.hart.brkHalt := rfl
@[simp] theorem updIss_hart_haltReq (f : Issue → Issue) (s : State) : (updIss f s).hart.haltReq = s.hart.haltReq := rfl
@[simp] theorem updIss_hart_vwait (f : Issue → Issue) (s : State) : (updIss f s).hart.vwait = s.hart.vwait := rfl
@[simp] theorem updIss_hart_vanswer (f : Issue → Issue) (s : State) : (updIss f s).hart.vanswer = s.hart.vanswer := rfl
@[simp] theorem updIss_hart_vsince (f : Issue → Issue) (s : State) : (updIss f s).hart.vsince = s.hart.vsince := rfl
@[simp] theorem updIss_hart_ranTask (f : Issue → Issue) (s : State) : (updIss f s).hart.ranTask = s.hart.ranTask := rfl
@[simp] theorem updIss_hart_granted (f : Issue → Issue) (s : State) : (updIss f s).hart.granted = s.hart.granted := rfl
@[simp] theorem updIss_hart_rowsDue (f : Issue → Issue) (s : State) : (updIss f s).hart.rowsDue = s.hart.rowsDue := rfl
@[simp] theorem updIss_hart_cut (f : Issue → Issue) (s : State) : (updIss f s).hart.cut = s.hart.cut := rfl
@[simp] theorem updIss_hart_ahead (f : Issue → Issue) (s : State) : (updIss f s).hart.ahead = s.hart.ahead := rfl
@[simp] theorem updIss_hart_seat (f : Issue → Issue) (s : State) : (updIss f s).hart.seat = s.hart.seat := rfl
@[simp] theorem updIss_hart_writing (f : Issue → Issue) (s : State) : (updIss f s).hart.writing = s.hart.writing := rfl
@[simp] theorem updIss_hart_frozenAt (f : Issue → Issue) (s : State) : (updIss f s).hart.frozenAt = s.hart.frozenAt := rfl
@[simp] theorem updIss_hart_stopFor (f : Issue → Issue) (s : State) : (updIss f s).hart.stopFor = s.hart.stopFor := rfl

/-! `setS` -/

@[simp] theorem setS_hn (r : BitVec 5) (v : Word) (s : State) : (setS r v s).hn = s.hn := by unfold setS; split <;> rfl
@[simp] theorem setS_parked (r : BitVec 5) (v : Word) (s : State) : (setS r v s).parked = s.parked := by unfold setS; split <;> rfl
@[simp] theorem setS_mem (r : BitVec 5) (v : Word) (s : State) : (setS r v s).mem = s.mem := by unfold setS; split <;> rfl
@[simp] theorem setS_linePois (r : BitVec 5) (v : Word) (s : State) : (setS r v s).linePois = s.linePois := by unfold setS; split <;> rfl
@[simp] theorem setS_full (r : BitVec 5) (v : Word) (s : State) : (setS r v s).full = s.full := by unfold setS; split <;> rfl
@[simp] theorem setS_far (r : BitVec 5) (v : Word) (s : State) : (setS r v s).far = s.far := by unfold setS; split <;> rfl
@[simp] theorem setS_tiles (r : BitVec 5) (v : Word) (s : State) : (setS r v s).tiles = s.tiles := by unfold setS; split <;> rfl
@[simp] theorem setS_tilePois (r : BitVec 5) (v : Word) (s : State) : (setS r v s).tilePois = s.tilePois := by unfold setS; split <;> rfl
@[simp] theorem setS_tileMode (r : BitVec 5) (v : Word) (s : State) : (setS r v s).tileMode = s.tileMode := by unfold setS; split <;> rfl
@[simp] theorem setS_cores (r : BitVec 5) (v : Word) (s : State) : (setS r v s).cores = s.cores := by unfold setS; split <;> rfl
@[simp] theorem setS_quads (r : BitVec 5) (v : Word) (s : State) : (setS r v s).quads = s.quads := by unfold setS; split <;> rfl
@[simp] theorem setS_clusters (r : BitVec 5) (v : Word) (s : State) : (setS r v s).clusters = s.clusters := by unfold setS; split <;> rfl
@[simp] theorem setS_queues (r : BitVec 5) (v : Word) (s : State) : (setS r v s).queues = s.queues := by unfold setS; split <;> rfl
@[simp] theorem setS_tasks (r : BitVec 5) (v : Word) (s : State) : (setS r v s).tasks = s.tasks := by unfold setS; split <;> rfl
@[simp] theorem setS_tlb (r : BitVec 5) (v : Word) (s : State) : (setS r v s).tlb = s.tlb := by unfold setS; split <;> rfl
@[simp] theorem setS_deferred (r : BitVec 5) (v : Word) (s : State) : (setS r v s).deferred = s.deferred := by unfold setS; split <;> rfl
@[simp] theorem setS_reuse (r : BitVec 5) (v : Word) (s : State) : (setS r v s).reuse = s.reuse := by unfold setS; split <;> rfl
@[simp] theorem setS_ingress (r : BitVec 5) (v : Word) (s : State) : (setS r v s).ingress = s.ingress := by unfold setS; split <;> rfl
@[simp] theorem setS_egress (r : BitVec 5) (v : Word) (s : State) : (setS r v s).egress = s.egress := by unfold setS; split <;> rfl
@[simp] theorem setS_mgmt (r : BitVec 5) (v : Word) (s : State) : (setS r v s).mgmt = s.mgmt := by unfold setS; split <;> rfl
@[simp] theorem setS_colls (r : BitVec 5) (v : Word) (s : State) : (setS r v s).colls = s.colls := by unfold setS; split <;> rfl
@[simp] theorem setS_ports (r : BitVec 5) (v : Word) (s : State) : (setS r v s).ports = s.ports := by unfold setS; split <;> rfl
@[simp] theorem setS_cxlLen (r : BitVec 5) (v : Word) (s : State) : (setS r v s).cxlLen = s.cxlLen := by unfold setS; split <;> rfl
@[simp] theorem setS_hext (r : BitVec 5) (v : Word) (s : State) : (setS r v s).hext = s.hext := by unfold setS; split <;> rfl
@[simp] theorem setS_time (r : BitVec 5) (v : Word) (s : State) : (setS r v s).time = s.time := by unfold setS; split <;> rfl
@[simp] theorem setS_order (r : BitVec 5) (v : Word) (s : State) : (setS r v s).order = s.order := by unfold setS; split <;> rfl
@[simp] theorem setS_free (r : BitVec 5) (v : Word) (s : State) : (setS r v s).free = s.free := by unfold setS; split <;> rfl
@[simp] theorem setS_inputs (r : BitVec 5) (v : Word) (s : State) : (setS r v s).inputs = s.inputs := by unfold setS; split <;> rfl
@[simp] theorem setS_stop (r : BitVec 5) (v : Word) (s : State) : (setS r v s).stop = s.stop := by unfold setS; split <;> rfl
@[simp] theorem setS_hart_status (r : BitVec 5) (v : Word) (s : State) : (setS r v s).hart.status = s.hart.status := by unfold setS; split <;> rfl
@[simp] theorem setS_hart_vregs (r : BitVec 5) (v : Word) (s : State) : (setS r v s).hart.vregs = s.hart.vregs := by unfold setS; split <;> rfl
@[simp] theorem setS_hart_mregs (r : BitVec 5) (v : Word) (s : State) : (setS r v s).hart.mregs = s.hart.mregs := by unfold setS; split <;> rfl
@[simp] theorem setS_hart_vpois (r : BitVec 5) (v : Word) (s : State) : (setS r v s).hart.vpois = s.hart.vpois := by unfold setS; split <;> rfl
@[simp] theorem setS_hart_mpois (r : BitVec 5) (v : Word) (s : State) : (setS r v s).hart.mpois = s.hart.mpois := by unfold setS; split <;> rfl
@[simp] theorem setS_hart_prog (r : BitVec 5) (v : Word) (s : State) : (setS r v s).hart.prog = s.hart.prog := by unfold setS; split <;> rfl
@[simp] theorem setS_hart_cells (r : BitVec 5) (v : Word) (s : State) : (setS r v s).hart.cells = s.hart.cells := by unfold setS; split <;> rfl
@[simp] theorem setS_hart_pc (r : BitVec 5) (v : Word) (s : State) : (setS r v s).hart.pc = s.hart.pc := by unfold setS; split <;> rfl
@[simp] theorem setS_hart_vl (r : BitVec 5) (v : Word) (s : State) : (setS r v s).hart.vl = s.hart.vl := by unfold setS; split <;> rfl
@[simp] theorem setS_hart_vtype (r : BitVec 5) (v : Word) (s : State) : (setS r v s).hart.vtype = s.hart.vtype := by unfold setS; split <;> rfl
@[simp] theorem setS_hart_vstart (r : BitVec 5) (v : Word) (s : State) : (setS r v s).hart.vstart = s.hart.vstart := by unfold setS; split <;> rfl
@[simp] theorem setS_hart_lanemod (r : BitVec 5) (v : Word) (s : State) : (setS r v s).hart.lanemod = s.hart.lanemod := by unfold setS; split <;> rfl
@[simp] theorem setS_hart_vnreg (r : BitVec 5) (v : Word) (s : State) : (setS r v s).hart.vnreg = s.hart.vnreg := by unfold setS; split <;> rfl
@[simp] theorem setS_hart_req (r : BitVec 5) (v : Word) (s : State) : (setS r v s).hart.req = s.hart.req := by unfold setS; split <;> rfl
@[simp] theorem setS_hart_neg (r : BitVec 5) (v : Word) (s : State) : (setS r v s).hart.neg = s.hart.neg := by unfold setS; split <;> rfl
@[simp] theorem setS_hart_fsidx (r : BitVec 5) (v : Word) (s : State) : (setS r v s).hart.fsidx = s.hart.fsidx := by unfold setS; split <;> rfl
@[simp] theorem setS_hart_fstat (r : BitVec 5) (v : Word) (s : State) : (setS r v s).hart.fstat = s.hart.fstat := by unfold setS; split <;> rfl
@[simp] theorem setS_hart_mshape (r : BitVec 5) (v : Word) (s : State) : (setS r v s).hart.mshape = s.hart.mshape := by unfold setS; split <;> rfl
@[simp] theorem setS_hart_rows (r : BitVec 5) (v : Word) (s : State) : (setS r v s).hart.rows = s.hart.rows := by unfold setS; split <;> rfl
@[simp] theorem setS_hart_acc (r : BitVec 5) (v : Word) (s : State) : (setS r v s).hart.acc = s.hart.acc := by unfold setS; split <;> rfl
@[simp] theorem setS_hart_accPois (r : BitVec 5) (v : Word) (s : State) : (setS r v s).hart.accPois = s.hart.accPois := by unfold setS; split <;> rfl
@[simp] theorem setS_hart_phase (r : BitVec 5) (v : Word) (s : State) : (setS r v s).hart.phase = s.hart.phase := by unfold setS; split <;> rfl
@[simp] theorem setS_hart_gerr (r : BitVec 5) (v : Word) (s : State) : (setS r v s).hart.gerr = s.hart.gerr := by unfold setS; split <;> rfl
@[simp] theorem setS_hart_gerrWord (r : BitVec 5) (v : Word) (s : State) : (setS r v s).hart.gerrWord = s.hart.gerrWord := by unfold setS; split <;> rfl
@[simp] theorem setS_hart_arrived (r : BitVec 5) (v : Word) (s : State) : (setS r v s).hart.arrived = s.hart.arrived := by unfold setS; split <;> rfl
@[simp] theorem setS_hart_arriveErr (r : BitVec 5) (v : Word) (s : State) : (setS r v s).hart.arriveErr = s.hart.arriveErr := by unfold setS; split <;> rfl
@[simp] theorem setS_hart_heldArrivals (r : BitVec 5) (v : Word) (s : State) : (setS r v s).hart.heldArrivals = s.hart.heldArrivals := by unfold setS; split <;> rfl
@[simp] theorem setS_hart_pendArrivals (r : BitVec 5) (v : Word) (s : State) : (setS r v s).hart.pendArrivals = s.hart.pendArrivals := by unfold setS; split <;> rfl
@[simp] theorem setS_hart_joined (r : BitVec 5) (v : Word) (s : State) : (setS r v s).hart.joined = s.hart.joined := by unfold setS; split <;> rfl
@[simp] theorem setS_hart_trem (r : BitVec 5) (v : Word) (s : State) : (setS r v s).hart.trem = s.hart.trem := by unfold setS; split <;> rfl
@[simp] theorem setS_hart_tb (r : BitVec 5) (v : Word) (s : State) : (setS r v s).hart.tb = s.hart.tb := by unfold setS; split <;> rfl
@[simp] theorem setS_hart_tflags (r : BitVec 5) (v : Word) (s : State) : (setS r v s).hart.tflags = s.hart.tflags := by unfold setS; split <;> rfl
@[simp] theorem setS_hart_hstat (r : BitVec 5) (v : Word) (s : State) : (setS r v s).hart.hstat = s.hart.hstat := by unfold setS; split <;> rfl
@[simp] theorem setS_hart_cause (r : BitVec 5) (v : Word) (s : State) : (setS r v s).hart.cause = s.hart.cause := by unfold setS; split <;> rfl
@[simp] theorem setS_hart_epc (r : BitVec 5) (v : Word) (s : State) : (setS r v s).hart.epc = s.hart.epc := by unfold setS; split <;> rfl
@[simp] theorem setS_hart_tval (r : BitVec 5) (v : Word) (s : State) : (setS r v s).hart.tval = s.hart.tval := by unfold setS; split <;> rfl
@[simp] theorem setS_hart_vqpos (r : BitVec 5) (v : Word) (s : State) : (setS r v s).hart.vqpos = s.hart.vqpos := by unfold setS; split <;> rfl
@[simp] theorem setS_hart_tvec (r : BitVec 5) (v : Word) (s : State) : (setS r v s).hart.tvec = s.hart.tvec := by unfold setS; split <;> rfl
@[simp] theorem setS_hart_tscratch (r : BitVec 5) (v : Word) (s : State) : (setS r v s).hart.tscratch = s.hart.tscratch := by unfold setS; split <;> rfl
@[simp] theorem setS_hart_asid (r : BitVec 5) (v : Word) (s : State) : (setS r v s).hart.asid = s.hart.asid := by unfold setS; split <;> rfl
@[simp] theorem setS_hart_ptbase (r : BitVec 5) (v : Word) (s : State) : (setS r v s).hart.ptbase = s.hart.ptbase := by unfold setS; split <;> rfl
@[simp] theorem setS_hart_ring (r : BitVec 5) (v : Word) (s : State) : (setS r v s).hart.ring = s.hart.ring := by unfold setS; split <;> rfl
@[simp] theorem setS_hart_strStat (r : BitVec 5) (v : Word) (s : State) : (setS r v s).hart.strStat = s.hart.strStat := by unfold setS; split <;> rfl
@[simp] theorem setS_hart_bq (r : BitVec 5) (v : Word) (s : State) : (setS r v s).hart.bq = s.hart.bq := by unfold setS; split <;> rfl
@[simp] theorem setS_hart_storeBuf (r : BitVec 5) (v : Word) (s : State) : (setS r v s).hart.storeBuf = s.hart.storeBuf := by unfold setS; split <;> rfl
@[simp] theorem setS_hart_cv (r : BitVec 5) (v : Word) (s : State) : (setS r v s).hart.cv = s.hart.cv := by unfold setS; split <;> rfl
@[simp] theorem setS_hart_saved (r : BitVec 5) (v : Word) (s : State) : (setS r v s).hart.saved = s.hart.saved := by unfold setS; split <;> rfl
@[simp] theorem setS_hart_vq (r : BitVec 5) (v : Word) (s : State) : (setS r v s).hart.vq = s.hart.vq := by unfold setS; split <;> rfl
@[simp] theorem setS_hart_shadow (r : BitVec 5) (v : Word) (s : State) : (setS r v s).hart.shadow = s.hart.shadow := by unfold setS; split <;> rfl
@[simp] theorem setS_hart_mq (r : BitVec 5) (v : Word) (s : State) : (setS r v s).hart.mq = s.hart.mq := by unfold setS; split <;> rfl
@[simp] theorem setS_hart_smq (r : BitVec 5) (v : Word) (s : State) : (setS r v s).hart.smq = s.hart.smq := by unfold setS; split <;> rfl
@[simp] theorem setS_hart_iss (r : BitVec 5) (v : Word) (s : State) : (setS r v s).hart.iss = s.hart.iss := by unfold setS; split <;> rfl
@[simp] theorem setS_hart_bound (r : BitVec 5) (v : Word) (s : State) : (setS r v s).hart.bound = s.hart.bound := by unfold setS; split <;> rfl
@[simp] theorem setS_hart_takeMask (r : BitVec 5) (v : Word) (s : State) : (setS r v s).hart.takeMask = s.hart.takeMask := by unfold setS; split <;> rfl
@[simp] theorem setS_hart_since (r : BitVec 5) (v : Word) (s : State) : (setS r v s).hart.since = s.hart.since := by unfold setS; split <;> rfl
@[simp] theorem setS_hart_answer (r : BitVec 5) (v : Word) (s : State) : (setS r v s).hart.answer = s.hart.answer := by unfold setS; split <;> rfl
@[simp] theorem setS_hart_waitPhase (r : BitVec 5) (v : Word) (s : State) : (setS r v s).hart.waitPhase = s.hart.waitPhase := by unfold setS; split <;> rfl
@[simp] theorem setS_hart_pend (r : BitVec 5) (v : Word) (s : State) : (setS r v s).hart.pend = s.hart.pend := by unfold setS; split <;> rfl
@[simp] theorem setS_hart_came (r : BitVec 5) (v : Word) (s : State) : (setS r v s).hart.came = s.hart.came := by unfold setS; split <;> rfl
@[simp] theorem setS_hart_fopStop (r : BitVec 5) (v : Word) (s : State) : (setS r v s).hart.fopStop = s.hart.fopStop := by unfold setS; split <;> rfl
@[simp] theorem setS_hart_brkHalt (r : BitVec 5) (v : Word) (s : State) : (setS r v s).hart.brkHalt = s.hart.brkHalt := by unfold setS; split <;> rfl
@[simp] theorem setS_hart_haltReq (r : BitVec 5) (v : Word) (s : State) : (setS r v s).hart.haltReq = s.hart.haltReq := by unfold setS; split <;> rfl
@[simp] theorem setS_hart_vwait (r : BitVec 5) (v : Word) (s : State) : (setS r v s).hart.vwait = s.hart.vwait := by unfold setS; split <;> rfl
@[simp] theorem setS_hart_vanswer (r : BitVec 5) (v : Word) (s : State) : (setS r v s).hart.vanswer = s.hart.vanswer := by unfold setS; split <;> rfl
@[simp] theorem setS_hart_vsince (r : BitVec 5) (v : Word) (s : State) : (setS r v s).hart.vsince = s.hart.vsince := by unfold setS; split <;> rfl
@[simp] theorem setS_hart_ranTask (r : BitVec 5) (v : Word) (s : State) : (setS r v s).hart.ranTask = s.hart.ranTask := by unfold setS; split <;> rfl
@[simp] theorem setS_hart_granted (r : BitVec 5) (v : Word) (s : State) : (setS r v s).hart.granted = s.hart.granted := by unfold setS; split <;> rfl
@[simp] theorem setS_hart_rowsDue (r : BitVec 5) (v : Word) (s : State) : (setS r v s).hart.rowsDue = s.hart.rowsDue := by unfold setS; split <;> rfl
@[simp] theorem setS_hart_cut (r : BitVec 5) (v : Word) (s : State) : (setS r v s).hart.cut = s.hart.cut := by unfold setS; split <;> rfl
@[simp] theorem setS_hart_ahead (r : BitVec 5) (v : Word) (s : State) : (setS r v s).hart.ahead = s.hart.ahead := by unfold setS; split <;> rfl
@[simp] theorem setS_hart_seat (r : BitVec 5) (v : Word) (s : State) : (setS r v s).hart.seat = s.hart.seat := by unfold setS; split <;> rfl
@[simp] theorem setS_hart_writing (r : BitVec 5) (v : Word) (s : State) : (setS r v s).hart.writing = s.hart.writing := by unfold setS; split <;> rfl
@[simp] theorem setS_hart_frozenAt (r : BitVec 5) (v : Word) (s : State) : (setS r v s).hart.frozenAt = s.hart.frozenAt := by unfold setS; split <;> rfl
@[simp] theorem setS_hart_stopFor (r : BitVec 5) (v : Word) (s : State) : (setS r v s).hart.stopFor = s.hart.stopFor := by unfold setS; split <;> rfl

end Sys2Proof.Laws
end

