-- ==== Sys2Proof/Laws/Slot.lean ====
section
/-! SUPPORT. Element loops and slots of the vector side: everything that one does (R163, R364). -/

namespace Sys2Proof.Laws

open Sys2Proof.Machine

/-! Writing one element -/

theorem setElem_vregs (v i w x : Nat) (p : Bool) (s : State) :
    (setElem v i w x p s).hart.vregs = setElemOf s.hart.vregs s.hart.vlmax v i w x := by
  unfold setElem updH coverWrite coverBits
  dsimp only
  split <;> rfl

/-- What a loop over elements leaves alone. -/
def LoopOnly (s t : State) : Prop :=
  t = { s with hart := { s.hart with
    vregs := t.hart.vregs, vpois := t.hart.vpois, iss := { s.hart.iss with cover := t.hart.iss.cover } } }

theorem LoopOnly.rfl' (s : State) : LoopOnly s s := rfl

theorem LoopOnly.setElem {s t : State} (h : LoopOnly s t) (v i w x : Nat) (p : Bool) :
    LoopOnly s (Machine.setElem v i w x p t) := by
  unfold LoopOnly at h ⊢
  rw [h]
  unfold Machine.setElem updH coverWrite coverBits
  dsimp only
  split <;> rfl

theorem LoopOnly.vlmax {s t : State} (h : LoopOnly s t) : t.hart.vlmax = s.hart.vlmax := by rw [h]; rfl
theorem LoopOnly.mregs {s t : State} (h : LoopOnly s t) : t.hart.mregs = s.hart.mregs := by rw [h]
theorem LoopOnly.ring {s t : State} (h : LoopOnly s t) : t.hart.ring = s.hart.ring := by rw [h]
theorem LoopOnly.governs {s t : State} (h : LoopOnly s t) (m i : Nat) : governs t m i = governs s m i := by
  unfold Machine.governs maskBit getM; rw [h.mregs]

/-- A loop that has reached element i of group d: it has written val below i where the mask governs, and nothing else. -/
structure Upto (m d w first : Nat) (val : Nat → Nat) (lim : Nat) (s t : State) (i : Nat) : Prop where
  only : LoopOnly s t
  active : ∀ j, first ≤ j → j < i → j < lim → governs s m j = true → elem t d j w = val j % 2 ^ w
  kept : ∀ j, (j < first ∨ i ≤ j ∨ governs s m j = false) → elem t d j w = elem s d j w
  others : ∀ k, (∀ j, first ≤ j → j < i → k ≠ d + j * w / s.hart.vlmax) → getV t k = getV s k

theorem loop_upto (m d w first : Nat) (val : Nat → Nat) (lim : Nat) (op : State → Nat → Nat) (pois : State → Nat → Bool) (s : State)
    (hw : 0 < w) (hwL : w ∣ s.hart.vlmax) (hL : 0 < s.hart.vlmax) (hm : s.hart.vlmax ≤ 65536)
    (hop : ∀ t i, Upto m d w first val lim s t i → first ≤ i → i < lim → op t i = val i) :
    ∀ n i t, first ≤ i → Upto m d w first val lim s t i →
      Upto m d w first val lim s (loop (fun i t => if governs t m i then setElem d i w (op t i) (pois t i) t else t) i n t) (i + n) := by
  intro n
  induction n with
  | zero => intro i t _ h; exact h
  | succ n ih =>
    intro i t hfi h
    simp only [loop]
    rw [show i + (n + 1) = i + 1 + n by omega]
    apply ih (i + 1) _ (by omega)
    rw [h.only.governs]
    split
    · next hg =>
      refine ⟨h.only.setElem _ _ _ _ _, ?_, ?_, ?_⟩
      · intro j hj hji hjl hgj
        unfold elem
        rw [setElem_vregs, (h.only.setElem _ _ _ _ _).vlmax, h.only.vlmax]
        by_cases e : j = i
        · subst e
          rw [elemOf_setElemOf_same _ _ _ _ _ _ hwL hL hm, hop t j h hfi hjl]
        · rw [elemOf_setElemOf_other _ _ _ _ _ _ _ _ hwL hL hm (by
            rcases elem_ne (L := s.hart.vlmax) hw (Ne.symm e) with q | q
            · left; omega
            · right; exact q)]
          have := h.active j hj (by omega) hjl hgj
          unfold elem at this
          rwa [h.only.vlmax] at this
      · intro j hj
        unfold elem
        rw [setElem_vregs, (h.only.setElem _ _ _ _ _).vlmax, h.only.vlmax]
        have e : j ≠ i := by
          rintro rfl
          rcases hj with a | a | a
          · omega
          · omega
          · rw [a] at hg; cases hg
        rw [elemOf_setElemOf_other _ _ _ _ _ _ _ _ hwL hL hm (by
          rcases elem_ne (L := s.hart.vlmax) hw (Ne.symm e) with q | q
          · left; omega
          · right; exact q)]
        have := h.kept j (by rcases hj with a | a | a; exact Or.inl a; exact Or.inr (Or.inl (by omega)); exact Or.inr (Or.inr a))
        unfold elem at this
        rwa [h.only.vlmax] at this
      · intro k hk
        have := h.others k (fun j hf hj => hk j hf (by omega))
        unfold getV at this ⊢
        rw [setElem_vregs, h.only.vlmax, get_setElemOf_other _ _ _ _ _ _ _ (hk i hfi (by omega)), this]
    · next hg =>
      refine ⟨h.only, ?_, ?_, ?_⟩
      · intro j hj hji hjl hgj
        by_cases e : j = i
        · subst e; exact absurd hgj hg
        · exact h.active j hj (by omega) hjl hgj
      · intro j hj
        by_cases e : j = i
        · subst e
          exact h.kept j (Or.inr (Or.inl (Nat.le_refl _)))
        · exact h.kept j (by rcases hj with a | a | a; exact Or.inl a; exact Or.inr (Or.inl (by omega)); exact Or.inr (Or.inr a))
      · intro k hk
        exact h.others k (fun j hf hj => hk j hf (by omega))

/-! A slot from its checks to its end -/

/-- What a slot does before its first element: progress indices and notes of the convoy. -/
structure Pre (s t : State) : Prop where
  only : t = { s with hart := { s.hart with prog := t.hart.prog, iss := t.hart.iss } }
  issuing : Issuing t
  re : t.hart.iss.re = s.hart.iss.re
  cell : t.hart.iss.cell = s.hart.iss.cell
  act : t.hart.iss.act = s.hart.iss.act

theorem Pre.refl {s : State} (h : Issuing s) : Pre s s := ⟨rfl, h, rfl, rfl, rfl⟩

theorem Pre.trans {s t u : State} (h : Pre s t) (g : Pre t u) : Pre s u :=
  ⟨by rw [g.only, h.only], g.issuing, g.re.trans h.re, g.cell.trans h.cell, g.act.trans h.act⟩

theorem pre_note {s : State} (h : Issuing s) (v w mul div : Nat) : Pre s (noteUndo v w mul div s) :=
  ⟨rfl, ⟨h.able, h.group, h.early, h.wait, h.halted, h.mq, h.bound, h.fault, h.sighted⟩, rfl, rfl, rfl⟩

theorem pre_ring {s : State} (h : Issuing s) (vs : List Nat) : Pre s (ringNote vs s) := by
  unfold ringNote
  split
  · exact Pre.refl h
  · split
    · exact ⟨rfl, ⟨h.able, h.group, h.early, h.wait, h.halted, h.mq, h.bound, h.fault, h.sighted⟩, rfl, rfl, rfl⟩
    · exact Pre.refl h

theorem pre_start {s : State} (h : Issuing s) : Pre s (startProgress s) :=
  ⟨rfl, ⟨h.able, h.group, h.early, h.wait, h.halted, h.mq, h.bound, h.fault, h.sighted⟩, rfl, rfl, rfl⟩

theorem pre_noteSlot {s : State} (h : Issuing s) (l : List (Nat × Nat)) : Pre s (noteSlot l s) :=
  ⟨rfl, ⟨h.able, h.group, h.early, h.wait, h.halted, h.mq, h.bound, h.fault, h.sighted⟩, rfl, rfl, rfl⟩

/-- The state in which the effect of a slot begins. -/
def slotStart (l : List (Nat × Nat)) (s : State) : State :=
  startProgress (noteSlot l s)

theorem pre_slotStart {s : State} (h : Issuing s) (l : List (Nat × Nat)) : Pre s (slotStart l s) :=
  (pre_noteSlot h l).trans (pre_start (pre_noteSlot h l).issuing)

section
variable {s t : State} (h : Pre s t)
include h
theorem Pre.vlmax : t.hart.vlmax = s.hart.vlmax := by rw [h.only]; rfl
theorem Pre.sew : t.hart.sew = s.hart.sew := by rw [h.only]; rfl
theorem Pre.grp : t.hart.grp = s.hart.grp := by rw [h.only]; rfl
theorem Pre.maxVl : t.hart.maxVl = s.hart.maxVl := by rw [h.only]; rfl
theorem Pre.vl : vlN t = vlN s := by rw [h.only]; rfl
theorem Pre.vregs : t.hart.vregs = s.hart.vregs := by rw [h.only]
theorem Pre.mregs : t.hart.mregs = s.hart.mregs := by rw [h.only]
theorem Pre.ring : t.hart.ring = s.hart.ring := by rw [h.only]
theorem Pre.stop : t.stop = s.stop := by rw [h.only]
theorem Pre.elem (v i w : Nat) : Machine.elem t v i w = Machine.elem s v i w := by
  unfold Machine.elem; rw [h.vregs, h.vlmax]
theorem Pre.getV (v : Nat) : Machine.getV t v = Machine.getV s v := by unfold Machine.getV; rw [h.vregs]
theorem Pre.getM (v : Nat) : Machine.getM t v = Machine.getM s v := by unfold Machine.getM; rw [h.mregs]
theorem Pre.maskBit (v i : Nat) : Machine.maskBit t v i = Machine.maskBit s v i := by unfold Machine.maskBit; rw [h.getM]
theorem Pre.governs (m i : Nat) : Machine.governs t m i = Machine.governs s m i := by
  unfold Machine.governs; rw [h.maskBit]
theorem Pre.extent (w : Nat) : Machine.extent t w = Machine.extent s w := by unfold Machine.extent; rw [h.grp, h.sew]
theorem Pre.overlapOk (d wd v wv : Nat) : Machine.overlapOk t d wd v wv = Machine.overlapOk s d wd v wv := by
  unfold Machine.overlapOk; rw [h.extent, h.extent]
theorem Pre.ringSrc (v : Nat) : Machine.ringSrc t v = Machine.ringSrc s v := by unfold Machine.ringSrc; rw [h.ring]
theorem Pre.srcElem (v i w : Nat) : Machine.srcElem t v i w = Machine.srcElem s v i w := by
  unfold Machine.srcElem; rw [h.ringSrc, h.elem]
theorem Pre.firstElem : Machine.firstElem t = Machine.firstElem s := by
  unfold Machine.firstElem; rw [h.re, h.cell, show t.hart.vstart = s.hart.vstart by rw [h.only]]
theorem Pre.cap0 : Machine.cap0 t = Machine.cap0 s := by unfold Machine.cap0; rw [h.act]
theorem Pre.cap1 : Machine.cap1 t = Machine.cap1 s := by unfold Machine.cap1; rw [h.act]
theorem Pre.cap2 : Machine.cap2 t = Machine.cap2 s := by unfold Machine.cap2; rw [h.act]
end

/-- A slot whose checks pass runs its effect and finishes. -/
theorem runSlot_ok {k : SlotKind} {chk : State → Option (Nat × Word)} {dest : State → List (Nat × Nat)}
    {act : State → State} {s : State} (h : Issuing s) (hc : chk s = none)
    (hd : ∀ d ∈ dest s, ∀ e ∈ s.hart.iss.dests, overlaps d.1 d.2 e.1 e.2 = false) :
    runSlot k chk dest act s = finishSlot k (act (slotStart (dest s) s)) := by
  have hany : ((dest s).any (fun d => s.hart.iss.dests.any (fun e => overlaps d.1 d.2 e.1 e.2))) = false := by
    rw [List.any_eq_false]
    intro d hdm
    rw [Bool.not_eq_true, List.any_eq_false]
    intro e he
    rw [hd d hdm e he]
    decide
  unfold runSlot
  simp only [h.early, h.sighted, h.wait, h.halted, h.mq, h.bound, Option.isSome_none, Bool.or_self, Bool.false_eq_true, if_false,
    hc, hany, Bool.false_and, slotStart]

/-- A slot whose check at issue fails records the trap. -/
theorem runSlot_trap {k : SlotKind} {chk : State → Option (Nat × Word)} {dest : State → List (Nat × Nat)}
    {act : State → State} {s : State} {c : Nat} {tv : Word} (h : Issuing s) (hc : chk s = some (c, tv)) :
    runSlot k chk dest act s = slotEarly c tv s := by
  unfold runSlot
  simp only [h.early, h.sighted, Option.isSome_none, Bool.or_self, Bool.false_eq_true, if_false, hc]

/-- A slot that no fault has stopped is complete, and `vstart` is zero but after one that no elements count. -/
theorem finishSlot_ok {k : SlotKind} {t : State} (h : Issuing t) :
    finishSlot k t = updH (fun g => { g with
      vstart := if k = .other then g.vstart else 0
      iss := { g.iss with
        cells := Tab.set 0 g.iss.cells g.iss.act.slot (fullPrefix k t)
        done := g.iss.done ++ [g.iss.act.slot] } }) t := by
  simp [finishSlot, updH, h.early, h.wait, h.halted, h.mq, h.bound, h.fault]

/-- The same of an element-wise slot. -/
theorem finishSlot_elem {t : State} (h : Issuing t) :
    finishSlot .elem t = updH (fun g => { g with
      vstart := 0, iss := { g.iss with
        cells := Tab.set 0 g.iss.cells g.iss.act.slot (vlN t), done := g.iss.done ++ [g.iss.act.slot] } }) t := by
  rw [finishSlot_ok h]
  rfl

/-- Everything that a loop of element writes does. -/
theorem mapElems_upto {m d w : Nat} {val : Nat → Nat} {lim : Nat} {op : State → Nat → Nat} {pois : State → Nat → Bool} {s : State}
    (h : Issuing s) (hw : 0 < w) (hwL : w ∣ s.hart.vlmax) (hL : 0 < s.hart.vlmax) (hm : s.hart.vlmax ≤ 65536)
    (hop : ∀ t i, Upto m d w (firstElem s) val lim (noteUndo d w 1 1 s) t i → firstElem s ≤ i → i < lim → op t i = val i) :
    Upto m d w (firstElem s) val lim (noteUndo d w 1 1 s) (mapElems m d w op pois s)
      (firstElem s + (vlN s - firstElem s)) := by
  have hb : limit s (vlN s) = vlN s := by unfold limit; rw [h.bound]; rfl
  unfold mapElems overElems
  rw [hb]
  exact loop_upto m d w (firstElem s) val lim op _ (noteUndo d w 1 1 s) hw hwL hL hm hop _ _ _ (Nat.le_refl _)
    ⟨rfl, fun j _ _ => by omega, fun _ _ => rfl, fun _ _ => rfl⟩

theorem Upto.issuing {m d w first : Nat} {val : Nat → Nat} {lim : Nat} {s t : State} {i : Nat}
    (h : Upto m d w first val lim s t i) (g : Issuing s) : Issuing t := by
  have e := h.only
  unfold LoopOnly at e
  refine ⟨?_, ?_, ?_, ?_, ?_, ?_, ?_, ?_, ?_⟩ <;> rw [e]
  · exact g.able
  · exact g.group
  · exact g.early
  · exact g.wait
  · exact g.halted
  · exact g.mq
  · exact g.bound
  · exact g.fault
  · exact g.sighted

/-- An element-wise slot from its checks to its end (R163, R364). -/
theorem elemSlot {chk : State → Option (Nat × Word)} {dest : State → List (Nat × Nat)} {act : State → State}
    {m d w : Nat} {val : Nat → Nat} {op : State → Nat → Nat} {pois : State → Nat → Bool} {vs : List Nat} {s : State}
    (h : Issuing s) (hc : chk s = none)
    (hd : ∀ d ∈ dest s, ∀ e ∈ s.hart.iss.dests, overlaps d.1 d.2 e.1 e.2 = false)
    (hact : act (slotStart (dest s) s) = mapElems m d w op pois (ringNote vs (slotStart (dest s) s)))
    (hw : 0 < w) (hwL : w ∣ s.hart.vlmax) (hL : 0 < s.hart.vlmax) (hm : s.hart.vlmax ≤ 65536)
    (hop : ∀ s0 t i, Pre s s0 → Upto m d w (firstElem s) val s.hart.maxVl s0 t i → firstElem s ≤ i → i < s.hart.maxVl →
      op t i = val i) :
    WroteGroup m d w val s (runSlot .elem chk dest act s) := by
  rw [runSlot_ok h hc hd, hact]
  have p0 := pre_slotStart h (dest s)
  have p1 := p0.trans (pre_ring p0.issuing vs)
  set u := ringNote vs (slotStart (dest s) s) with hu
  have p2 := p1.trans (pre_note p1.issuing d w 1 1)
  have key := mapElems_upto (m := m) (d := d) (w := w) (val := val) (lim := s.hart.maxVl) (op := op) (pois := pois)
    p1.issuing hw (by rwa [p1.vlmax]) (by rwa [p1.vlmax]) (by rwa [p1.vlmax])
    (by
      intro t i ht hfi hi
      rw [p1.firstElem] at ht hfi
      exact hop _ t i p2 ht hfi hi)
  rw [p1.firstElem, p1.vl] at key
  have hiss := key.issuing p2.issuing
  set t := mapElems m d w op pois u
  rw [finishSlot_elem hiss]
  have ho := key.only
  unfold LoopOnly at ho
  have hv : t.hart.vlmax = s.hart.vlmax := by rw [key.only.vlmax, p2.vlmax]
  refine ⟨?_, ⟨hiss.able, hiss.group, hiss.early, hiss.wait, hiss.halted, hiss.mq, hiss.bound, hiss.fault, hiss.sighted⟩, rfl, ?_, ?_, ?_⟩
  · unfold VecOnly
    have h1 : t = { s with hart := { s.hart with
        vregs := t.hart.vregs, vpois := t.hart.vpois, prog := t.hart.prog, iss := t.hart.iss } } := by
      conv_lhs => rw [ho, p2.only]
      rw [ho, p2.only]
    unfold updH
    dsimp only
    generalize vlN t = n
    conv_lhs => rw [h1]
  · intro i hfi hvl hmax hg
    have := key.active i hfi (by omega) hmax (by rwa [p2.governs])
    exact this
  · intro i hi
    have := key.kept i (by
      rcases hi with a | a | a
      · exact Or.inl a
      · by_cases hf : i < firstElem s
        · exact Or.inl hf
        · exact Or.inr (Or.inl (by omega))
      · exact Or.inr (Or.inr (by rwa [p2.governs])))
    rw [p2.elem] at this
    exact this
  · intro k hk
    have := key.others k (fun j hf hj => by
      rw [p2.vlmax]
      exact hk j (by omega))
    rw [p2.getV] at this
    exact this

/-! Sources of an element-wise slot -/

/-- The width of an element of a supported `vtype`, and the groups that it goes with (R112). -/
theorem vtype_cases {s : State} (h : vtypeOk s.hart.vtype.toNat = true) :
    (s.hart.plane = false ∧ (s.hart.sew = 8 ∨ s.hart.sew = 16 ∨ s.hart.sew = 32 ∨ s.hart.sew = 64) ∧
      (s.hart.grp = 1 ∨ s.hart.grp = 2 ∨ s.hart.grp = 4 ∨ s.hart.grp = 8)) ∨
    (s.hart.plane = true ∧ s.hart.sew = 1 ∧ s.hart.grp = 1) := by
  unfold vtypeOk at h
  unfold Hart.plane Hart.sew Hart.grp Hart.ewCode wfld
  have e4 : fld s.hart.vtype.toNat 3 2 < 4 := Nat.mod_lt _ (by decide)
  generalize fld s.hart.vtype.toNat 0 3 = ew at *
  generalize fld s.hart.vtype.toNat 3 2 = gr at *
  dsimp only at h
  split at h
  · next hlt =>
    left
    have : ew = 0 ∨ ew = 1 ∨ ew = 2 ∨ ew = 3 := by omega
    have g4 : gr = 0 ∨ gr = 1 ∨ gr = 2 ∨ gr = 3 := by omega
    rcases this with rfl | rfl | rfl | rfl <;> rcases g4 with rfl | rfl | rfl | rfl <;> simp [ewBits]
  · right
    rw [decide_eq_true_eq] at h
    obtain ⟨rfl, h2⟩ := h
    rw [h2]
    simp [ewBits]

theorem maxVl_eq {s : State} (h : vtypeOk s.hart.vtype.toNat = true) :
    s.hart.maxVl = s.hart.grp * s.hart.vlmax / s.hart.sew := by
  rcases vtype_cases h with ⟨hp, -, -⟩ | ⟨hp, h1, h2⟩
  · unfold Hart.plane Hart.ewCode wfld at hp
    rw [decide_eq_false_iff_not] at hp
    unfold Hart.maxVl maxVl Hart.grp Hart.sew Hart.ewCode wfld
    rw [if_neg hp]
  · unfold Hart.plane Hart.ewCode wfld at hp
    rw [decide_eq_true_eq] at hp
    rw [h1, h2]
    unfold Hart.maxVl maxVl
    rw [if_pos hp]; simp

/-- VLMAX is a power of two of at most 65,536 (R106). -/
theorem vlmax_pow {h : Hart} (hL : 64 ≤ h.vlmax) : 64 ∣ h.vlmax ∧ h.vlmax ≤ 65536 := by
  unfold Hart.vlmax vlmaxOf at *
  split at hL
  · omega
  · split
    · next a b => exact absurd b a
    · refine ⟨?_, Nat.min_le_left _ _⟩
      rename_i ha hb
      unfold pow2Floor at *
      split at hL
      · exact absurd hL (by simp)
      · next hz =>
        rw [if_neg hz] 
        generalize log2 _ = k at *
        change 64 ≤ min 65536 (2 ^ k) at hL
        change 64 ∣ min 65536 (2 ^ k)
        rcases Nat.le_total (2 ^ k) 65536 with hk | hk
        · rw [Nat.min_eq_right hk] at hL ⊢
          have : 6 ≤ k := by
            by_contra hc
            have : 2 ^ k ≤ 2 ^ 5 := Nat.pow_le_pow_right (by decide) (by omega)
            omega
          obtain ⟨j, rfl⟩ := Nat.exists_eq_add_of_le this
          rw [Nat.pow_add]
          exact Nat.dvd_mul_right _ _
        · rw [Nat.min_eq_left hk]
          decide

/-- An element below the largest `vl` lies in its group's registers (R112, R215). -/
theorem elem_in_group {s : State} {i w : Nat} (hv : vtypeOk s.hart.vtype.toNat = true) (hL : 0 < s.hart.vlmax)
    (hw : s.hart.sew ∣ s.hart.grp * w ∨ s.hart.grp * w < s.hart.sew) (hi : i < s.hart.maxVl) :
    i * w / s.hart.vlmax < extent s w := by
  rw [maxVl_eq hv] at hi
  have hsew : 0 < s.hart.sew := by rcases vtype_cases hv with ⟨-, h | h | h | h, -⟩ | ⟨-, h, -⟩ <;> rw [h] <;> decide
  have h1 : (i + 1) * s.hart.sew ≤ s.hart.grp * s.hart.vlmax := (Nat.le_div_iff_mul_le hsew).1 hi
  unfold extent
  generalize s.hart.vlmax = L at *
  generalize s.hart.sew = e at *
  generalize s.hart.grp = g at *
  have hq : i * w / L * L ≤ i * w := Nat.div_mul_le_self _ _
  generalize i * w / L = q at *
  by_cases hw0 : w = 0
  · subst hw0
    rw [Nat.mul_zero] at hq
    have : q = 0 := by rcases Nat.mul_eq_zero.1 (Nat.le_zero.1 hq) with h | h; exact h; omega
    rw [this]; omega
  have h2 : q * e < g * w := by
    have a1 : q * L * e ≤ i * w * e := Nat.mul_le_mul_right e hq
    have a2 : i * e < g * L := by nlinarith
    have a3 : i * e * w < g * L * w := Nat.mul_lt_mul_of_pos_right a2 (Nat.pos_of_ne_zero hw0)
    have a4 : q * e * L < g * w * L := by
      calc q * e * L = q * L * e := by ring
        _ ≤ i * w * e := a1
        _ = i * e * w := by ring
        _ < g * L * w := a3
        _ = g * w * L := by ring
    exact Nat.lt_of_mul_lt_mul_right a4
  rcases hw with hd | hlt
  · obtain ⟨c, hc⟩ := hd
    rw [hc, Nat.mul_div_cancel_left _ hsew]
    have : q < c := by rw [hc, Nat.mul_comm q e] at h2; exact Nat.lt_of_mul_lt_mul_left h2
    omega
  · have : q = 0 := by
      by_contra hc
      have : e ≤ q * e := Nat.le_mul_of_pos_left _ (Nat.pos_of_ne_zero hc)
      omega
    omega

/-- A source that lies apart from the destination, or is the destination itself, still reads as at the start (R233). -/
theorem Upto.src {m d w first : Nat} {val : Nat → Nat} {s s0 t : State} {i v wv : Nat}
    (p : Pre s s0) (h : Upto m d w first val s.hart.maxVl s0 t i) (hi : i < s.hart.maxVl)
    (hv : vtypeOk s.hart.vtype.toNat = true) (hL : 0 < s.hart.vlmax)
    (hw : s.hart.sew ∣ s.hart.grp * w ∨ s.hart.grp * w < s.hart.sew)
    (hwv : s.hart.sew ∣ s.hart.grp * wv ∨ s.hart.grp * wv < s.hart.sew)
    (ho : overlapOk s d w (ringSrc s v) wv = true) : srcElem t v i wv = srcElem s v i wv := by
  have hr : ringSrc t v = ringSrc s v := by unfold ringSrc; rw [h.only.ring, p.ring]
  unfold srcElem
  rw [hr]
  generalize ringSrc s v = r at *
  unfold overlapOk at ho
  rw [Bool.or_eq_true] at ho
  rcases ho with ho | ho
  · have h2 : Machine.getV t (r + i * wv / s.hart.vlmax) = Machine.getV s (r + i * wv / s.hart.vlmax) := by
      rw [h.others _ (fun j _ hj => ?_), p.getV]
      rw [p.vlmax]
      have b1 := elem_in_group (w := wv) hv hL hwv hi
      have b2 := elem_in_group (i := j) (w := w) hv hL hw (by omega)
      unfold overlaps at ho
      simp only [Bool.not_eq_true', decide_eq_false_iff_not, not_and_or, not_lt] at ho
      generalize j * w / s.hart.vlmax = x at *
      generalize i * wv / s.hart.vlmax = y at *
      generalize extent s w = ew at *
      generalize extent s wv = ev at *
      omega
    unfold elem elemOf
    unfold Machine.getV at h2
    rw [h.only.vlmax, p.vlmax, h2]
  · rw [Bool.and_eq_true] at ho
    have e1 : d = r := of_decide_eq_true ho.1
    have e2 : w = wv := of_decide_eq_true ho.2
    subst e1 e2
    rw [h.kept i (Or.inr (Or.inl (Nat.le_refl _))), p.elem]

end Sys2Proof.Laws
end

