-- ==== Sys2Proof/Laws/Trap.lean ====
section
/-! SUPPORT. What taking an exception does (R182, R404), and what a meaning answers. -/

namespace Sys2Proof.Laws

open Sys2Proof.Machine

theorem done_next {t : State} (h : t.stop = none) : done t = .next t := by unfold done; rw [h]

theorem done_eq_next {s t : State} (h : done s = .next t) : t = s ∧ s.stop = none := by
  unfold done at h
  split at h
  · next hs => cases h; exact ⟨rfl, hs⟩
  · cases h

theorem done_not_refused (s : State) (r : Refusal) : done s ≠ .refused r := by
  unfold done
  split <;> exact fun h => nomatch h

/-- A slot whose registers carry no mark reads them. -/
theorem reads_clean {s : State} {rs : List (BitVec 5)} (h : Clean s rs) (f : State → State) : reads rs f s = f s := by
  unfold reads
  rw [List.find?_eq_none.2 (fun x hx => by simp [h x hx])]

theorem wbit_setBit_same (w : Word) (i : Nat) (b : Bool) (h : i < 64) : wbit (setBit w i b) i = b := by
  have e : ∀ v : Word, wbit v i = v.getLsbD i := by
    intro v
    unfold wbit nbit
    rw [BitVec.getLsbD, Nat.testBit_eq_decide_div_mod_eq]
  have p : (BitVec.ofNat 64 (2 ^ i)).getLsbD i = true := by
    rw [BitVec.getLsbD_ofNat]
    simp [h, Nat.testBit_two_pow_self]
  rw [e]
  unfold setBit
  split
  · next hb => rw [BitVec.getLsbD_or, p, Bool.or_true, hb]
  · next hb => rw [BitVec.getLsbD_and, BitVec.getLsbD_not, p]; simp [hb]

theorem wbit_setBit_other (w : Word) (i j : Nat) (b : Bool) (h : i ≠ j) : wbit (setBit w i b) j = wbit w j := by
  by_cases hj : j < 64
  · have e : ∀ v : Word, wbit v j = v.getLsbD j := by
      intro v
      unfold wbit nbit
      rw [BitVec.getLsbD, Nat.testBit_eq_decide_div_mod_eq]
    have p : (BitVec.ofNat 64 (2 ^ i)).getLsbD j = false := by
      rw [BitVec.getLsbD_ofNat]
      simp [Nat.testBit_two_pow, h]
    rw [e, e]
    unfold setBit
    split
    · rw [BitVec.getLsbD_or, p, Bool.or_false]
    · rw [BitVec.getLsbD_and, BitVec.getLsbD_not, p]; simp [hj]
  · have z : ∀ v : Word, wbit v j = false := by
      intro v
      unfold wbit nbit
      have : v.toNat < 2 ^ j := Nat.lt_of_lt_of_le v.isLt (Nat.pow_le_pow_right (by decide) (by omega))
      rw [Nat.div_eq_of_lt this]
      rfl
    rw [z, z]

theorem setProgress_only (e : VqEntry) (h : Hart) :
    setProgress e h = { h with prog := (setProgress e h).prog, cells := (setProgress e h).cells } := by
  unfold setProgress
  generalize e.acts = as
  induction as generalizing h with
  | nil => rfl
  | cons a as ih =>
    simp only [List.foldl_cons]
    split
    · rw [ih]
    · split
      · rw [ih]
      · rw [ih]

/-- The hart with other stopped convoys, frozen at time z. -/
def withStopped (c : Conv) (b v : List VqEntry) (p x : Tab Nat) (z : Nat) (s : State) : State :=
  { s with hart := { s.hart with saved := c, shadow := b, vq := v, prog := p, cells := x, frozenAt := z } }

theorem freezeAt_only (k : Nat) (h : Hart) : ∃ z, freezeAt k h = { h with frozenAt := z } := by
  unfold freezeAt
  split
  · exact ⟨k, rfl⟩
  · exact ⟨h.frozenAt, rfl⟩

theorem setLanes_stopped (m : Nat) (c : Conv) (b v : List VqEntry) (p x : Tab Nat) (z : Nat) (h : Hart) :
    ∃ q, setLanes m { h with saved := c, shadow := b, vq := v, prog := p, cells := x, frozenAt := z }
      = { setLanes m h with saved := c, shadow := b, vq := v, prog := q, cells := x, frozenAt := z } := by
  by_cases k : h.lanemod = m ∧ h.vlmax = vlmaxOf m h.vnreg
  · refine ⟨p, ?_⟩
    have e1 : setLanes m h = h := if_pos k
    rw [e1]
    exact if_pos k
  · refine ⟨[], ?_⟩
    have e1 : setLanes m h = clearVectors { h with lanemod := m } := if_neg k
    rw [e1]
    exact if_neg k

theorem releaseGroups_stopped (n : Nat) (c : Conv) (b v : List VqEntry) (p x : Tab Nat) (z : Nat) (s : State) :
    releaseGroups n (withStopped c b v p x z s) = withStopped c b v p x z (releaseGroups n s) := by
  have e (l : List Nat) (s : State) : l.foldl (fun t g => setOwner (coreOf n) g 0 t) (withStopped c b v p x z s)
      = withStopped c b v p x z (l.foldl (fun t g => setOwner (coreOf n) g 0 t) s) := by
    induction l generalizing s with
    | nil => rfl
    | cons g l ih => exact ih (setOwner (coreOf n) g 0 s)
  exact e (ownedList s n) s

theorem releaseGroups_hart (n : Nat) (s : State) : (releaseGroups n s).hart = s.hart := by
  unfold releaseGroups
  generalize ownedList s n = l
  induction l generalizing s with
  | nil => rfl
  | cons g l ih => exact ih (setOwner (coreOf n) g 0 s)

theorem dropNeg_stopped (c : Conv) (b v : List VqEntry) (p x : Tab Nat) (z : Nat) (s : State) :
    ∃ q, dropNeg (withStopped c b v p x z s) = withStopped c b v q x z (dropNeg s) := by
  unfold dropNeg
  by_cases h : s.hart.neg.isSome = true
  · rw [if_pos h, if_pos (show (withStopped c b v p x z s).hart.neg.isSome = true from h)]
    by_cases k : lanesOwned s s.hn < 4
    · rw [if_pos k, if_pos (show lanesOwned (withStopped c b v p x z s) (withStopped c b v p x z s).hn < 4 from k)]
      obtain ⟨q, hq⟩ := setLanes_stopped 0 c b v p x z s.hart
      refine ⟨q, ?_⟩
      show updH _ (releaseGroups s.hn (withStopped c b v p x z s)) = _
      rw [releaseGroups_stopped]
      show ({ releaseGroups s.hn s with
        hart := { setLanes 0 (withStopped c b v p x z (releaseGroups s.hn s)).hart with neg := none } } : State) = _
      rw [show (withStopped c b v p x z (releaseGroups s.hn s)).hart
        = { s.hart with saved := c, shadow := b, vq := v, prog := p, cells := x, frozenAt := z } by
          unfold withStopped; rw [releaseGroups_hart], hq]
      unfold withStopped updH
      rw [releaseGroups_hart]
    · rw [if_neg k, if_neg (show ¬ lanesOwned (withStopped c b v p x z s) (withStopped c b v p x z s).hn < 4 from k)]
      obtain ⟨q, hq⟩ := setLanes_stopped (lanesOwned s s.hn) c b v p x z s.hart
      refine ⟨q, ?_⟩
      show ({ s with hart := { setLanes (lanesOwned s s.hn) (withStopped c b v p x z s).hart with neg := none } } : State) = _
      rw [show (withStopped c b v p x z s).hart
        = { s.hart with saved := c, shadow := b, vq := v, prog := p, cells := x, frozenAt := z } from rfl, hq]
      rfl
  · rw [if_neg h, if_neg (show ¬ (withStopped c b v p x z s).hart.neg.isSome = true from h)]
    exact ⟨p, rfl⟩

theorem quitDisplace_stopped (c : Conv) (b v : List VqEntry) (p x : Tab Nat) (z : Nat) (s : State) :
    quitDisplace (withStopped c b v p x z s) = withStopped c b v p x z (quitDisplace s) := by
  unfold quitDisplace
  simp only [apply_ite (withStopped c b v p x z)]
  rfl

theorem dropGrant_stopped (c : Conv) (b v : List VqEntry) (p x : Tab Nat) (z : Nat) (s : State) :
    dropGrant (withStopped c b v p x z s) = withStopped c b v p x z (dropGrant s) := by
  unfold dropGrant
  by_cases h : s.hart.granted = true
  · rw [if_pos h, if_pos (show (withStopped c b v p x z s).hart.granted = true from h)]
    rfl
  · rw [if_neg h, if_neg (show ¬ (withStopped c b v p x z s).hart.granted = true from h)]

theorem dropReserved_stopped (c : Conv) (b v : List VqEntry) (p x : Tab Nat) (z : Nat) (s : State) :
    dropReserved (withStopped c b v p x z s) = withStopped c b v p x z (dropReserved s) := by
  unfold dropReserved
  simp only [apply_ite (withStopped c b v p x z)]
  rfl

/-- What a trap gives up does not depend on the stopped convoys. -/
theorem dropHeld_stopped (c : Conv) (b v : List VqEntry) (p x : Tab Nat) (z : Nat) (s : State) :
    ∃ q, dropHeld (withStopped c b v p x z s) = withStopped c b v q x z (dropHeld s) := by
  obtain ⟨q, hq⟩ := dropNeg_stopped c b v p x z (quitDisplace s)
  exact ⟨q, by unfold dropHeld; rw [quitDisplace_stopped, hq, dropGrant_stopped, dropReserved_stopped]⟩

/-- What the handler's entry does, given the state after the queues have been put away. -/
theorem enterHandler_hart (c v e : Word) (s : State) (h : c ≠ word cPurity) :
    ∃ z, enterHandler c v e s = updH (fun h =>
      { h with
        cause := c, tval := v, epc := e
        hstat := setBit (hstatTrap h.hstat) 7 (h.vres || !h.shadow.isEmpty)
        pc := h.tvec &&& 0xFFFFFFFFFFFFFFF0
        cv := {}, iss := {}, neg := none, smq := h.smq ++ h.mq.map (MqEntry.under h), mq := [], answer := none
        vwait := none, vanswer := none
        status := .running, frozenAt := z }) (dropHeld s) := by
  obtain ⟨z, hz⟩ := freezeAt_only s.order (dropHeld s).hart
  refine ⟨z, ?_⟩
  unfold enterHandler
  rw [if_neg h]
  unfold updH
  dsimp only
  rw [hz]
  rfl

/-- The bits of `hstat` at the handler's entry (R182). -/
theorem hstat_enters (w : Word) (v : Bool) :
    wbit (setBit (hstatTrap w) 7 v) 4 = wbit w 2 ∧ wbit (setBit (hstatTrap w) 7 v) 3 = wbit w 0
      ∧ wbit (setBit (hstatTrap w) 7 v) 2 = false ∧ wbit (setBit (hstatTrap w) 7 v) 0 = true := by
  unfold hstatTrap
  refine ⟨?_, ?_, ?_, ?_⟩
  · rw [wbit_setBit_other _ _ _ _ (by decide), wbit_setBit_other _ _ _ _ (by decide), wbit_setBit_other _ _ _ _ (by decide),
      wbit_setBit_other _ _ _ _ (by decide), wbit_setBit_same _ _ _ (by decide)]
  · rw [wbit_setBit_other _ _ _ _ (by decide), wbit_setBit_other _ _ _ _ (by decide), wbit_setBit_other _ _ _ _ (by decide),
      wbit_setBit_same _ _ _ (by decide)]
  · rw [wbit_setBit_other _ _ _ _ (by decide), wbit_setBit_other _ _ _ _ (by decide), wbit_setBit_same _ _ _ (by decide)]
  · rw [wbit_setBit_other _ _ _ _ (by decide), wbit_setBit_same _ _ _ (by decide)]

/-- Putting the unretired convoys away changes what withStopped changes. -/
theorem toShadow_stopped (s : State) :
    ∃ b v p x z, toShadow (updH (fun h => { h with saved := h.cv }) s) = withStopped s.hart.cv b v p x z s := by
  cases hq : s.hart.vq with
  | nil =>
    exact ⟨s.hart.shadow, [], s.hart.prog, s.hart.cells, s.hart.frozenAt, by
      simp only [updH, toShadow, hq]; rw [withStopped, ← hq]⟩
  | cons e es =>
    obtain ⟨z, hz⟩ := freezeAt_only s.order { s.hart with saved := s.hart.cv, vq := e :: es }
    let h := setProgress e
      { s.hart with saved := s.hart.cv, frozenAt := z, shadow := unreserve e :: es.map unreserve, vq := [] }
    exact ⟨unreserve e :: es.map unreserve, [], h.prog, h.cells, z, by
      dsimp only at hz
      simp only [updH, toShadow, hq]
      rw [hz, setProgress_only e]
      rfl⟩

/-- What the hart holds after a trap that gives up nothing but convoys. -/
theorem dropHeld_calm {s : State} (hn : s.hart.neg = none) (hg : s.hart.granted = false) : (dropHeld s).hart = s.hart := by
  have h0 : (quitDisplace s).hart = s.hart := by
    unfold quitDisplace
    dsimp only
    split <;> rfl
  unfold dropHeld
  rw [show dropNeg (quitDisplace s) = quitDisplace s by unfold dropNeg; rw [h0, hn]; rfl,
    show dropGrant (quitDisplace s) = quitDisplace s by unfold dropGrant; rw [h0, hg]; rfl, ← h0]
  unfold dropReserved
  dsimp only
  split <;> rfl

/-- Two harts agree in what a trap reads before it gives anything up. -/
structure SameTrap (g h : Hart) : Prop where
  tvec : g.tvec = h.tvec
  hstat : g.hstat = h.hstat
  smq : g.smq = h.smq
  mq : g.mq = h.mq
  here : g.here = h.here

theorem SameTrap.trans {f g h : Hart} (x : SameTrap f g) (y : SameTrap g h) : SameTrap f h :=
  ⟨x.tvec.trans y.tvec, x.hstat.trans y.hstat, x.smq.trans y.smq, x.mq.trans y.mq, x.here.trans y.here⟩

/-- The fields of the hart that a trap reads before it gives anything up. -/
theorem dropHeld_kept (s : State) : SameTrap (dropHeld s).hart s.hart := by
  have hl (m : Nat) (h : Hart) : SameTrap { setLanes m h with neg := none } h := by
    unfold setLanes
    dsimp only
    split <;> exact ⟨rfl, rfl, rfl, rfl, rfl⟩
  have h0 : SameTrap (quitDisplace s).hart s.hart := by
    unfold quitDisplace
    dsimp only
    split <;> exact ⟨rfl, rfl, rfl, rfl, rfl⟩
  have h1 (u : State) : SameTrap (dropNeg u).hart u.hart := by
    unfold dropNeg
    split
    · split
      · show SameTrap { setLanes 0 (releaseGroups u.hn u).hart with neg := none } u.hart
        rw [releaseGroups_hart]
        exact hl _ _
      · exact hl _ _
    · exact ⟨rfl, rfl, rfl, rfl, rfl⟩
  have h2 (u : State) : SameTrap (dropGrant u).hart u.hart := by
    unfold dropGrant
    split <;> exact ⟨rfl, rfl, rfl, rfl, rfl⟩
  have h3 (u : State) : (dropReserved u).hart = u.hart := by
    unfold dropReserved
    dsimp only
    split <;> rfl
  unfold dropHeld
  rw [h3]
  exact (h2 _).trans ((h1 _).trans h0)

theorem under_congr {g h : Hart} (x : g.here = h.here) : MqEntry.under g = MqEntry.under h := by
  funext e
  unfold MqEntry.under
  rw [x]

/-- The handler's entry with the convoys put away: the trap that names s as the state before it. -/
theorem enters_stopped (c v e : Word) (k : Conv) (b w : List VqEntry) (p x : Tab Nat) (z : Nat) (pos : Word → Word) (s : State)
    (hc : c ≠ word cPurity) (hk : k = s.hart.cv ∨ k = {}) :
    EntersHandler c v e s (updH (fun h => { h with vqpos := pos h.vqpos }) (enterHandler c v e (withStopped k b w p x z s))) ∧
      (enterHandler c v e (withStopped k b w p x z s)).hart.shadow = b ∧
      (enterHandler c v e (withStopped k b w p x z s)).hart.vq = w := by
  obtain ⟨y, hy⟩ := enterHandler_hart c v e (withStopped k b w p x z s) hc
  obtain ⟨q, hd⟩ := dropHeld_stopped k b w p x z s
  have kept := dropHeld_kept s
  have hb (y : Bool) := hstat_enters s.hart.hstat y
  have hu : (dropHeld s).hart.mq.map (MqEntry.under (withStopped k b w q x z (dropHeld s)).hart)
      = s.hart.mq.map (MqEntry.under s.hart) := by
    rw [kept.mq]
    exact congrArg (fun f => s.hart.mq.map f) (under_congr kept.here)
  rw [hy, hd]
  refine ⟨⟨rfl, rfl, rfl, ?_, ?_, ?_, ?_, ?_, rfl, hk, ?_, ?_⟩, rfl, rfl⟩
  · show (dropHeld s).hart.tvec &&& _ = _
    rw [kept.tvec]
  · show wbit (setBit (hstatTrap (dropHeld s).hart.hstat) 7 _) 4 = wbit s.hart.hstat 2
    rw [kept.hstat]
    exact (hb _).1
  · show wbit (setBit (hstatTrap (dropHeld s).hart.hstat) 7 _) 3 = wbit s.hart.hstat 0
    rw [kept.hstat]
    exact (hb _).2.1
  · show wbit (setBit (hstatTrap (dropHeld s).hart.hstat) 7 _) 2 = false
    rw [kept.hstat]
    exact (hb _).2.2.1
  · show wbit (setBit (hstatTrap (dropHeld s).hart.hstat) 7 _) 0 = true
    rw [kept.hstat]
    exact (hb _).2.2.2
  · intro hn hg
    have hh := dropHeld_calm hn hg
    have e2 : (withStopped k b w q x z (dropHeld s)).hart.smq
        ++ (withStopped k b w q x z (dropHeld s)).hart.mq.map (MqEntry.under (withStopped k b w q x z (dropHeld s)).hart)
        = s.hart.smq ++ s.hart.mq.map (MqEntry.under s.hart) := by
      show (dropHeld s).hart.smq ++ _ = _
      rw [kept.smq]
      exact congrArg _ hu
    simp only [updH]
    rw [e2]
    simp only [withStopped, hh, hn]
  · have e2 : (withStopped k b w q x z (dropHeld s)).hart.smq
        ++ (withStopped k b w q x z (dropHeld s)).hart.mq.map (MqEntry.under (withStopped k b w q x z (dropHeld s)).hart)
        = s.hart.smq ++ s.hart.mq.map (MqEntry.under s.hart) := by
      show (dropHeld s).hart.smq ++ _ = _
      rw [kept.smq]
      exact congrArg _ hu
    simp only [updH]
    rw [e2]
    simp only [withStopped]

/-- A trap of the scalar side enters the handler (R404). -/
theorem scalarTrap_enters (c v e : Word) (s : State) (h : TrapRoom s) (hc : c ≠ word cPurity) :
    EntersHandler c v e s (scalarTrap c v e s) := by
  have hroom : ¬((!s.hart.shadow.isEmpty && !s.hart.vq.isEmpty) = true) := by
    rcases h with h | h <;> simp [h]
  obtain ⟨b, vq, p, x, z, hs⟩ := toShadow_stopped s
  unfold scalarTrap
  rw [if_neg hroom, hs]
  exact (enters_stopped c v e s.hart.cv b vq p x z (fun w => setBit w 7 false) s hc (.inl rfl)).1

/-- A trap of the vector side enters the handler, and the convoys go to the shadow VQ (R404, R405). -/
theorem vectorTrap_enters (c : Nat) (v e : Word) (head : VqEntry) (young : List VqEntry) (s : State)
    (h : s.hart.shadow = []) (hc : word c ≠ word cPurity) :
    EntersHandler (word c) v e s (vectorTrap c v e head young s) ∧
      (vectorTrap c v e head young s).hart.shadow = unreserve head :: young.map unreserve ∧
      (vectorTrap c v e head young s).hart.vq = [] := by
  obtain ⟨z, hz⟩ := freezeAt_only s.order s.hart
  have hs : updH (fun h => { freezeAt s.order h with shadow := unreserve head :: young.map unreserve, vq := [], saved := h.cv }) s
    = withStopped s.hart.cv (unreserve head :: young.map unreserve) [] s.hart.prog s.hart.cells z s := by
    unfold updH withStopped
    dsimp only
    rw [hz]
  unfold vectorTrap
  rw [if_neg (by simp [h]), hs]
  exact enters_stopped (word c) v e s.hart.cv _ [] s.hart.prog s.hart.cells z (fun _ => word (128 + young.length % 32)) s hc (.inl rfl)

/-- A trap of the slot in hand. -/
theorem trap_enters (c : Nat) (v : Word) (s : State) (h : TrapRoom s) (hc : word c ≠ word cPurity) :
    EntersHandler (word c) v (epcHere s) s (trap c v s) := scalarTrap_enters _ _ _ _ h hc

end Sys2Proof.Laws
end

