-- ==== Sys2Proof/Tests/Slice0.lean ====
section
/-! SUPPORT. The model's own tests: terms that the checks refuse, words of the spec's encodings, values of its worked
examples, and for each statement states that meet its hypotheses. -/

set_option Elab.async false

namespace Sys2Proof.Tests

open Sys2Proof.Machine

/-! Well-formedness: one term that each check refuses, with its field at the first value outside the range -/

theorem test_wf_fields :
    [Instr.tlbInv 1 2 11, .amoAdd 1 2 3 11 0 0, .amoAnd 1 2 3 11 0 0, .amoOr 1 2 3 11 0 0, .amoXor 1 2 3 11 0 0,
      .amoSwap 1 2 3 11 0 0, .amoMin 1 2 3 11 0 0, .amoMax 1 2 3 11 0 0, .amoCas 1 2 3 11 0 0, .ctlRd 1 0x00D, .ctlWr 1 0x012,
      .ctlSet 1 0x047, .ctlClr 1 0x0F3, .vdeclBuf 0 8 1, .vdeclBuf 8 8 1, .fence 0 6, .fence 3 11, .drain 5,
      .pcwait 1 2 3 11, .collSend 1 2 13, .collRecv 1 2 13, .collRed 1 2 13, .vcmpF 6 1 2 3 0 0, .vcmpI 6 1 2 3 0,
      .vcmpN 6 1 2 3 0, .vbmm 1 2 3 0 3 0, .vbmv 1 2 3 0 3 0].all (fun i => !i.wf) = true := by decide +kernel

theorem test_wf_widths :
    [Instr.vld 1 2 0 4, .vlds 1 2 3 0 5, .vldx 1 2 3 0 6, .vldff 1 2 0 4, .vst 1 2 0 4, .vsts 1 2 3 0 5, .vstx 1 2 3 0 6,
      .vstxu 1 2 3 0 4, .vstu 1 2 0 5, .mmac 0 4 9 0 0, .mmacs 0 4 9 1 0, .mmacs 0 4 8 0 0].all (fun i => !i.wf) = true := by
  decide +kernel

/-- A flit of too few bytes. -/
def shortFlit (t : BitVec 8) : Flit :=
  { seq := 0, ack := 0, type := t, cid := 0, src := 0, dst := 0, tile := 0, round := 0, nblk := 0, wg := 0, ncon := 0
    payload := [], crc := 0 }

/-- The head of a message. -/
def noHead : MsgHead := { seq := 0, ack := 0, tag := 0 }

theorem test_wf_events :
    [Instr.interruptTake 1280, .storeBufferDrain 1280, .sliceRequest (.read (2 ^ 50)), .sliceRequest (.write 127 [0, 0]),
      .sliceRequest (.evict (2 ^ 43)), .sliceRequest (.poison (2 ^ 43)), .writePerform (2 ^ 50) [], .futLdApply 1280 0 0 0,
      .futLdApply 0 (2 ^ 50) 0 0, .futStApply (2 ^ 50) 0, .futClrApply (2 ^ 50), .futCancel 1280, .tableWalk 1280 0,
      .combiningEntryRetire 160, .streamRetire 160 0, .streamRetire 0 16, .streamHeadland 160 0, .streamHeadland 0 16,
      .exchangeStart 1280, .barrierArrival 1280, .laneGroupTake 1280, .reclaimTimeout 1280, .contextResume 1280,
      .taskDispatch 10, .taskCompletion 640 0, .reuseLookup 640, .boundLaunch 256, .ringRefill 640, .mattachGrant 40,
      .fopComplete 160 0, .fopMoreStop 0 16, .fopFault 160 0, .fabricDrainTimeout 0 16].all (fun i => !i.wf) = true := by
  decide +kernel

theorem test_wf_outside :
    [Instr.collectiveRoundSend 2 0, .collectiveRoundSend 0 32, .reducerForward 2 0, .reducerForward 0 32,
      .roundFlit 0 (shortFlit 1), .exponentsFlit 0 (shortFlit 2), .endFlit 0 (shortFlit 3), .cancelFlit 0 (shortFlit 4),
      .replayRequest 0 (shortFlit 5), .replayLimit 16, .retrainTimeout 16, .ingressRaise 256 0, .egressPop 256,
      .lfaultClear 256, .skip 256, .gangWordWrite 10 0 0, .gangWordWrite 0 128 0, .qctlResume 640, .displace 10 0, .hold 10 0,
      .resume 10 0, .free 10 0, .adopt 10 0, .registerWrite (2 ^ 50) 0, .debugHalt noHead 1280, .debugRelease noHead 1280,
      .haltOnBreak noHead 1280 true, .start noHead [0, 1280] 0, .attest noHead [], .ringSetup noHead 0 0 1,
      .place noHead 0 0 65536 0 0, .eventReport 256, .laneRetire 160 0, .laneRetire 0 64, .coreRetire 160, .droppedFlit 16 (shortFlit 1),
      .portRetrained 16, .waitSpuriousEnd 1280, .otherTypeMessage noHead 8].all (fun i => !i.wf) = true := by decide +kernel

/-! Decoding: words that the spec prints, by the file that prints them -/

/-- Each word decodes to its instruction. -/
noncomputable def decodesTo (l : List (BitVec 32 × Instr)) : Bool :=
  l.all (fun x => decide (Sys2Proof.decode x.1 = .ok x.2))

/-- spec/08_encoding.md and spec/09_scalar_instructions.md. -/
theorem test_decode_scalar :
    decodesTo [(0xBC820038, .vld 8 4 0 7), (0x9D021400, .vfmacc 16 8 20 0 0), (0x10840400, .addi 4 4 1024), (0x54860000, .bne 4 6 0),
      (0x00000000, .nop), (0x10C00001, .addi 6 0 1), (0x4CA43314, .amoSwap 5 4 6 6 1 0), (0x54A00000, .bne 5 0 0),
      (0x3C044000, .stWRl 0 4 0)] = true := by decide +kernel

/-- spec/10_task_sync_instructions.md and spec/11_vector_memory_instructions.md. -/
theorem test_decode_memory :
    decodesTo [(0x7CE43009, .futSt 7 4 6), (0x78A63800, .vsetvl 5 6 7), (0x79800112, .vsetvli 12 0 0x12), (0x78A63A00, .gsetvl 5 6 7),
      (0x78000402, .vdecl 2), (0x78001D41, .vdeclBuf 3 16 1), (0xBC428013, .vldff 4 5 0 2), (0xD0821830, .vamoAdd 8 4 12 0 1 0),
      (0x80A63800, .strLd 5 6 7 0 0 0), (0x80A63830, .strLd 5 6 7 1 1 0), (0x81050004, .strWait 8 5)] = true := by decide +kernel

/-- spec/12_vector_arithmetic_instructions.md and spec/13_program_exp2.md. -/
theorem test_decode_vector :
    decodesTo [(0x88810400, .vaddVv 8 4 4 0),
      (0x8C810C00, .vaddVx 8 4 6 0), (0x90413FD0, .vaddVi 4 4 255 2), (0xAA210600, .vcmpI 4 2 4 6 0),
      (0xB1020104, .vredsumTF 16 8 0 1), (0x7CA00004, .stripGrant 5 0), (0x58A00005, .blt 5 0 5), (0xBC430010, .vld 4 6 0 2),
      (0xA0811501, .vfmax 8 4 21 0 0), (0xA0921400, .vfmin 9 8 20 0 0), (0xA4A24400, .vfround 10 9 0 0), (0x78000403, .vdecl 3),
      (0xAD400C03, .vbcast 20 12 0), (0x681FFFFC, .jal 0 0x1FFFFC), (0x98B24A01, .vfsub 11 9 10 0 0), (0xA4C28304, .vfcvt 12 10 0 1),
      (0xA4D2C500, .vfexp2f 13 11 0 0), (0xA4910401, .vcmpF 1 1 4 4 0 0), (0xA0E34C0B, .vfscale 14 13 12 0 2),
      (0x98F10420, .vfadd 15 4 4 1 0), (0xAD03CE27, .vmerge 16 15 14 1), (0xC1038010, .vst 16 7 0 2), (0x7C0F0002, .taskDone 0 15)]
      = true := by decide +kernel

/-- spec/14_bitplane_matrix_instructions.md, spec/15_fabric_opcodes.md, spec/16_program_intersection.md and
spec/17_collectives.md. -/
theorem test_decode_units :
    decodesTo [(0xB5001203, .vbmac 16 0 9 0), (0xD5110040, .mmac 1 4 16 0 1), (0xD4110601, .mmacs 0 4 16 3 0), (0xD4000002, .mzero 0 0),
      (0xD4180003, .mst 0 6 0), (0xD4180004, .mld 0 6 0), (0xD4000008, .mattach), (0xD4000009, .mdetach), (0xDCA60030, .fbind 5 6 3),
      (0xDC000031, .funbind 3), (0xDC000032, .fdrain 3), (0xDDAC0050, .fbind 13 12 5), (0xBCC49212, .vldx 12 9 9 0 2),
      (0x79F07000, .vsetvl 15 16 14), (0xAD400005, .vmvs 20 0 0), (0x74114000, .ctlWr 17 0), (0xD9481050, .fop 5 8 4 5 0),
      (0xACE50004, .vmvx 14 20 0), (0x90920FC2, .vandVi 9 8 63 0), (0x39CB4000, .stW 14 11 0), (0x90A20186, .vsrlVi 10 8 6 0),
      (0x84A60040, .collSend 5 6 8), (0x84A60041, .collRecv 5 6 8), (0x84A60042, .collRed 5 6 8), (0x84A60003, .collCancel 5 6),
      (0x84E60004, .collStat 7 6)] = true := by decide +kernel

/-- Every word of the statement about written words, and every word that it says is none. -/
theorem test_decode_printed : decodesTo Claims.printedWords = true := by decide +kernel
theorem test_decode_other : Claims.otherWords.all (fun w => match Sys2Proof.decode w with | .ok _ => false | .error _ => true) = true := by
  decide +kernel

/-! Small machines -/

/-- Hart 0 of a machine that is otherwise as after reset. -/
def machine (h : Hart) : State := { State.reset with hart := h }

/-- The next state; the state itself where there is none. -/
noncomputable def after (i : Instr) (s : State) : State :=
  match exec i s with
  | .next t => t
  | _ => s

/-- Byte k of the local window (R23). -/
def win (k : Nat) : Word := word (0xFFFFFFFF80000 + k)

/-- A running hart in supervisor mode with these scalar registers. -/
def scalar (rs : Tab Word) : Hart := { status := .running, sregs := rs }

/-- Elements of w bits, lowest first, as the bits of a register. -/
def elemsOf (w : Nat) : List Nat → Nat
  | [] => 0
  | x :: xs => x % 2 ^ w + 2 ^ w * elemsOf w xs

/-- A hart that issues a vector slot: VLMAX 2,048 bits with 64 registers, `vtype`, `vl`, the captured values and vector
registers. -/
def vector (ty : Word) (n : BitVec 17) (c0 c1 c2 : Word) (vs : Tab VReg) : Hart :=
  { status := .running, lanemod := 4, vnreg := 64, vtype := ty, vl := n, vregs := vs
    iss := { group := true, act := { c0 := c0, c1 := c1, c2 := c2 } } }

/-- Elements 0 to n - 1 of register v after i. -/
noncomputable def got (i : Instr) (h : Hart) (v w n : Nat) : List Nat :=
  (List.range n).map (fun k => elem (after i (machine h)) v k w)

/-! Values of the spec's worked examples -/

/-- R168's table: 7 and -2, -7 and 2. -/
theorem test_division :
    (let s := machine (scalar [(1, 7), (2, wordI (-2)), (3, wordI (-7)), (4, 2)])
     getS (after (.div 5 1 2) s) 5 = wordI (-3) ∧ getS (after (.rem 5 1 2) s) 5 = 1 ∧
       getS (after (.divn 5 3 4) s) 5 = 0x7FFFFFFFFFFFFFFC ∧ getS (after (.rem 5 3 4) s) 5 = wordI (-1)) := by decide +kernel

/-- R164: a source that is also the destination, and a write to s0. -/
theorem test_scalar_writes :
    (let s := machine (scalar [(1, 7), (2, 5)])
     getS (after (.sub 1 1 2) s) 1 = 2 ∧ getS (after (.mulhn 2 2 2) s) 2 = 0 ∧ after (.add 0 1 2) s = s ∧
       getS (after (.addi 2 2 0xFFFF) s) 2 = 4 ∧ getS (after (.ldhi 2 0xC348) s) 2 = 0xC3480000 ∧
       getS (after (.bswap 2 2) s) 2 = 0x0500000000000000) := by decide +kernel

/-- R175 and R178: a taken branch, one not taken, and the queue of conditions. -/
theorem test_branches :
    (let s := machine { scalar [(4, 1), (6, 2)] with pc := 0x100, cv := { live := true, npc := 0x110 }, bq := [(true, 0)] }
     (after (.bne 4 6 0) s).hart.cv.npc = 0x100 ∧ (after (.beq 4 6 0) s).hart.cv.npc = 0x110 ∧
       (after (.bne 4 6 0xFFFF) s).hart.cv.npc = 0xF0 ∧ (after (.bq 1) s).hart.cv.npc = 0x110 + 0 * 16 ∧
       (after (.bq 1) s).hart.bq = []) := by decide +kernel

/-- The walk of spec/02_main_memory.md, and the home slice of spec/03_slices_network.md. -/
def walkMem : State :=
  (putMem 0x400008 8 0x410101 ∘ putMem 0x410118 8 0x420001 ∘ putMem 0x420028 8 0x440001 ∘ putMem 0x440150 8 0x123456000F)
    (machine { scalar [] with ptbase := 0x400000 })
theorem test_walk :
    check walkMem 0x46028552345 1 (needLoad 1) = .ok (.pa 0x1234572345) 0 false ∧ homeOf 0x1234572345 = 86 := by decide +kernel

/-- R106: the example of spec/06_state.md; R112: L of spec/11_vector_memory_instructions.md. -/
theorem test_lengths :
    vlmaxOf 7 32 = 4096 ∧ vlmaxOf 8 32 = 8192 ∧ maxVl 4096 0b01001 = 512 ∧ vlmaxOf 16 32 = 16384 := by decide +kernel

/-- R109: the example of spec/06_state.md: groups 2 and 3, lane 9 fallow. -/
theorem test_element_place :
    elementPlace 0xC 0x200 32 37 = (13, 2, 32) ∧ remapTable 0xC 0x200 = [8, 10, 11, 12, 13, 14, 15] ∧ vlmaxOf 7 32 = 4096 := by
  decide +kernel

/-- R119: `trap 5` in user mode saves the status and the pc of the next convoy. -/
theorem test_syscall :
    (let t := after (.trap 5) (machine { scalar [] with hstat := 0x4, pc := 0x100, tvec := 0x4000, cv := { live := true } })
     t.hart.cause = 7 ∧ t.hart.tval = 5 ∧ t.hart.epc = 0x110 ∧ t.hart.pc = 0x4000 ∧ t.hart.hstat = 0x11) := by decide +kernel

/-- R183: the return from it. -/
theorem test_eret :
    (let t := after .eret (machine { scalar [] with hstat := 0x11, epc := 0x118 })
     t.hart.hstat = 0x14 ∧ t.hart.pc = 0x110 ∧ t.hart.cv.slot = 2) := by decide +kernel

/-- R52, R202: an empty word is filled, a full one is not. -/
def future : State :=
  { machine { scalar [(4, 0x20000), (6, 9)] with ptbase := 0x400000 } with
    tlb := [{ core := 0, l2 := false, asid := 0, vpage := 1, size := 17, leaf := 0x20000000 + 0x20F }] }
theorem test_futures :
    getS (after (.futSt 7 4 6) future) 7 = 0 ∧ isFull (after (.futSt 7 4 6) future) 0x20000000 = true ∧
      getS (after (.futSt 7 4 6) { future with full := [(0x20000000 / 8, true)] }) 7 = 1 := by decide +kernel

/-! The examples at sew = 8 of spec/12_vector_arithmetic_instructions.md -/

theorem test_saturate :
    got (.vsaddIVv 8 4 5 0) (vector 0 1 0 0 0 [(4, 100), (5, 100)]) 8 8 1 = [127] ∧
      got (.vssubNVv 8 4 5 0) (vector 0 1 0 0 0 [(4, 5), (5, 9)]) 8 8 1 = [0] := by decide +kernel
theorem test_divide :
    got (.vdivIVv 8 4 5 0) (vector 0 1 0 0 0 [(4, 128), (5, 255)]) 8 8 1 = [128] ∧
      got (.vdivNVx 8 4 5 0) (vector 0 1 0 0 0 [(4, 7)]) 8 8 1 = [255] ∧
      got (.vremIVv 8 4 5 0) (vector 0 1 0 0 0 [(4, 249), (5, 2)]) 8 8 1 = [255] := by decide +kernel
theorem test_average_narrow :
    got (.vavgIVx 8 4 5 0) (vector 0 1 0 0 0 [(4, 253)]) 8 8 1 = [255] ∧
      got (.vnarrowIVi 8 4 4 0) (vector 0 1 0 0 0 [(4, 0x1234)]) 8 8 1 = [127] ∧
      got (.vnarrowNVi 8 4 0 0) (vector 0 1 0 0 0 [(4, 0x00F3)]) 8 8 1 = [243] ∧
      got (.vnarrowIVi 8 4 0 0) (vector 0 1 0 0 0 [(4, 65536 - 300)]) 8 8 1 = [128] := by decide +kernel

/-- The mixed-format multiply-add and `vfscale` of the same file. -/
theorem test_mixed_format :
    got (.vfmacc 16 8 20 0 1) (vector 0b00001 1 0 0 0x122 [(8, 0x3FC0), (16, 0x3E800000), (20, 0x4040)]) 16 32 1 = [0x40980000] := by
  decide +kernel
theorem test_scale :
    got (.vfscale 14 13 12 0 2) (vector 0b00010 1 0 0 0x1C1 [(12, BitVec.ofNat 65536 (2 ^ 32 - 140)), (13, 0x3F9837F0)]) 14 32 1
      = [0x261] := by decide +kernel

/-- The packing example: va = 10, …, 17 and mask bits 1, 4, 5 and 7. -/
def packing : Hart :=
  { vector 0b00010 8 0 0 0 [(4, BitVec.ofNat 65536 (elemsOf 32 [10, 11, 12, 13, 14, 15, 16, 17])),
      (6, BitVec.ofNat 65536 (elemsOf 32 [100, 101, 102, 103]))] with mregs := [(1, 0b10110010)] }
theorem test_compress : got (.vcompress 8 4 1) packing 8 32 5 = [11, 14, 15, 17, 0] := by decide +kernel
theorem test_iota : got (.viota 8 1 0) packing 8 32 8 = [0, 0, 1, 1, 1, 2, 3, 3] := by decide +kernel
theorem test_expand : got (.vexpand 8 6 1) packing 8 32 8 = [0, 100, 0, 0, 101, 102, 0, 103] := by decide +kernel
theorem test_mask_counts :
    (after (.mpopc 5 1 0) (machine packing)).hart.iss.whole = [(0, .reg 5 4 0)] ∧
      (after (.mfirst 5 1 0) (machine packing)).hart.iss.whole = [(0, .reg 5 1 0)] ∧
      (after (.mpopc 0 2 0) (machine packing)).hart.iss.whole = [(0, .cond false 0)] := by decide +kernel

/-- The gather example: indices 3, 70, 130 and 100 under `e32, g2`. -/
theorem test_gather :
    got (.vgather 12 4 8 0) (vector 0b01010 4 0 0 0 [(4, BitVec.ofNat 65536 (77 * 2 ^ 96)),
      (5, BitVec.ofNat 65536 (elemsOf 32 (List.replicate 6 0 ++ [88]) + 99 * 2 ^ (32 * 36))),
      (8, BitVec.ofNat 65536 (elemsOf 32 [3, 70, 130, 100]))]) 12 32 4 = [77, 88, 0, 99] := by decide +kernel

/-- R251: the two orders of one sum (spec/07_number_formats.md). -/
def addends : Hart :=
  vector 0b00010 4 0 0 0x111 [(4, BitVec.ofNat 65536 (elemsOf 32 [0x4B800000, 0x3F800000, 0x3F800000, 0x3F800000]))]
theorem test_ordered_sum : got (.vredsumOF 8 4 0 0) addends 8 32 1 = [0x4B800000] := by decide +kernel
theorem test_tree_sum : got (.vredsumTF 8 4 0 0) addends 8 32 1 = [0x4B800001] := by decide +kernel

/-- R135: block scales, the example of spec/07_number_formats.md: a block whose greatest value is 1,000. -/
theorem test_block_scale :
    (let t := after (.vfcvt 8 4 0 0) (machine (vector 0b00010 2 0 0
       (word (0x501 + 2 ^ 22 + 40 * 2 ^ 24)) [(4, BitVec.ofNat 65536 (elemsOf 32 [0x447A0000, 0x40400000]))]))
     elem t 8 0 8 = 0x7E ∧ elem t 8 1 8 = 0x3C ∧ elem t 42 0 8 = 128) := by decide +kernel

/-- The scaling of spec/13_program_exp2.md at x = -126.25: 7,053,950.5 units tie to even. -/
theorem test_scale_tie : roundTo 1 {} (scaleBy (Machine.decode 1 0x3F5744FD false) (-126)) = 0x006BA27E := by decide +kernel

/-! Memory -/

/-- The atomic example of spec/11_vector_memory_instructions.md: indices 3, 3, 7, 3 and operands 1, 2, 5, 4. -/
def counters : State :=
  { machine (vector 0b00010 4 (win 0) 0 0 [(8, BitVec.ofNat 65536 (elemsOf 32 [1, 2, 5, 4])),
      (12, BitVec.ofNat 65536 (elemsOf 32 [3, 3, 7, 3]))]) with tiles := [(12, 10)] }
theorem test_atomics :
    (let t := after (.vamoAdd 8 4 12 0 0 0) counters
     (List.range 4).map (fun k => elem t 8 k 32) = [10, 11, 0, 13] ∧ getTile t 0 12 4 = 17 ∧ getTile t 0 28 4 = 5) := by
  decide +kernel

/-- `vldff` beside an unmapped page (the same file): `vl` becomes 16. -/
def edgeOfPage (a : Word) : State :=
  { machine { vector 0b00010 64 a 0 0 [] with ptbase := 0x400000 } with
    tlb := [{ core := 0, l2 := false, asid := 0, vpage := 0, size := 17, leaf := 0x2000000F }]
    mem := [(0x2001FFC4, 7)] }
theorem test_vldff :
    (let t := after (.vldff 4 5 0 2) (edgeOfPage 0x1FFC0)
     t.hart.vl = 16 ∧ t.hart.iss.fault = none ∧ elem t 4 1 32 = 7) ∧
    ((after (.vldff 4 5 0 2) (edgeOfPage 0x20000)).hart.iss.fault = some { slot := 0, elem := 0, cause := 13, tval := 0x20000 }) := by
  decide +kernel

/-- The store of the same file that faults at element 36. -/
theorem test_vst_fault :
    (let t := after (.vst 8 4 0 2) (let s := edgeOfPage 0x1FF70; { s with hart := { s.hart with vl := 100, vregs := [(8, 1)] } })
     t.hart.iss.fault = some { slot := 0, elem := 36, cause := 13, tval := 0x20000 } ∧ getByte t 0x2001FF70 = 1) := by decide +kernel

/-- R198: the second strip of the example of spec/10_task_sync_instructions.md. -/
def strips : State :=
  { machine { scalar [] with
      lanemod := 4, vnreg := 64, vtype := 0b10010, bound := some { queue := 3, tid := 0 }, tb := [] } with
    tasks := [(taskKey 3 0, { e := 256, trem := 744
                              rc := { bytes := toBytes (1000 * 2 ^ (8 * 16)) 28 ++ toBytes (0xD) 4 ++ List.replicate 96 0 } })] }
theorem test_strip :
    (let t := after (.stripGrant 5 0) strips
     getS t 5 = 256 ∧ t.hart.vl = 256 ∧ (getTask t 3 0).trem = 488 ∧ (getTask t 3 0).e = 512) := by decide +kernel

/-! The units -/

/-- `vbmac` of spec/14_bitplane_matrix_instructions.md on elements 5 and 9. -/
def planes : Hart :=
  let bit (i : Nat) (b : Nat) : Nat := b * 2 ^ i
  vector 4 2048 0 0x570423 0 ((List.range 24).filterMap (fun v =>
    let at' (xs ys : List Nat) (k : Nat) : Option (Nat × VReg) :=
      some (v, BitVec.ofNat 65536 (bit 5 (nth 0 xs k) + bit 9 (nth 0 ys k)))
    if v < 4 then at' [1, 0, 1, 1] [1, 1, 1, 0] v
    else if 4 ≤ v ∧ v < 7 then at' [1, 0, 1] [1, 1, 1] (v - 4)
    else if 16 ≤ v then at' [0, 0, 1, 0, 0, 1, 1, 0] [1, 1, 1, 1, 1, 1, 1, 0] (v - 16)
    else none))
theorem test_planes :
    (let h := { planes with vl := 10 }
     let t := after (.vbmac 16 0 9 0) (machine h)
     (List.range 8).map (fun k => elem t (16 + k) 5 1) = [1, 0, 1, 0, 1, 0, 1, 0] ∧
       (List.range 8).map (fun k => elem t (16 + k) 9 1) = [0, 0, 0, 0, 1, 1, 0, 1]) := by decide +kernel

/-- `vbmm` of the same file: two roundings, not one. -/
theorem test_batched :
    got (.vbmm 8 4 5 0 0 0) (vector 0b00001 1 0 0 0x222 [(4, 0x3B403B40), (5, BitVec.ofNat 65536 (0x3F80 + 0x3F80 * 2 ^ 32)),
      (8, 0x3F80)]) 8 16 1 = [0x3F80] := by decide +kernel

/-- `mmac` of the same file: two container sums that each tie, and one sum of 2. -/
def multiply (a0 a1 b0 b1 : Nat) : State :=
  machine { vector 0b00000 0 0 0 0x155 [(4, BitVec.ofNat 65536 (a0 + a1 * 2 ^ 32)), (16, BitVec.ofNat 65536 b0),
      (17, BitVec.ofNat 65536 b1)] with
    lanemod := 8, mshape := word (12 + 1 * 2 ^ 16), rows := 12, acc := [(0, 0x4B800000)] }
theorem test_mmac :
    accElem (after (.mmac 0 4 16 0 0) (multiply 0x3030 0x3030 0x3838 0x3838)).hart 0 0 0 = 0x4B800000 ∧
      accElem (after (.mmac 0 4 16 0 0) (multiply 0x30303030 0 0x38383838 0)).hart 0 0 0 = 0x4B800001 := by decide +kernel

/-- R101: the source of spec/05_fabric_storage.md with DECL = 6. -/
theorem test_zrp :
    (let z := [0x0000000180010002, 11, 22].foldl (fun z u => Zrp.unit 6 u z) {}
     z.words 6 = [0, 0, 11, 22, 0, 0] ∧ z.count = 5 ∧ z.over 6 = true) := by decide +kernel

/-- R100: the scale and the values of the example of the same file. -/
theorem test_kvq :
    scaleFor false [0x4020, 0xBF80, 0x3F40] = 0x250A ∧ quantise false 0x250A 0x4020 = 127 ∧ quantise false 0x250A 0xBF80 = 205 ∧
      quantise false 0x250A 0x3F40 = 38 := by decide +kernel

/-- R102: the repacked elements of the same file. -/
def repack : Fab :=
  { st := { machine { scalar [] with tb := [(0, win 0)] } with tiles := [(0, 0xB4), (1, 0x5C), (2, 0x9E)] }
    run := {}, img := [], mask := 0, va := 0, vb := 0, vd := 0, room := 0, seed := 0 }
theorem test_repack :
    (List.range 4).map (fun i => (repack.memElem (word (3 * 2 ^ 61 + 3 * 2 ^ 58 + 2 * 2 ^ 28 + 5 * 2 ^ 16 + 2 * 2 ^ 13 + 2 ^ 12)) i
      (fun x h => { h with val := x.toNat })).val) = [253, 1, 253, 255] := by decide +kernel

/-- The image of the filter opcode of spec/15_fabric_opcodes.md is well-formed, and an operation that R283 does not have is
not. -/
def gt50 : List Word :=
  [0x0100030001042000, 0, 0, 0, 0, 0, 0, 0, 0x5300040000000032, 0, 0, 0x8700000000000000, 0x0100000000000000, 0x1900000000000000,
    0x8000000000000000, 0x8002040000000000, 0x0002400000000000, 0x0820800000000000]
theorem test_image : malformedAt gt50 = none ∧ malformedAt (gt50.set 8 0xFF00040000000032) = some 64 := by decide +kernel

/-- c0 of that image compares with 50, and c4 keeps by its condition. -/
theorem test_nodes :
    [12, 70, 3, 51, 50, 99].map (fun x => (nodeOp 0x5300040000000032 (word x) (nodeConst 0x5300040000000032 50) 0).toNat)
      = [0, 1, 0, 1, 0, 1] := by decide +kernel

/-- R308: the mantissa of 3.3 beside 5.0 with w = 12 (spec/07_number_formats.md). -/
theorem test_mantissa :
    (let t := convTile 12 0 [Machine.decode 1 0x40A00000 false, Machine.decode 1 0x40533333 false] false
     t.x = 130 ∧ nth 0 t.mants 1 = 845) := by decide +kernel

/-- R313: the digit of round 9 of spec/17_collectives.md for the mantissas 845, -300, 100 and 7. -/
theorem test_digits :
    digitAt (addDigits 2 ([845, 3796, 100, 7].map (fun m => ownPlane 12 9 { mants := [m] }))) 2 0 = 4 := by decide +kernel

/-! Every instruction word, from the fields of spec/opcode_table.json and R146: operands 1, 2, 3, … in order -/

theorem test_decode_all_1 :
    decodesTo [(0x00000000, .nop), (0x00000801, .trap 1), (0x00000002, .eret), (0x00000003, .wait), (0x00000004, .brk),
      (0x00000005, .fenceI), (0x00011186, .tlbInv 1 2 3), (0x00010007, .l1Inv 1), (0x04221800, .add 1 2 3),
      (0x04221801, .sub 1 2 3), (0x04221802, .and 1 2 3), (0x04221803, .or 1 2 3), (0x04221804, .xor 1 2 3),
      (0x04221805, .sll 1 2 3), (0x04221806, .srl 1 2 3), (0x04221807, .sra 1 2 3), (0x04221808, .min 1 2 3),
      (0x04221809, .max 1 2 3), (0x0422180A, .minn 1 2 3), (0x0422180B, .maxn 1 2 3), (0x0422180C, .slt 1 2 3),
      (0x0422180D, .sltn 1 2 3), (0x0422180E, .sel 1 2 3), (0x08221800, .mul 1 2 3), (0x08221801, .mulh 1 2 3),
      (0x08221802, .mulhn 1 2 3), (0x08221803, .div 1 2 3), (0x08221804, .divn 1 2 3), (0x08221805, .rem 1 2 3),
      (0x08221806, .remn 1 2 3), (0x0C220000, .clz 1 2), (0x0C220001, .ctz 1 2), (0x0C220002, .popc 1 2),
      (0x0C220003, .bswap 1 2), (0x10228003, .addi 1 2 32771), (0x14228003, .andi 1 2 32771), (0x18228003, .ori 1 2 32771),
      (0x1C228003, .xori 1 2 32771), (0x20228003, .slti 1 2 32771), (0x24228003, .sltni 1 2 32771)] = true := by decide +kernel

theorem test_decode_all_2 :
    decodesTo [(0x28220003, .slli 1 2 3), (0x28220043, .srli 1 2 3), (0x28220083, .srai 1 2 3), (0x2C280002, .ldhi 1 524290),
      (0x2C380002, .adrc 1 524290), (0x30221003, .ldB 1 2 4099), (0x30223003, .ldH 1 2 4099), (0x30225003, .ldW 1 2 4099),
      (0x30227003, .ldD 1 2 4099), (0x30229003, .ldBn 1 2 4099), (0x3022B003, .ldHn 1 2 4099), (0x3022D003, .ldWn 1 2 4099),
      (0x34221003, .ldBAq 1 2 4099), (0x34223003, .ldHAq 1 2 4099), (0x34225003, .ldWAq 1 2 4099),
      (0x34227003, .ldDAq 1 2 4099), (0x34229003, .ldBnAq 1 2 4099), (0x3422B003, .ldHnAq 1 2 4099),
      (0x3422D003, .ldWnAq 1 2 4099), (0x40221808, .ldBX 1 2 3 1), (0x40221809, .ldHX 1 2 3 1), (0x4022180A, .ldWX 1 2 3 1),
      (0x4022180B, .ldDX 1 2 3 1), (0x4022180C, .ldBnX 1 2 3 1), (0x4022180D, .ldHnX 1 2 3 1), (0x4022180E, .ldWnX 1 2 3 1),
      (0x38221003, .stB 1 2 4099), (0x38223003, .stH 1 2 4099), (0x38225003, .stW 1 2 4099), (0x38227003, .stD 1 2 4099),
      (0x3C221003, .stBRl 1 2 4099), (0x3C223003, .stHRl 1 2 4099), (0x3C225003, .stWRl 1 2 4099),
      (0x3C227003, .stDRl 1 2 4099), (0x44221808, .stBX 1 2 3 1), (0x44221809, .stHX 1 2 3 1), (0x4422180A, .stWX 1 2 3 1),
      (0x4422180B, .stDX 1 2 3 1), (0x4C221A18, .amoAdd 1 2 3 4 1 1), (0x4C221A19, .amoAnd 1 2 3 4 1 1)] = true := by decide +kernel

theorem test_decode_all_3 :
    decodesTo [(0x4C221A1A, .amoOr 1 2 3 4 1 1), (0x4C221A1B, .amoXor 1 2 3 4 1 1), (0x4C221A1C, .amoSwap 1 2 3 4 1 1),
      (0x4C221A1D, .amoMin 1 2 3 4 1 1), (0x4C221A1E, .amoMax 1 2 3 4 1 1), (0x4C221A1F, .amoCas 1 2 3 4 1 1),
      (0x50228003, .beq 1 2 32771), (0x54228003, .bne 1 2 32771), (0x58228003, .blt 1 2 32771), (0x5C228003, .bge 1 2 32771),
      (0x60228003, .bltn 1 2 32771), (0x64228003, .bgen 1 2 32771), (0x68300002, .jal 1 1048578),
      (0x6C228003, .jalr 1 2 32771), (0x70008001, .bq 32769), (0x70208001, .bqNot 32769), (0x74200002, .ctlRd 1 2),
      (0x74014002, .ctlWr 1 2), (0x74018002, .ctlSet 1 2), (0x7401C002, .ctlClr 1 2), (0x78221800, .vsetvl 1 2 3),
      (0x78220103, .vsetvli 1 2 3), (0x78221A00, .gsetvl 1 2 3), (0x78000401, .vdecl 1), (0x78000D0B, .vdeclBuf 1 2 3),
      (0x7C221800, .taskPost 1 2 3), (0x7C220001, .taskTake 1 2), (0x7C220002, .taskDone 1 2), (0x7C000003, .taskYield),
      (0x7C220004, .stripGrant 1 2), (0x7C221808, .futLd 1 2 3), (0x7C221809, .futSt 1 2 3), (0x7C22000A, .futClr 1 2),
      (0x7C000910, .fence 1 2), (0x7C000811, .drain 1), (0x7C000012, .garrive), (0x7C200013, .gwait 1),
      (0x7C220014, .ingTake 1 2), (0x7C221815, .egrPost 1 2 3), (0x7C221A16, .pcwait 1 2 3 4)] = true := by decide +kernel

theorem test_decode_all_4 :
    decodesTo [(0x80221838, .strLd 1 2 3 1 1 1), (0x80221819, .strSt 1 2 3 1 1), (0x8022183A, .strCp 1 2 3 1 1 1),
      (0x8022181B, .strXch 1 2 3 1 1), (0x80220004, .strWait 1 2), (0x84220018, .collSend 1 2 3),
      (0x84220019, .collRecv 1 2 3), (0x8422001A, .collRed 1 2 3), (0x84220003, .collCancel 1 2),
      (0x84220004, .collStat 1 2), (0x88108380, .vaddVv 1 2 3 4), (0x88108381, .vsubVv 1 2 3 4),
      (0x88108382, .vrsubVv 1 2 3 4), (0x88108383, .vmulVv 1 2 3 4), (0x88108384, .vmulhIVv 1 2 3 4),
      (0x88108385, .vmulhNVv 1 2 3 4), (0x88108386, .vdivIVv 1 2 3 4), (0x88108387, .vdivNVv 1 2 3 4),
      (0x88108388, .vremIVv 1 2 3 4), (0x88108389, .vremNVv 1 2 3 4), (0x8810838A, .vminIVv 1 2 3 4),
      (0x8810838B, .vminNVv 1 2 3 4), (0x8810838C, .vmaxIVv 1 2 3 4), (0x8810838D, .vmaxNVv 1 2 3 4),
      (0x8810838E, .vandVv 1 2 3 4), (0x8810838F, .vorVv 1 2 3 4), (0x88108390, .vxorVv 1 2 3 4),
      (0x88108391, .vsllVv 1 2 3 4), (0x88108392, .vsrlVv 1 2 3 4), (0x88108393, .vsraVv 1 2 3 4),
      (0x88108394, .vsaddIVv 1 2 3 4), (0x88108395, .vsaddNVv 1 2 3 4), (0x88108396, .vssubIVv 1 2 3 4),
      (0x88108397, .vssubNVv 1 2 3 4), (0x88108398, .vavgIVv 1 2 3 4), (0x88108399, .vavgNVv 1 2 3 4),
      (0x8810839A, .vwaddIVv 1 2 3 4), (0x8810839B, .vwaddNVv 1 2 3 4), (0x8810839C, .vnarrowIVv 1 2 3 4),
      (0x8810839D, .vnarrowNVv 1 2 3 4)] = true := by decide +kernel

theorem test_decode_all_5 :
    decodesTo [(0x8C108700, .vaddVx 1 2 3 4), (0x8C108701, .vsubVx 1 2 3 4), (0x8C108702, .vrsubVx 1 2 3 4),
      (0x8C108703, .vmulVx 1 2 3 4), (0x8C108704, .vmulhIVx 1 2 3 4), (0x8C108705, .vmulhNVx 1 2 3 4),
      (0x8C108706, .vdivIVx 1 2 3 4), (0x8C108707, .vdivNVx 1 2 3 4), (0x8C108708, .vremIVx 1 2 3 4),
      (0x8C108709, .vremNVx 1 2 3 4), (0x8C10870A, .vminIVx 1 2 3 4), (0x8C10870B, .vminNVx 1 2 3 4),
      (0x8C10870C, .vmaxIVx 1 2 3 4), (0x8C10870D, .vmaxNVx 1 2 3 4), (0x8C10870E, .vandVx 1 2 3 4),
      (0x8C10870F, .vorVx 1 2 3 4), (0x8C108710, .vxorVx 1 2 3 4), (0x8C108711, .vsllVx 1 2 3 4),
      (0x8C108712, .vsrlVx 1 2 3 4), (0x8C108713, .vsraVx 1 2 3 4), (0x8C108714, .vsaddIVx 1 2 3 4),
      (0x8C108715, .vsaddNVx 1 2 3 4), (0x8C108716, .vssubIVx 1 2 3 4), (0x8C108717, .vssubNVx 1 2 3 4),
      (0x8C108718, .vavgIVx 1 2 3 4), (0x8C108719, .vavgNVx 1 2 3 4), (0x8C10871A, .vwaddIVx 1 2 3 4),
      (0x8C10871B, .vwaddNVx 1 2 3 4), (0x8C10871C, .vnarrowIVx 1 2 3 4), (0x8C10871D, .vnarrowNVx 1 2 3 4),
      (0x901080E0, .vaddVi 1 2 3 4), (0x901080E1, .vrsubVi 1 2 3 4), (0x901080E2, .vandVi 1 2 3 4),
      (0x901080E3, .vorVi 1 2 3 4), (0x901080E4, .vxorVi 1 2 3 4), (0x901080E5, .vsllVi 1 2 3 4),
      (0x901080E6, .vsrlVi 1 2 3 4), (0x901080E7, .vsraVi 1 2 3 4), (0x941080E0, .vsaddIVi 1 2 3 4),
      (0x941080E1, .vsaddNVi 1 2 3 4)] = true := by decide +kernel

theorem test_decode_all_6 :
    decodesTo [(0x941080E2, .vminIVi 1 2 3 4), (0x941080E3, .vminNVi 1 2 3 4), (0x941080E4, .vmaxIVi 1 2 3 4),
      (0x941080E5, .vmaxNVi 1 2 3 4), (0x941080E6, .vnarrowIVi 1 2 3 4), (0x941080E7, .vnarrowNVi 1 2 3 4),
      (0x98108394, .vfadd 1 2 3 4 5), (0x98108395, .vfsub 1 2 3 4 5), (0x98108396, .vfmul 1 2 3 4 5),
      (0x98108397, .vfdiv 1 2 3 4 5), (0x9C108394, .vfmacc 1 2 3 4 5), (0x9C108395, .vfnmacc 1 2 3 4 5),
      (0x9C108396, .vfmsac 1 2 3 4 5), (0x9C108397, .vfnmsac 1 2 3 4 5), (0xA0108394, .vfmin 1 2 3 4 5),
      (0xA0108395, .vfmax 1 2 3 4 5), (0xA0108396, .vfcopysign 1 2 3 4 5), (0xA0108397, .vfscale 1 2 3 4 5),
      (0xA4108070, .vfsqrt 1 2 3 4), (0xA4108170, .vfabs 1 2 3 4), (0xA4108270, .vfneg 1 2 3 4),
      (0xA4108370, .vfcvt 1 2 3 4), (0xA4108470, .vfround 1 2 3 4), (0xA4108570, .vfexp2f 1 2 3 4),
      (0xA4108670, .vfrecip 1 2 3 4), (0xA4108770, .vfrsqrt 1 2 3 4), (0xA4108870, .vfclass 1 2 3 4),
      (0xA4A0C4B9, .vcmpF 1 2 3 4 5 6), (0xA8A0C4A0, .vcmpI 1 2 3 4 5), (0xA8A0C4A1, .vcmpN 1 2 3 4 5),
      (0xA8108382, .mand 1 2 3 4), (0xA8108383, .mor 1 2 3 4), (0xA8108384, .mxor 1 2 3 4), (0xA8108385, .mandn 1 2 3 4),
      (0xA8108066, .mpopc 1 2 3), (0xA8108067, .mfirst 1 2 3), (0xA8100048, .mset 1 2), (0xA8108309, .vcompress 1 2 3),
      (0xA810830A, .vexpand 1 2 3), (0xA810806B, .viota 1 2 3)] = true := by decide +kernel

theorem test_decode_all_7 :
    decodesTo [(0xA810004C, .vid 1 2), (0xAC108380, .vgather 1 2 3 4), (0xAC108381, .vslideup 1 2 3 4),
      (0xAC108382, .vslidedown 1 2 3 4), (0xAC100263, .vbcast 1 2 3), (0xAC108304, .vmvx 1 2 3), (0xAC100265, .vmvs 1 2 3),
      (0xAC108066, .vmv 1 2 3), (0xAC108387, .vmerge 1 2 3 4), (0xB0108070, .vredsumOF 1 2 3 4),
      (0xB0108061, .vredsumOI 1 2 3), (0xB0108062, .vredsumON 1 2 3), (0xB0108170, .vredsumTF 1 2 3 4),
      (0xB0108161, .vredsumTI 1 2 3), (0xB0108162, .vredsumTN 1 2 3), (0xB0108270, .vredmaxF 1 2 3 4),
      (0xB0108261, .vredmaxI 1 2 3), (0xB0108262, .vredmaxN 1 2 3), (0xB0108370, .vredminF 1 2 3 4),
      (0xB0108361, .vredminI 1 2 3), (0xB0108362, .vredminN 1 2 3), (0xB0108461, .vredandI 1 2 3),
      (0xB0108462, .vredandN 1 2 3), (0xB0108561, .vredorI 1 2 3), (0xB0108562, .vredorN 1 2 3),
      (0xB0108661, .vredxorI 1 2 3), (0xB0108662, .vredxorN 1 2 3), (0xB4108700, .vbtr 1 2 3 4),
      (0xB4108701, .vbtri 1 2 3 4), (0xB4108702, .vbadd 1 2 3 4), (0xB4108703, .vbmac 1 2 3 4), (0xB4108704, .vbcmp 1 2 3 4),
      (0xB4108705, .vbpopc 1 2 3 4), (0xB4108706, .vbshl 1 2 3 4), (0xB8108392, .vbmm 1 2 3 4 2 2),
      (0xB8108396, .vbmv 1 2 3 4 2 2), (0xBC1100D0, .vld 1 2 3 2), (0xBC110711, .vlds 1 2 3 4 2),
      (0xBC110712, .vldx 1 2 3 4 2), (0xBC1100D3, .vldff 1 2 3 2)] = true := by decide +kernel

theorem test_decode_all_8 :
    decodesTo [(0xBC110724, .vldp 1 2 3 4), (0xC01100D0, .vst 1 2 3 2), (0xC0110711, .vsts 1 2 3 4 2),
      (0xC0110712, .vstx 1 2 3 4 2), (0xC0110713, .vstxu 1 2 3 4 2), (0xC01100D4, .vstu 1 2 3 2),
      (0xC0110725, .vstp 1 2 3 4), (0xC4110000, .vspill 1 2), (0xC4110001, .vfill 1 2), (0xD0110738, .vamoAdd 1 2 3 4 1 1),
      (0xD0110739, .vamoFadd 1 2 3 4 1 1), (0xD011073A, .vamoMin 1 2 3 4 1 1), (0xD011073B, .vamoMax 1 2 3 4 1 1),
      (0xD011073C, .vamoAnd 1 2 3 4 1 1), (0xD011073D, .vamoOr 1 2 3 4 1 1), (0xD011073E, .vamoXor 1 2 3 4 1 1),
      (0xD011073F, .vamoSwap 1 2 3 4 1 1), (0xD5088940, .mmac 1 2 8 4 5), (0xD5088941, .mmacs 1 2 8 4 5),
      (0xD5000402, .mzero 1 2), (0xD5080603, .mst 1 2 3), (0xD5080604, .mld 1 2 3), (0xD4000008, .mattach),
      (0xD4000009, .mdetach), (0xD8420C4A, .fop 1 2 3 4 5), (0xD8420C4B, .fopC 1 2 3 4 5), (0xDC220030, .fbind 1 2 3),
      (0xDC000011, .funbind 1), (0xDC000012, .fdrain 1)] = true := by decide +kernel

/-! For each statement, states that meet its hypotheses: `witness_<statement>`, a part for each of its clauses -/

open Claims

/-- Nothing carries a mark. -/
theorem clean {s : State} {rs : List (BitVec 5)} (h : s.hart.spois = []) : Clean s rs := by
  intro r _
  unfold markS
  rw [h]
  split <;> rfl

/-- What `Issuing` asks, as one decidable condition. -/
def issues (s : State) : Bool :=
  s.stop.isNone && s.hart.iss.group && s.hart.iss.early.isNone && s.hart.iss.wait.isNone && s.hart.iss.mqFault.isNone
    && s.hart.iss.bound.isNone && s.hart.iss.fault.isNone && s.hart.iss.halted.isNone && !s.hart.iss.blind

theorem issuing {s : State} (h : issues s = true) : Issuing s := by
  simp only [issues, Bool.and_eq_true, Option.isNone_iff_eq_none, Bool.not_eq_true'] at h
  obtain ⟨⟨⟨⟨⟨⟨⟨⟨a, b⟩, c⟩, d⟩, e⟩, f⟩, g⟩, k⟩, l⟩ := h
  exact ⟨a, b, c, d, k, e, f, g, l⟩

theorem ready {s : State} (h : issues s = true) (l : 64 ≤ s.hart.vlmax) (v : s.hart.vill = false)
    (t : vtypeOk s.hart.vtype.toNat = true) : VectorReady s := ⟨issuing h, l, v, t⟩

theorem quiet {s : State} (a : (getCore s (myCore s)).comb = []) (b : myStreams s = []) (c : s.hart.storeBuf = [])
    (d : s.far = []) : Quiet s := ⟨a, b, c, d⟩

/-- The checks pass for each of the first k elements. -/
theorem loadsAt {here : Nat → Prop} {need : Need} {n : Nat} {addr : Nat → Word} {loc : Nat → Loc} {s : State} (k : Nat)
    (hk : ∀ i, here i → i < k)
    (h : (List.range k).all (fun i => decide (check (freshPages s) (addr i) n need = .ok (loc i) 0 false)) = true) :
    LoadsAt here need n addr loc s := fun i hi =>
  ⟨0, of_decide_eq_true (List.all_eq_true.1 h i (List.mem_range.2 (hk i hi)))⟩

/-- A check on a place of the window gives what it gave, whatever a store has left, where the slot does not read or no
poison has changed. -/
theorem check_window {s u : State} {va : Word} {n : Nat} {need : Need} (hu : StoreFrame s u) (w : inWindow va = true)
    (p : s.hart.pmode = false) (r : (need.rd && need.test) = false ∨ u.tilePois = s.tilePois) :
    check (freshPages u) va n need = check (freshPages s) va n need := by
  have hm : (freshPages u).tileMode = (freshPages s).tileMode := by rw [hu.only]; rfl
  have hc : myCore (freshPages u) = myCore (freshPages s) := by rw [hu.only]; rfl
  have p : (freshPages s).hart.pmode = false := p
  have hp : (freshPages u).hart.pmode = false := by rw [hu.only]; exact p
  have ht : (need.rd && need.test && tilePoisoned (freshPages u) (myCore (freshPages s)) (va.toNat - 0xFFFFFFFF80000) n)
      = (need.rd && need.test && tilePoisoned (freshPages s) (myCore (freshPages s)) (va.toNat - 0xFFFFFFFF80000) n) := by
    rcases r with r | r
    · rw [r]; rfl
    · have r : (freshPages u).tilePois = (freshPages s).tilePois := r
      unfold tilePoisoned; rw [r]
  unfold check
  rw [w, hc, hm]
  simp only [impure, p, hp, Bool.false_and]
  rw [ht]
  simp only [if_true, Bool.false_eq_true, if_false]

/-- The checks of stores to the window pass, whatever the stores leave. -/
theorem storesAt {here : Nat → Prop} {need : Need} {n : Nat} {addr : Nat → Word} {loc : Nat → Loc} {s : State} (k : Nat)
    (hk : ∀ i, here i → i < k) (p : s.hart.pmode = false) (r : (need.rd && need.test) = false)
    (h : (List.range k).all (fun i => inWindow (addr i) && decide (check (freshPages s) (addr i) n need = .ok (loc i) 0 false)) = true) :
    StoresAt here need n addr loc s := fun i hi u hu => by
  have x := List.all_eq_true.1 h i (List.mem_range.2 (hk i hi))
  rw [Bool.and_eq_true] at x
  exact ⟨0, (check_window hu.frame x.1 p (.inl r)).trans (of_decide_eq_true x.2)⟩

/-- The same of slots that read as well. -/
theorem updatesAt {here : Nat → Prop} {need : Need} {n : Nat} {addr : Nat → Word} {loc : Nat → Loc} {s : State} (k : Nat)
    (hk : ∀ i, here i → i < k) (p : s.hart.pmode = false)
    (h : (List.range k).all (fun i => inWindow (addr i) && decide (check (freshPages s) (addr i) n need = .ok (loc i) 0 false)) = true) :
    UpdatesAt here need n addr loc s := fun i hi u hu _ r => by
  have x := List.all_eq_true.1 h i (List.mem_range.2 (hk i hi))
  rw [Bool.and_eq_true] at x
  exact ⟨0, (check_window hu.frame x.1 p (.inr r)).trans (of_decide_eq_true x.2)⟩

/-- The parts of `ScalarAccess`, each computed. -/
theorem accessOk {need : Need} {va : Word} {n : Nat} {l : Loc} {mt : Nat} {viol : Bool} {s : State}
    (h : check s va n need = .ok l mt viol ∧ scalarHolds s va n l need.wr = false ∧ deviceWaits need mt s = false ∧
      (mt = 0 ∨ need.wr = true ∨ (accessState va viol l mt n need.wr s).far = [])) : ScalarAccess need va n l mt viol s :=
  ⟨h.1, h.2.1, h.2.2.1, h.2.2.2⟩

/-! Scalar instructions -/

def operands : State :=
  machine (scalar [(1, 7), (2, wordI (-2)), (3, wordI (-7)), (4, 2), (5, wordI (-2 ^ 63)), (6, wordI (-1))])

theorem witness_ScalarArithmetic :
    operands.stop = none ∧ (∀ rs, Clean operands rs) ∧ regOps ≠ [] ∧ bitOps ≠ [] ∧ immOps ≠ [] ∧ shiftOps ≠ [] ∧
      getS operands 0 = 0 ∧ (getS operands 5 = wordI (-2 ^ 63) ∧ getS operands 6 = wordI (-1)) ∧
      (getS operands 1 = 7 ∧ getS operands 2 = wordI (-2)) ∧ (getS operands 3 = wordI (-7) ∧ getS operands 4 = 2) :=
  ⟨rfl, fun _ => clean rfl, nofun, nofun, nofun, nofun, by decide +kernel, by decide +kernel, by decide +kernel, by decide +kernel⟩

theorem witness_ScalarArithmetic_codes :
    mulOps.zipIdx ≠ [] ∧ (0x08000007 : BitVec 32).toNat / 2 ^ 26 = 2 ∧ 7 ≤ (0x08000007 : BitVec 32).toNat % 2 ^ 11 := by decide

theorem witness_RegisterWriteReadsBack : (31 : BitVec 5) ≠ 0 ∧ (0 : BitVec 5) ≠ 31 := by decide

/-- Register 31 and the oldest condition carry marks. -/
def poisoned31 : State := machine { scalar [] with spois := [(31, 5)], bq := [(true, 9)] }

theorem witness_PoisonedOperandTraps :
    poisoned31.stop = none ∧ TrapRoom poisoned31 ∧ AluReads (.add 1 2 31) [2, 31] ∧ AluReads (.sel 31 1 2) [31, 1, 2] ∧
      MemoryReads (.stBX 31 1 2 0) [1, 2, 31] ∧ SystemReads (.taskPost 1 31 2) [31, 2] poisoned31 ∧
      (∀ rs ∈ [[2, 31], [31, 1, 2], [1, 2, 31], [31, 2]], rs.find? (fun r => markS poisoned31 r != 0) = some (31 : BitVec 5)) ∧
      poisoned31.hart.bq = (true, 9) :: [] :=
  ⟨rfl, .inl rfl, .inl ⟨(.add, _), .head _, _, _, _, rfl, rfl⟩, .inr (.inl ⟨_, _, _, rfl, rfl⟩),
    .inr (.inr (.inr (.inl ⟨(.stBX, 1), .head _, _, _, _, _, rfl, rfl⟩))), .inr (.inr (.inr (.inl ⟨_, _, _, rfl, rfl⟩))),
    by decide +kernel, rfl⟩

theorem witness_ControlTransfers_taken :
    operands.stop = none ∧ Clean operands [1, 1] ∧ (∃ x ∈ branchOps, x.2 (getS operands 1) (getS operands 1) = true) ∧
      ∃ x ∈ branchOps, x.2 (getS operands 1) (getS operands 1) = false :=
  ⟨rfl, clean rfl, ⟨_, .head _, by decide +kernel⟩, ⟨_, .tail _ (.head _), by decide +kernel⟩⟩

theorem witness_ControlTransfers_queue :
    (machine { scalar [] with bq := [(true, 0)] }).hart.bq = (true, 0) :: [] ∧
      (machine { scalar [] with bq := [(false, 0)] }).hart.bq = (false, 0) :: [] ∧
      operands.hart.bq = [] ∧ owedConds operands = 0 ∧ TrapRoom operands := ⟨rfl, rfl, rfl, by decide +kernel, .inl rfl⟩

/-- A hart that loads and stores at the ends of the local window, and at a device register through a page of memory type 2. -/
def access : State :=
  { machine (scalar [(1, win 0), (2, win (0x80000 - 8)), (3, 0x1000), (4, win 1), (5, 0x10000000000000), (6, 1), (7, 0x20000)]) with
    tlb := [{ core := 0, l2 := false, asid := 0, vpage := 0, size := 17, leaf := word (regBase + 0x12F) }] }

theorem witness_ScalarLoads :
    access.stop = none ∧ Clean access [2] ∧ (∃ c, (c, 8, false) ∈ loads ∧ Instr.ldD 3 2 0 = c 3 2 0) ∧
      wordI ((getS access 2).toInt + (0 : BitVec 13).toInt) = win (0x80000 - 8) ∧
      ScalarAccess (needLoad 8) (win (0x80000 - 8)) 8 (.tile (0x80000 - 8)) 0 false access ∧
      (let u := accessState (win (0x80000 - 8)) false (.tile (0x80000 - 8)) 0 8 false access
       u.stop = none ∧ partlyBuffered u (.tile (0x80000 - 8)) 8 = false) ∧ isReg (.tile (0x80000 - 8)) = false :=
  ⟨rfl, clean rfl, ⟨.ldD, by simp [loads], rfl⟩, by decide +kernel, accessOk (by decide +kernel),
    by decide +kernel, rfl⟩

theorem witness_ScalarLoads_indexed :
    Clean access [1, 6] ∧ (∃ c, (c, 1, true) ∈ loadsIndexed ∧ Instr.ldBnX 3 1 6 0 = c 3 1 6 0) ∧ getS access 1 + getS access 6 = win 1 ∧
      ScalarAccess (needLoad 1) (win 1) 1 (.tile 1) 0 false access :=
  ⟨clean rfl, ⟨.ldBnX, by simp [loadsIndexed], rfl⟩, by decide +kernel, accessOk (by decide +kernel)⟩

theorem witness_ScalarLoads_registers :
    ScalarAccess (needLoad 8) 0x1000 8 (.pa (regBase + 0x1000)) 2 false access ∧
      ScalarAccess (needLoad 4) 0x1000 4 (.pa (regBase + 0x1000)) 2 false access ∧ isReg (.pa (regBase + 0x1000)) = true ∧
      (drainStores (accessState 0x1000 false (.pa (regBase + 0x1000)) 2 8 false access)).hart.storeBuf = [] :=
  ⟨accessOk (by decide +kernel), accessOk (by decide +kernel), rfl, by decide +kernel⟩

/-- One buffered store. -/
def waiting : SbEntry := { loc := .tile 0, n := 8, val := 0x1122334455667788 }
def buffering : State := { access with hart := { access.hart with storeBuf := [waiting] } }

theorem witness_ScalarLoads_buffer :
    (let k := locKey buffering (.tile 0) + 7
     buffering.hart.storeBuf.reverse.find? (fun e => decide (locKey buffering e.loc ≤ k ∧ k < locKey buffering e.loc + e.n))
       = some waiting) ∧
    (let k := locKey buffering (.tile 8) + 0
     ∀ e ∈ buffering.hart.storeBuf, ¬(locKey buffering e.loc ≤ k ∧ k < locKey buffering e.loc + e.n)) := by decide +kernel

/-- A load that the buffered store covers only in part. -/
theorem witness_ScalarLoads_partly :
    ScalarAccess (needLoad 8) (win 0) 8 (.tile 0) 0 false { buffering with hart := { buffering.hart with storeBuf := [{ waiting with n := 4 }] } } ∧
      (let u := accessState (win 0) false (.tile 0) 0 8 false { buffering with hart := { buffering.hart with storeBuf := [{ waiting with n := 4 }] } }
       u.stop = none ∧ partlyBuffered u (.tile 0) 8 = true ∧ partlyBuffered (drainStores u) (.tile 0) 8 = false) :=
  ⟨accessOk (by decide +kernel), by decide +kernel⟩

theorem witness_ScalarStores :
    access.stop = none ∧ Clean access [2, 1] ∧ (∃ c, (c, 8, false) ∈ stores ∧ Instr.stD 1 2 0 = c 1 2 0) ∧
      (storeTime false access).1 = none ∧ (storeTime false access).2 = access ∧
      ScalarAccess (needStore 8) (win (0x80000 - 8)) 8 (.tile (0x80000 - 8)) 0 false access ∧
      (let u := accessState (win (0x80000 - 8)) false (.tile (0x80000 - 8)) 0 8 true access
       u.stop = none ∧ (bufferTurn u).hart.storeBuf.length < 32) :=
  ⟨rfl, clean rfl, ⟨.stD, by simp [stores], rfl⟩, rfl, rfl, accessOk (by decide +kernel), by decide +kernel⟩

/-- The same after a release, on a page of memory type 1, and to a device register. -/
def uncached : State :=
  { access with
    tlb := [{ core := 0, l2 := false, asid := 0, vpage := 1, size := 17, leaf := 0x2000008F },
      { core := 0, l2 := false, asid := 0, vpage := 0, size := 17, leaf := word (regBase + 0x12F) }] }
theorem witness_ScalarStores_types :
    Clean uncached [7, 3, 1] ∧ (∃ c, (c, 8, true) ∈ stores ∧ Instr.stDRl 1 7 0 = c 1 7 0) ∧
      (∃ c, (c, 4) ∈ storesIndexed ∧ Instr.stWX 1 3 0 1 = c 1 3 0 1) ∧
      wordI ((getS uncached 7).toInt + (0 : BitVec 13).toInt) = 0x20000 ∧ getS uncached 3 + getS uncached 0 = 0x1000 ∧ (storeTime true uncached).1 = none ∧
      ScalarAccess (needStore 8) 0x20000 8 (.pa 0x20000000) 1 false (storeTime true uncached).2 ∧
      ScalarAccess (needStore 8) 0x1000 8 (.pa (regBase + 0x1000)) 2 false (storeTime true uncached).2 ∧
      ScalarAccess (needStore 4) 0x1000 4 (.pa (regBase + 0x1000)) 2 false (storeTime true uncached).2 ∧
      (drainStores (accessState 0x20000 false (.pa 0x20000000) 1 8 true (storeTime true uncached).2)).hart.storeBuf = [] ∧
      (drainStores (accessState 0x1000 false (.pa (regBase + 0x1000)) 2 8 true (storeTime true uncached).2)).hart.storeBuf = [] :=
  ⟨clean rfl, ⟨.stDRl, by simp [stores], rfl⟩, ⟨.stWX, by simp [storesIndexed], rfl⟩, by decide +kernel, by decide +kernel, by decide +kernel,
    accessOk (by decide +kernel), accessOk (by decide +kernel), accessOk (by decide +kernel), by decide +kernel, by decide +kernel⟩

/-- A release store behind an exchange that has not started: it takes its time. -/
def behind : State :=
  { uncached with
    order := 7
    cores := [(0, { cq := [(0, { phase := 1, xch := true, hart := 0, seq := 3, src := win 0x4000, dst := win 0x8000, bytes := 64 })] })]
    clusters := [(0, { gid := [(0, 1), (1, 1)] })] }
theorem witness_ScalarStores_release :
    (storeTime true behind).1 = some 7 ∧
      ScalarAccess { needStore 8 with late := true } 0x20000 8 (.pa 0x20000000) 1 false (storeTime true behind).2 ∧
      ScalarAccess { needStore 8 with late := true } 0x1000 8 (.pa (regBase + 0x1000)) 2 false (storeTime true behind).2 ∧
      (let u := accessState 0x20000 false (.pa 0x20000000) 1 8 true (storeTime true behind).2
       u.stop = none ∧ (bufferTurn (drainStores u)).hart.storeBuf.length < 32) :=
  ⟨by decide +kernel, accessOk (by decide +kernel), accessOk (by decide +kernel), by decide +kernel⟩

theorem witness_StoreBufferDrains :
    buffering.stop = none ∧ buffering.hn < nHarts ∧ buffering.hart.storeBuf = waiting :: [] ∧ storeHeld buffering waiting = false ∧
      isReg waiting.loc = false ∧ regsLeft [] = false ∧
      (let e : SbEntry := { waiting with loc := .pa (regBase + 0x1000) }; storeHeld buffering e = false ∧ isReg e.loc = true) ∧
      storeHeld behind { waiting with seq := some 5 } = true :=
  ⟨rfl, by decide, rfl, by decide +kernel, by decide +kernel, by decide +kernel, by decide +kernel, by decide +kernel⟩

theorem witness_ScalarAtomics :
    Clean access [1, 6, 4] ∧ atomics ≠ [] ∧ unperformed (releaseState access) = false ∧
      ScalarAccess (needAtomic 8) (getS access 1) 8 (.tile 0) 0 false (releaseState access) ∧
      ScalarAccess (needAtomic 4) (getS access 1) 4 (.tile 0) 0 false access ∧
      (let u := drainStores (accessState (getS access 1) false (.tile 0) 0 8 true (releaseState access))
       u.stop = none ∧ u.hart.storeBuf = []) :=
  ⟨clean rfl, nofun, by decide +kernel, accessOk (by decide +kernel), accessOk (by decide +kernel), by decide +kernel⟩

/-- The bound task is pure, and its ranges hold nothing; whether its record lets a violation demote it. -/
def bounded (demoting : Bool) : State :=
  { access with
    hart := { access.hart with bound := some { queue := 3, tid := 0 }, hstat := 0x29 }
    tasks := [(taskKey 3 0, { rc := { bytes := List.replicate 16 0 ++ [if demoting then 32 else 0] ++ List.replicate 111 0 } })] }

theorem witness_FailedCheckTraps :
    (MemoryReads (.ldD 3 4 0) [4] ∧ Clean access [4] ∧ AccessOf (.ldD 3 4 0) access access (win 1) 8 (needLoad 8)) ∧
      check (bounded false) (win 0) 8 (needStore 8) = .trap 21 ∧ TrapRoom (bounded false) ∧
      AccessOf (.stDRl 3 7 0) behind (storeTime true behind).2 0x20000 8 { needStore 8 with late := true } ∧
      AccessOf (.amoAdd 3 1 6 0 2 1) access (releaseState access) (win 0) 8 (needAtomic 8) ∧
    TrapRoom access ∧ Clean access [4, 1] ∧ check access (win 1) 8 (needLoad 8) = .trap 10 ∧
      check access (win 1) 2 (needStore 2) = .trap 10 ∧ (win 1).toNat % 8 ≠ 0 ∧
      (getS access 5).toNat % 8 = 0 ∧ (getS access 5).toNat / 2 ^ 52 ≠ 0 ∧ check access (getS access 5) 8 (needLoad 8) = .trap 12 ∧
      check access 0x20000 8 (needLoad 8) = .trap 13 :=
  ⟨⟨.inl ⟨(.ldD, 8, false), by simp [loads], 3, 4, 0, rfl, rfl⟩, clean rfl,
      .inl ⟨(.ldD, 8, false), by simp [loads], 3, 4, 0, rfl, by decide +kernel, rfl, rfl, rfl⟩⟩,
    by decide +kernel, .inl rfl,
    .inr (.inr (.inl ⟨(.stDRl, 8, true), by simp [stores], 3, 7, 0, rfl, by decide +kernel, rfl, by decide +kernel, rfl⟩)),
    .inr (.inr (.inr (.inr ⟨(.amoAdd, _), .head _, 3, 1, 6, 0, 2, 1, rfl, by decide +kernel, rfl, rfl,
      .inr ⟨by decide, rfl, by decide +kernel⟩⟩))), .inl rfl, clean rfl, by decide +kernel, by decide +kernel, by decide +kernel, by decide +kernel, by decide +kernel,
    by decide +kernel, by decide +kernel⟩

/-! Control registers and traps -/

theorem witness_ControlRegisterReads :
    operands.stop = none ∧ isPrivReg 0x040 = true ∧ operands.hart.sup = true ∧ isVecReadReg 0x000 = true ∧ operands.hart.vq = [] ∧
      (∀ n, pendingCtl operands.hart.cv.acts n = none) ∧ operands.hart.pmode = false ∧
      (let s := machine { scalar [] with vq := [{}], cv := { live := true, acts := [{ w := 0x74004002, c0 := 5 }] } }
       s.hart.vq ≠ [] ∧ s.hart.cv.live = true) ∧
      (let s := machine { scalar [] with cv := { live := true, acts := [{ w := 0x74004002, c0 := 5 }] } }
       pendingCtl s.hart.cv.acts 2 = some 5 ∧ s.hart.vq = []) :=
  ⟨rfl, by decide +kernel, by decide +kernel, by decide +kernel, rfl, fun _ => rfl, by decide +kernel, by decide +kernel, by decide +kernel⟩

theorem witness_ControlRegisterWrites :
    operands.stop = none ∧ Clean operands [1] ∧ operands.hart.sup = true ∧ isVecCtlReg 0x001 = true ∧ slotsBefore operands = false ∧
      isVecReadReg 0x001 = true ∧ operands.hart.vq = [] ∧ operands.hart.status ≠ .waiting .register ∧
      (∀ n, pendingCtl operands.hart.cv.acts n = none) ∧ ctlForms ≠ [] ∧ maskedRegs ≠ [] ∧ 0x0F2 ∈ readOnlyRegs :=
  ⟨rfl, clean rfl, by decide +kernel, by decide +kernel, by decide +kernel, by decide +kernel, rfl, nofun, fun _ => rfl, nofun, nofun,
    by decide⟩

theorem witness_UserModeIsRefused :
    let s := machine { scalar [] with hstat := 0x8 }
    s.stop = none ∧ TrapRoom s ∧ s.hart.sup = false ∧ isPrivReg 0x049 = true :=
  ⟨rfl, .inl rfl, by decide +kernel, by decide +kernel⟩

theorem witness_SystemCallAndBreak :
    operands.stop = none ∧ TrapRoom operands ∧ actsLeft operands = false ∧ operands.hart.brkHalt = false ∧
      actsLeft (machine { scalar [] with cv := { live := true, slot := 3, acts := [{}] } }) = true ∧
      (machine { scalar [] with brkHalt := true }).hart.brkHalt = true :=
  ⟨rfl, .inl rfl, by decide +kernel, rfl, by decide +kernel, rfl⟩

theorem witness_ReturnFromTrap :
    let s := machine { scalar [] with hstat := 0x99, shadow := [{ pc := 0x100 }], epc := 0x110 }
    let t := machine { scalar [] with hstat := 0x99, epc := 0x110, saved := { live := true, base := 0x100, slot := 4, npc := 0x110 } }
    s.stop = none ∧ s.hart.sup = true ∧ actsLeft s = false ∧ s.hart.vres = true ∧ commitWaits s.hart.saved = false ∧
      actsLeft t = false ∧ commitWaits t.hart.saved = true ∧ t.hart.epc &&& 0xFFFFFFFFFFFFFFF0 = t.hart.saved.npc ∧
      wfld t.hart.epc 2 2 = 0 := by decide +kernel

theorem witness_SystemInstructions :
    let s := machine { scalar [] with pend := [{ code := 1, tval := 0 }] }
    s.hart.pend ≠ [] ∧ operands.hart.pend = [] ∧ operands.hart.answer = none ∧ operands.hart.status = .running ∧
      (releaseState operands).stop = none ∧ unperformed (releaseState operands) = false ∧ operands.hart.sup = true ∧
      Clean operands [1, 2] :=
  ⟨nofun, rfl, rfl, rfl, rfl, by decide +kernel, by decide +kernel, clean rfl⟩

/-- `l1.inv` of the last line of its page, which the cache holds, and of every line; `tlb.inv` beside a stream and a convoy of
other harts, whose translations it does not name. -/
theorem witness_SystemInstructions_caches :
    (let s : State :=
      { machine (scalar [(1, 0x3FF80), (2, 0xFFFFFFFFFFFFFFFF)]) with
        tlb := [{ core := 0, l2 := false, asid := 0, vpage := 1, size := 17, leaf := 0x2000000F }]
        cores := [(0, { dcache := [0x2001FF80 / 128, 5] })] }
     wfld (getS s 1) 52 12 = 0 ∧ inWindow (getS s 1) = false ∧
       translateAs s (wfld s.hart.asid 0 16) s.hart.ptbase (getS s 1) = .leaf 0x2000000F 17 ∧
       leafPa 0x2000000F 17 (getS s 1) / 128 ∈ (getCore s 0).dcache ∧ wbit (getS s 2) 63 = true) ∧
    (let s : State :=
      { machine (scalar [(1, 0x20000), (2, 7)]) with
        cores := [(1, { cq := [(0, { phase := 1, hart := 9, asid := 3, src := 0x20000, dst := 0x40000, bytes := 64 })] })]
        parked := [(9, { asid := 3, vq := [{ acts := [{}] }] })] }
     (∀ x ∈ s.cores, coreCovered 0 (myCore s) x.1 = true → ∀ q ∈ x.2.cq,
        streamUnder (getS s 1) (getS s 2) (tlbGone (getS s 1) (getS s 2) 0 s) q.2 = false) ∧
      (∀ n ∈ s.hn :: s.parked.map (·.1), coreCovered 0 (myCore s) (coreOf n) = true →
        queueUnder (getS s 1) (getS s 2) (tlbGone (getS s 1) (getS s 2) 0 s) n s = false)) := by decide +kernel

/-! Lengths, tasks, futures, barriers and channels -/

/-- Hart 0 owns group 0 of its core, 4 lanes. -/
def granted : State :=
  { machine { vector 0b10010 8 5 0x112 0 [(0, 1)] with req := 1, vtype := 0b10010 } with
    cores := [(0, { owners := [(0, 1)] })] }

theorem witness_LengthAndDeclarations :
    Issuing granted ∧ GrantStands (wfld (cap1 granted) 8 5) granted ∧ granted.hart.vanswer = none ∧
      granted.hart.ring = none :=
  ⟨issuing (by decide +kernel), ⟨rfl, by decide +kernel, by decide +kernel, by decide +kernel⟩, rfl, rfl⟩

/-- A gang of one; a hart that owns all 16 groups, so that the default share stands; a member that has been answered. -/
def alone : State :=
  { granted with cores := [(0, { owners := (List.range 16).map (fun g => (g, 1)) })] }
theorem witness_LengthAndDeclarations_others :
    myGang alone = [mySeat alone] ∧ GrantStands 0 alone ∧
      ({ granted with hart := { granted.hart with vanswer := some (4, 1) } } : State).hart.vanswer = some (4, 1) :=
  ⟨by decide +kernel, ⟨rfl, by decide +kernel, by decide +kernel, by decide +kernel⟩, rfl⟩

/-- `vdecl.buf` at the last place at which the ring fits, and one register beyond it. -/
theorem witness_LengthAndDeclarations_ring :
    ((48 : BitVec 6).toNat % 2 ^ (1 : BitVec 2).toNat = 0 ∧
      (48 : BitVec 6).toNat + ((7 : BitVec 5).toNat + 1) * 2 ^ (1 : BitVec 2).toNat ≤ granted.hart.vnreg) ∧
    ¬((50 : BitVec 6).toNat % 2 ^ (1 : BitVec 2).toNat = 0 ∧
      (50 : BitVec 6).toNat + ((7 : BitVec 5).toNat + 1) * 2 ^ (1 : BitVec 2).toNat ≤ granted.hart.vnreg) := by decide +kernel

/-- A hart with a page of ordinary memory and one for futures. -/
def pages : State :=
  { machine (scalar [(1, 0x20000), (2, 639), (3, 640), (4, 0x40000), (5, 7)]) with
    tlb := [{ core := 0, l2 := false, asid := 0, vpage := 1, size := 17, leaf := 0x2000000F },
      { core := 0, l2 := false, asid := 0, vpage := 2, size := 17, leaf := 0x2002020F }] }

theorem witness_TaskPostAndTake :
    pages.stop = none ∧ pages.hart.pmode = false ∧ Clean pages [1, 2] ∧ 640 ≤ (getS pages 3).toNat ∧ (getS pages 2).toNat < 640 ∧
      unperformed (releaseState pages) = false ∧
      ScalarAccess { rd := true, mtMax := 0, window := false, always := true, align := 128 } (getS pages 1) 128 (.pa 0x20000000) 0 false
        (releaseState pages) ∧
      (let w := accessState (getS pages 1) false (.pa 0x20000000) 0 128 false (releaseState pages)
       w.stop = none ∧ (getQueue w 639).en = false) :=
  ⟨rfl, by decide +kernel, clean rfl, by decide +kernel, by decide +kernel, by decide +kernel,
    accessOk (by decide +kernel), by decide +kernel⟩

/-- The queue enabled, with a record that is well-formed, malformed, and a queue that has failed to spill. -/
def posted (q : Queue) (m : List Host.Cell) : State :=
  accessState 0x20000 false (.pa 0x20000000) 0 128 false (releaseState { pages with queues := [(639, q)], mem := m })
def enabled : Queue := { ctl := 0x8000000000000000 }
theorem witness_TaskPostAndTake_statuses :
    (let w := posted enabled [(0x2000000E, 1)]
     (getQueue w 639).en = true ∧ malformed (getBytes w 0x20000000 128) = true) ∧
    (let w := posted { enabled with spf := true } []
     (getQueue w 639).en = true ∧ malformed (getBytes w 0x20000000 128) = false ∧ (getQueue w 639).spf = true) ∧
    (let w := posted { enabled with onchip := List.replicate 31 {} } []
     (getQueue w 639).en = true ∧ malformed (getBytes w 0x20000000 128) = false ∧ (getQueue w 639).spf = false ∧
       (getQueue w 639).onchip.length < 32 ∧ (getQueue w 639).spilled = 0) := by decide +kernel

theorem witness_TaskPostAndTake_take :
    ({ pages with hart := { pages.hart with answer := some (8, 0) } } : State).hart.answer = some (8, 0) ∧ strips.hart.answer = none ∧
      strips.hart.pmode = false ∧ strips.hart.bound.isSome = true ∧ TrapRoom strips :=
  ⟨rfl, rfl, by decide +kernel, rfl, .inl rfl⟩

/-- The bound task of `strips` has elements left; the same task with none. -/
theorem witness_StripGrant :
    strips.stop = none ∧ Clean strips [0] ∧ strips.hart.bound = some { queue := 3, tid := 0 } ∧ typePending strips.hart = false ∧
      strips.hart.vill = false ∧ slotsBefore strips = false ∧ min (getTask strips 3 0).trem strips.hart.maxVl ≠ 0 ∧
      (getTask { strips with tasks := [] } 3 0).trem = 0 :=
  ⟨rfl, clean rfl, rfl, by decide +kernel, by decide +kernel, by decide +kernel, by decide +kernel, rfl⟩

/-- The last member of a task, and a member beside another. -/
def member (ms : List Member) : State := { strips with tasks := [(taskKey 3 0, { members := ms })] }
theorem witness_TaskEnds :
    (let s := member [.hart 0]
     let u := releaseState s
     let w := settleOwing (getTask u 3 0) u
     s.stop = none ∧ otherMembers s (getTask s 3 0) = [] ∧ unperformed u = false ∧ (getTask w 3 0).owing.any (stillOwes w) = false ∧
       w.stop = none ∧ recField (getTask w 3 0).rc.bytes 104 8 = 0) ∧
    (releaseState (member [.hart 0, .hart 31])).stop = none ∧ otherMembers (member [.hart 0, .hart 31]) (getTask (member [.hart 0, .hart 31]) 3 0) ≠ [] := by decide +kernel

/-- A task yielded to a queue with 32 records on chip, whose ring has room, and whose ring is full. -/
def yielding (spilled : Nat) : State :=
  { walkMem with
    hart := { walkMem.hart with bound := some { queue := 3, tid := 0 } }
    tasks := [(taskKey 3 0, { members := [.hart 0] })]
    queues := [(3, { ctl := 0x8000000000000000, ring := 0x46028540000, ptb := 0x400000, onchip := List.replicate 32 {}, spilled := spilled })] }
theorem witness_TaskEnds_yield :
    otherMembers (yielding 0) (getTask (yielding 0) 3 0) = [] ∧ 32 ≤ (getQueue (yielding 0) 3).onchip.length ∧
      (let l := leaveTask { queue := 3, tid := 0 } (resumeHere (yielding 0))
       (unspill 3 ((getQueue (yielding 0) 3).onchip.getLastD {}) l).any (fun w => w.stop.isNone) = true) ∧
      unspill 3 ((getQueue (yielding 1024) 3).onchip.getLastD {}) (leaveTask { queue := 3, tid := 0 } (resumeHere (yielding 1024))) = none ∧
      (getQueue (member [.hart 0]) 3).onchip.length < 32 := by decide +kernel

theorem witness_Futures :
    Clean pages [4, 5] ∧ pages.hart.answer = none ∧ pages.deferred.any (fun x => x.hart = pages.hn) = false ∧
      ScalarAccess (needFut true false) (getS pages 4) 8 (.pa 0x20020000) 0 false pages ∧
      ScalarAccess (needFut false true) (getS pages 4) 8 (.pa 0x20020000) 0 false pages ∧
      (let v := accessState (getS pages 4) false (.pa 0x20020000) 0 8 false pages
       buffered v (.pa 0x20020000) 8 = false ∧ v.stop = none) ∧
      (let v := accessState (getS pages 4) false (.pa 0x20020000) 0 8 true pages
       let u := releaseState v
       u.stop = none ∧ unperformed u = false ∧ (drainStores v).stop = none ∧ (drainStores v).hart.storeBuf = []) ∧
      isFull { pages with full := [(0x20020000 / 8, true)] } 0x20020000 = true ∧ isFull pages 0x20020000 = false ∧
      deferredAt pages (homeOf 0x20020000) < 256 :=
  ⟨clean rfl, rfl, rfl, accessOk (by decide +kernel), accessOk (by decide +kernel),
    by decide +kernel, by decide +kernel, by decide +kernel, by decide +kernel, by decide +kernel⟩

theorem witness_Futures_full :
    (let s : State := { pages with deferred := List.replicate 256 { hart := 9, pa := 0x20020000, d := 0, b := 0 } }
     s.deferred.any (fun x => x.hart = s.hn) = false ∧ 256 ≤ deferredAt s (homeOf 0x20020000)) ∧
    (∀ st : Word, ({ pages with hart := { pages.hart with answer := some (3, st) } } : State).hart.answer = some (3, st)) :=
  ⟨by decide +kernel, fun _ => rfl⟩

/-- Hart 0 and its gang of 16; the same when the others have arrived. -/
def gathered (arrived : Bool) : State :=
  { pages with
    parked := (List.range 15).map (fun k => (k + 1, { arrived := arrived }))
    clusters := [(0, { gid := (List.range 16).map (fun k => (k, 1)) })] }
theorem witness_FencesAndBarrier :
    (let u := fencedState 7 pages
     u.stop = none ∧ u.hart.storeBuf = [] ∧ inFlight u u.hn = [] ∧ queuedKinds u.hart 7 = false) ∧
      (sendAll pages.hn pages).stop = none ∧ inFlight (sendAll pages.hn pages) pages.hn = [] ∧ pages.hart.vq = [] ∧ pages.hart.mq = [] ∧
      (let e : VqEntry := { acts := [{ w := 0x80A63800 }] }
       !slotDone e 0 && majOf (0x80A63800 : BitVec 32).toNat = 0x35) = false ∧
      (let u := releaseState pages
       let me := Member.hart u.hn
       u.stop = none ∧ unperformed u = false ∧ u.hart.pendArrivals = [] ∧ (getCore u (myCore u)).comb = [] ∧ u.hart.shadow = [] ∧
         u.hart.smq = [] ∧ (∀ x ∈ gangHolders u me, (barrierOf u x).heldArrivals = [])) ∧
      (releaseState pages).hart.arrived = false ∧
      (let u := releaseState (gathered false)
       ∃ n ∈ myGang u, n ≠ mySeat u ∧ (holderOf u (.hart u.hn) n).all (fun x => !(barrierOf u x).arrived) = true) ∧
      (let u := releaseState (gathered true)
       ∀ n ∈ myGang u, n ≠ mySeat u → (holderOf u (.hart u.hn) n).any (fun x => (barrierOf u x).arrived) = true) ∧
      (let u := releaseState { pages with hart := { pages.hart with shadow := [{}], frozenAt := 0 }, order := 1 }
       u.hart.frozenAt < u.order ∧ unperformed u = false) :=
  ⟨by decide +kernel, by decide +kernel, by decide +kernel, rfl, rfl, by decide +kernel, by decide +kernel, by decide +kernel,
    by decide +kernel, by decide +kernel, by decide +kernel⟩

theorem witness_FencesAndBarrier_wait :
    phasePassed pages.hart = true ∧ pages.hart.gerr = false ∧
      (let s : State := { pages with hart := { pages.hart with joined := some 7, phase := 7, gerr := true } }
       phasePassed s.hart = true ∧ s.hart.gerr = true ∧ s.hart.joined.isSome = true ∧ TrapRoom s) :=
  ⟨by decide +kernel, rfl, by decide +kernel, rfl, rfl, .inl rfl⟩

/-- The last channel of each kind, with a token; and no channel. -/
def channels : State :=
  { pages with
    hart := { pages.hart with sregs := [(1, 255), (2, 256), (4, 0x20000), (5, 0)] }
    ingress := [(255, { ctl := 0x8000000000000000, tokens := [(9, 5)] })]
    egress := [(255, { ctl := 0xA000000000000000, tokens := List.replicate 63 (0, 0) })] }
theorem witness_ChannelsAndSheaves :
    channels.hart.pmode = false ∧ Clean channels [1, 5] ∧ badChannel channels (getS channels 1) (getIn channels 255) = false ∧
      (getIn channels 255).isBound = false ∧ (getIn channels 255).tokens = (9, 5) :: [] ∧
      badChannel channels (getS channels 2) (getIn channels 256) = true ∧ TrapRoom channels ∧
      badChannel channels (getS channels 1) (getOut channels 255) = false ∧ (releaseState channels).stop = none ∧
      unperformed (releaseState channels) = false ∧ (getOut channels 255).tokens.length < 64 :=
  ⟨by decide +kernel, clean rfl, by decide +kernel, by decide +kernel, rfl, by decide +kernel, .inl rfl, by decide +kernel,
    by decide +kernel, by decide +kernel, by decide +kernel⟩
theorem witness_ChannelsAndSheaves_header :
    ScalarAccess { rd := true, mtMax := 0, window := false, always := true, align := 8 } (getS channels 4) 8 (.pa 0x20000000) 0 false
      channels ∧
      (let u := accessState (getS channels 4) false (.pa 0x20000000) 0 8 false channels
       u.stop = none ∧ partlyBuffered u (.pa 0x20000000) 8 = false ∧
         headerReached (word (ownRead u (.pa 0x20000000) 8)) (getS channels 5) = true ∧
         headerReached (word (ownRead u (.pa 0x20000000) 8)) 7 = false) :=
  ⟨accessOk (by decide +kernel), by decide +kernel⟩

/-! Vector arithmetic -/

/-- Elements of 8 bits, all of 256, at the last groups of the file. -/
def bytes8 : State := machine (vector 0b00000 256 0 3 0 [])

theorem witness_IntegerElementwise :
    VectorReady bytes8 ∧ bytes8.hart.plane = false ∧ intOps ≠ [] ∧ intOpsI ≠ [] ∧ intShiftsI ≠ [] ∧
      (let w := bytes8.hart.sew
       (max 1 1 * w ≤ 64 ∧ GroupsOk bytes8 63 (1 * w) [(63, 1 * w), (0, w)]) ∧
       (max 2 1 * w ≤ 64 ∧ GroupsOk bytes8 62 (2 * w) [(0, 1 * w), (1, w)]) ∧
       (max 1 2 * w ≤ 64 ∧ GroupsOk bytes8 63 (1 * w) [(0, 2 * w), (2, w)])) :=
  ⟨ready (by decide +kernel) (by decide +kernel) (by decide +kernel) (by decide +kernel), by decide +kernel, nofun, nofun, nofun,
    ⟨by decide +kernel, ⟨by decide +kernel, by decide +kernel, by decide +kernel, nofun⟩⟩,
    ⟨by decide +kernel, ⟨by decide +kernel, by decide +kernel, by decide +kernel, nofun⟩⟩,
    ⟨by decide +kernel, ⟨by decide +kernel, by decide +kernel, by decide +kernel, nofun⟩⟩⟩

theorem witness_IntegerElementwise_scalar :
    (let w := bytes8.hart.sew
     GroupsOk bytes8 63 (1 * w) [(63, 1 * w)] ∧ GroupsOk bytes8 62 (2 * w) [(0, 1 * w)] ∧ GroupsOk bytes8 63 (1 * w) [(0, 2 * w)] ∧
       GroupsOk bytes8 63 w [(63, w)]) :=
  ⟨⟨by decide +kernel, by decide +kernel, by decide +kernel, nofun⟩, ⟨by decide +kernel, by decide +kernel, by decide +kernel, nofun⟩,
    ⟨by decide +kernel, by decide +kernel, by decide +kernel, nofun⟩, ⟨by decide +kernel, by decide +kernel, by decide +kernel, nofun⟩⟩

/-- Elements of 32 bits with a format word. -/
def floats (w : Word) : State := machine (vector 0b00010 64 0 0 w [])

/-- Every operation admits FP32 throughout, or, for `vfscale`, an INT32 b. -/
theorem witness_FloatElementwise_formats : ∀ x ∈ floatOps, x.ok 0x111 ∨ x.ok 0x1C1 := by
  intro x hx
  simp only [floatOps, List.mem_cons, List.not_mem_nil, or_false] at hx
  rcases hx with rfl | rfl | rfl | rfl | rfl | rfl | rfl | rfl | rfl | rfl | rfl | rfl | rfl | rfl | rfl | rfl | rfl | rfl | rfl | rfl <;>
  first
  | (left; simp only [binOk, unOk, fmtReserved, fmtRounds]; decide +kernel)
  | (right; simp only [fmtReserved, fmtRounds]; decide +kernel)

theorem witness_FloatElementwise :
    VectorReady (floats 0x111) ∧ (floats 0x111).hart.plane = false ∧
      GroupsOk (floats 0x111) 63 32 [(0, 32), (1, 32), (63, 32)] ∧ GroupsOk (floats 0x111) 63 32 [(62, 32)] :=
  ⟨ready (by decide +kernel) (by decide +kernel) (by decide +kernel) (by decide +kernel), by decide +kernel,
    ⟨by decide +kernel, by decide +kernel, by decide +kernel, nofun⟩, ⟨by decide +kernel, by decide +kernel, by decide +kernel, nofun⟩⟩

theorem witness_FloatConversion :
    (let s := floats 0x151
     VectorReady s ∧ badCvt s.hart.vnreg (cap2 s) = false ∧ fmtBsd (cap2 s) = 0 ∧ fmtBsa (cap2 s) = 0 ∧
       GroupsOk s 63 (fmtStore (fmtD (cap2 s))) [(62, fmtStore (fmtA (cap2 s)))]) ∧
    (let s := floats (word (0x155 + 2 ^ 18 + 63 * 2 ^ 24))
     badCvt s.hart.vnreg (cap2 s) = false ∧ fmtBsd (cap2 s) = 0 ∧ fmtBsa (cap2 s) = 1 ∧
       (ringOkSrc s (fmtSreg (cap2 s)) 1 = true ∧ overlaps 62 (extent s (fmtStore (fmtD (cap2 s)))) (fmtSreg (cap2 s)) 1 = false)) :=
  ⟨⟨ready (by decide +kernel) (by decide +kernel) (by decide +kernel) (by decide +kernel), by decide +kernel, by decide +kernel,
    by decide +kernel, ⟨by decide +kernel, by decide +kernel, by decide +kernel, nofun⟩⟩, by decide +kernel⟩

/-- Destination scales: the source in v62, the elements in v63, the scales in v42. -/
theorem witness_FloatConversion_scales :
    (let s := floats (word (0x501 + 2 ^ 22 + 40 * 2 ^ 24)); let w := cap2 s
     VectorReady s ∧ s.hart.plane = false ∧ badCvt s.hart.vnreg w = false ∧ fmtBsd w = 1 ∧ fmtBsa w = 0 ∧ fmtSreg w + 2 = 42 ∧
       GroupsOk s 63 (fmtStore (fmtD w)) [(62, fmtStore (fmtA w))] ∧ vlN s ≤ s.hart.maxVl ∧ inRing s 42 1 = false ∧
       overlaps 63 (extent s (fmtStore (fmtD w))) 42 1 = false ∧ overlaps 42 1 62 (extent s (fmtStore (fmtA w))) = false ∧
       s.hart.iss.dests = []) :=
  ⟨ready (by decide +kernel) (by decide +kernel) (by decide +kernel) (by decide +kernel), by decide +kernel, by decide +kernel,
    by decide +kernel, by decide +kernel, by decide +kernel, ⟨by decide +kernel, by decide +kernel, by decide +kernel, nofun⟩,
    by decide +kernel⟩

theorem witness_VectorCompares :
    (let s := floats 0x111
     VectorReady s ∧ s.hart.plane = false ∧ srcOk s 63 s.hart.sew = true ∧ srcOk s 0 s.hart.sew = true ∧ fmtReserved (cap2 s) ∧
       fmtA (cap2 s) ≤ 3 ∧ fmtB (cap2 s) ≤ 3 ∧ srcOk s 63 (fmtStore (fmtA (cap2 s))) = true) :=
  ⟨ready (by decide +kernel) (by decide +kernel) (by decide +kernel) (by decide +kernel), by decide +kernel, by decide +kernel,
    by decide +kernel, by unfold fmtReserved; decide +kernel, by decide +kernel, by decide +kernel, by decide +kernel⟩

theorem witness_MaskLogic : Issuing bytes8 ∧ bytes8.hart.vill = false ∧ maskOps ≠ [] :=
  ⟨issuing (by decide +kernel), by decide +kernel, nofun⟩

theorem witness_ValuesForScalars :
    (machine packing).hart.mpois = [] ∧ (machine packing).hart.vpois = [] ∧ Issuing (machine packing) ∧
      (machine packing).hart.plane = false ∧ srcOk (machine packing) 63 (machine packing).hart.sew = true :=
  ⟨rfl, rfl, issuing (by decide +kernel), by decide +kernel, by decide +kernel⟩

theorem witness_Permutes :
    VectorReady (machine packing) ∧ PermuteOk (machine packing) 63 [] [] ∧ PermuteOk (machine packing) 63 [63] [] ∧
      PermuteOk (machine packing) 63 [4, 6] [] ∧ PermuteOk (machine packing) 63 [4, 6] [4] ∧ PermuteOk (machine packing) 63 [62] [62] :=
  ⟨ready (by decide +kernel) (by decide +kernel) (by decide +kernel) (by decide +kernel),
    ⟨⟨by decide +kernel, by decide +kernel, by decide +kernel, nofun⟩, by decide +kernel⟩,
    ⟨⟨by decide +kernel, by decide +kernel, by decide +kernel, nofun⟩, by decide +kernel⟩,
    ⟨⟨by decide +kernel, by decide +kernel, by decide +kernel, nofun⟩, by decide +kernel⟩,
    ⟨⟨by decide +kernel, by decide +kernel, by decide +kernel, nofun⟩, by decide +kernel⟩,
    ⟨⟨by decide +kernel, by decide +kernel, by decide +kernel, nofun⟩, by decide +kernel⟩⟩

theorem witness_PackingAndSlides :
    VectorReady (machine packing) ∧ (machine packing).hart.plane = false ∧ PermuteOk (machine packing) 8 [] [] ∧
      PermuteOk (machine packing) 8 [4] [4] :=
  ⟨ready (by decide +kernel) (by decide +kernel) (by decide +kernel) (by decide +kernel), by decide +kernel,
    ⟨⟨by decide +kernel, by decide +kernel, by decide +kernel, nofun⟩, by decide +kernel⟩,
    ⟨⟨by decide +kernel, by decide +kernel, by decide +kernel, nofun⟩, by decide +kernel⟩⟩

theorem witness_Reductions :
    VectorReady bytes8 ∧ startsWhole bytes8 ∧ srcOk bytes8 63 bytes8.hart.sew = true ∧ dstOk bytes8 63 bytes8.hart.sew = true ∧
      bytes8.hart.iss.dests = [] ∧ intReductions ≠ [] :=
  ⟨ready (by decide +kernel) (by decide +kernel) (by decide +kernel) (by decide +kernel), .inl rfl, by decide +kernel,
    by decide +kernel, rfl, nofun⟩

theorem witness_Reductions_float :
    (let s := machine addends
     VectorReady s ∧ startsWhole s ∧ unOk (cap2 s) ∧ srcOk s 4 (fmtStore (fmtA (cap2 s))) = true ∧
       dstOk s 8 (fmtStore (fmtD (cap2 s))) = true ∧ s.hart.iss.dests = [] ∧ floatReductions ≠ [] ∧ activeList s 0 ≠ [] ∧
       activeList s 1 = []) :=
  ⟨ready (by decide +kernel) (by decide +kernel) (by decide +kernel) (by decide +kernel), .inl rfl,
    by simp only [unOk, fmtReserved, fmtRounds]; decide +kernel, by decide +kernel, by decide +kernel, rfl, nofun, by decide +kernel,
    by decide +kernel⟩

/-! Bit planes and batches -/

theorem planeReady {s : State} (h : issues s = true) (l : 64 ≤ s.hart.vlmax) (v : s.hart.vill = false)
    (t : vtypeOk s.hart.vtype.toNat = true) (p : s.hart.plane = true) (n : vlN s ≤ s.hart.vlmax) : PlaneReady s :=
  ⟨ready h l v t, p, n⟩

theorem witness_BitPlanes :
    (let s := machine planes
     PlaneReady s ∧ descriptorOk (cap1 s) ∧ bpCc (cap1 s) ≤ 5 ∧ planeOps ≠ [] ∧
       PlanesOk s 16 (bpNd (cap1 s)) [(0, bpNa (cap1 s)), (bpVb (cap1 s), bpNb (cap1 s)), (16, bpNd (cap1 s))] ∧
       PlanesOk s 63 1 [(0, bpNa (cap1 s)), (bpVb (cap1 s), bpNb (cap1 s))]) :=
  ⟨planeReady (by decide +kernel) (by decide +kernel) (by decide +kernel) (by decide +kernel) (by decide +kernel) (by decide +kernel),
    by unfold descriptorOk; decide +kernel, by decide +kernel, nofun, ⟨by decide +kernel, by decide +kernel, by decide +kernel, nofun⟩,
    ⟨by decide +kernel, by decide +kernel, by decide +kernel, nofun⟩⟩

theorem witness_BitPlanes_transposes :
    (let s := machine planes
     (PlanesOk s 16 (bpNd (cap1 s)) [] ∧ 56 % 8 = 0 ∧ 56 + 8 ≤ s.hart.vnreg ∧ vlN s * bpEwb (cap1 s) ≤ 8 * s.hart.vlmax ∧
       bpNd (cap1 s) ≤ bpEwb (cap1 s) ∧ ringOkSrc s 56 8 = true ∧ overlaps 16 (bpNd (cap1 s)) 56 8 = false) ∧
     (60 + bpNa (cap1 s) ≤ s.hart.vnreg ∧ ringOkSrc s 60 (bpNa (cap1 s)) = true ∧ 48 % 8 = 0 ∧ 48 + 8 ≤ s.hart.vnreg ∧
       bpNa (cap1 s) ≤ bpEwb (cap1 s) ∧ inRing s 48 8 = false ∧ overlaps 48 8 60 (bpNa (cap1 s)) = false ∧ s.hart.iss.dests = [])) :=
  ⟨⟨⟨by decide +kernel, by decide +kernel, by decide +kernel, nofun⟩, by decide +kernel⟩, by decide +kernel⟩

theorem witness_BatchedMatrices :
    (let s := machine (vector 0b00001 2 0 0 0x222 [])
     VectorReady s ∧ s.hart.plane = false ∧ batchFormat (cap2 s) ∧ BatchOk s 8 4 5 64 64 64 (cap2 s) ∧
       BatchOk s 8 4 5 64 8 8 (cap2 s)) ∧
    batchFormat 0xC99 :=
  ⟨⟨ready (by decide +kernel) (by decide +kernel) (by decide +kernel) (by decide +kernel), by decide +kernel,
    by simp only [batchFormat, fmtReserved, fmtRounds]; decide +kernel,
    ⟨⟨by decide +kernel, by decide +kernel, by decide +kernel, nofun⟩, by decide +kernel, by decide +kernel⟩,
    ⟨⟨by decide +kernel, by decide +kernel, by decide +kernel, nofun⟩, by decide +kernel, by decide +kernel⟩⟩,
    by simp only [batchFormat, fmtReserved, fmtRounds]; decide +kernel⟩

/-! Vector memory -/

/-- Two elements of 32 bits at the start of the window, by unit, by stride 4 and by the indices 0 and 1 in v12. -/
def strip2 : State := machine (vector 0b00010 2 (win 0) 4 0 [(12, BitVec.ofNat 65536 (2 ^ 32))])

theorem strip2_ready : VectorReady strip2 :=
  ready (by decide +kernel) (by decide +kernel) (by decide +kernel) (by decide +kernel)
theorem strip2_quiet : Quiet strip2 := quiet (by decide +kernel) (by decide +kernel) rfl rfl

theorem witness_VectorLoads :
    loadForms ≠ [] ∧ VectorReady strip2 ∧ strip2.hart.plane = false ∧ Quiet strip2 ∧ vlN strip2 ≤ strip2.hart.maxVl ∧
      memWidth strip2 7 ≤ 64 ∧ LoadGroup strip2 63 (memWidth strip2 7) ∧ IndexGroup strip2 63 (memWidth strip2 7) 12 ∧
      LoadsAt (ActsOn 0 strip2) (formNeed (needLoad 4) false) 4 (unitAddr strip2 0 4) (fun i => .tile (4 * i)) strip2 ∧
      LoadsAt (ActsOn 0 strip2) (formNeed (needLoad 4) false) 4 (strideAddr strip2 0 4) (fun i => .tile (4 * i)) strip2 ∧
      LoadsAt (ActsOn 0 strip2) (formNeed (needLoad 4) true) 4 (indexAddr strip2 12 4) (fun i => .tile (4 * i)) strip2 :=
  ⟨nofun, strip2_ready, by decide +kernel, strip2_quiet, by decide +kernel, by decide +kernel,
    ⟨by decide +kernel, .inl (by decide +kernel), nofun⟩, ⟨by decide +kernel, .inl (by decide +kernel), .inl (by decide +kernel)⟩,
    loadsAt 2 (fun _ h => h.2.1) (by decide +kernel), loadsAt 2 (fun _ h => h.2.1) (by decide +kernel),
    loadsAt 2 (fun _ h => h.2.1) (by decide +kernel)⟩

/-- `vldff` over all of `vl`; up to an element on the next page; at a page of memory type 2. -/
def strip64 : State := edgeOfPage 0x1FFC0
theorem witness_VectorLoads_first :
    VectorReady strip64 ∧ Quiet strip64 ∧ GroupsOk strip64 63 (memWidth strip64 2) [] ∧ 16 ≤ vlN strip64 ∧ firstElem strip64 < 16 ∧
      (List.range 16).all (fun i =>
        decide (check strip64 (unitAddr strip64 0 4 i) 4 (needLoad 4) = .ok (.pa (0x2001FFC0 + 4 * i)) 0 false)) = true ∧
      ActsOn 0 strip64 16 ∧ check strip64 (unitAddr strip64 0 4 16) 4 (needLoad 4) = .trap 13 ∧
      (List.range 2).all (fun i => decide (check strip2 (unitAddr strip2 0 4 i) 4 (needLoad 4) = .ok (.tile (4 * i)) 0 false)) = true ∧
      vlN strip2 = 2 :=
  ⟨ready (by decide +kernel) (by decide +kernel) (by decide +kernel) (by decide +kernel),
    quiet (by decide +kernel) (by decide +kernel) rfl rfl, ⟨by decide +kernel, nofun, nofun, nofun⟩, by decide +kernel, by decide +kernel,
    by decide +kernel, ⟨by decide +kernel, by decide +kernel, by decide +kernel⟩, by decide +kernel, by decide +kernel, by decide +kernel⟩

theorem witness_VectorLoads_device :
    (let s : State := { edgeOfPage 0 with
       tlb := [{ core := 0, l2 := false, asid := 0, vpage := 0, size := 17, leaf := 0x2000010F }] }
     ActsOn 0 s 0 ∧ check s (unitAddr s 0 4 0) 4 (needLoad 4) = .ok (.pa 0x20000000) 2 false ∧ firstElem s = 0) :=
  ⟨⟨by decide +kernel, by decide +kernel, by decide +kernel⟩, by decide +kernel, by decide +kernel⟩

/-- A whole plane at a pitch of 72 bits from bit 8. -/
def planeMem : State := machine (vector 4 65 (win 0) (word (8 + 72 * 2 ^ 32)) 0 [])
theorem witness_VectorLoads_planes :
    VectorReady planeMem ∧ planeMem.hart.plane = true ∧ Quiet planeMem ∧ pitchOk planeMem ∧ inRing planeMem 63 1 = false ∧
      planeMem.hart.iss.dests = [] ∧
      LoadsAt (PlaneActs 0 planeMem) (needLoad 1) 1 (fun i => cap0 planeMem + word (bitOfPlane planeMem i / 8))
        (fun i => .tile (bitOfPlane planeMem i / 8)) planeMem :=
  ⟨ready (by decide +kernel) (by decide +kernel) (by decide +kernel) (by decide +kernel), by decide +kernel,
    quiet (by decide +kernel) (by decide +kernel) rfl rfl, by unfold pitchOk; decide +kernel, by decide +kernel, rfl,
    loadsAt 65 (fun _ h => h.2.1) (by decide +kernel)⟩

/-- The image of a register of 2,048 bits. -/
def imageMem : State := { planeMem with tiles := [(1, 8), (7, 0x80)] }
theorem witness_VectorLoads_fill :
    Issuing imageMem ∧ Quiet imageMem ∧ inRing imageMem 63 1 = false ∧
      check imageMem (cap0 imageMem) 64 { rd := true, align := 64 } = .ok (.tile 0) 0 false ∧
      accRead imageMem (.tile 0) 8 = 2 ^ 63 + imageMem.hart.vlmax ∧
      LoadsAt (fun i => firstElem imageMem ≤ i ∧ i < imageMem.hart.vlmax / 64) (needLoad 8) 8
        (fun i => cap0 imageMem + word (64 + 8 * i)) (fun i => .tile (64 + 8 * i)) imageMem :=
  ⟨issuing (by decide +kernel), quiet (by decide +kernel) (by decide +kernel) rfl rfl, by decide +kernel, by decide +kernel, by decide +kernel,
    loadsAt 32 (fun _ h => Nat.lt_of_lt_of_eq h.2 (by decide +kernel)) (by decide +kernel)⟩

theorem witness_VectorLoads_fault :
    vlN strip64 ≤ strip64.hart.maxVl ∧ LoadGroup strip64 63 (memWidth strip64 7) ∧
      LoadsAt (fun i => ActsOn 0 strip64 i ∧ i < 16) (formNeed (needLoad 4) false) 4 (unitAddr strip64 0 4)
        (fun i => .pa (0x2001FFC0 + 4 * i)) strip64 ∧
      ActsOn 0 strip64 16 ∧ check strip64 (unitAddr strip64 0 4 16) 4 (formNeed (needLoad 4) false) = .trap 13 :=
  ⟨by decide +kernel, ⟨by decide +kernel, .inl (by decide +kernel), nofun⟩, loadsAt 16 (fun _ h => h.2) (by decide +kernel),
    ⟨by decide +kernel, by decide +kernel, by decide +kernel⟩, by decide +kernel⟩

theorem witness_VectorStores :
    storeForms ≠ [] ∧ srcOk strip2 63 (memWidth strip2 7) = true ∧ srcOk strip2 12 strip2.hart.sew = true ∧
      (∀ i, isReg (.tile (4 * i)) = false) ∧
      StoresAt (ActsOn 0 strip2) (formNeed (needStore 4) false) 4 (unitAddr strip2 0 4) (fun i => .tile (4 * i)) strip2 ∧
      StoresAt (ActsOn 0 strip2) (formNeed (needStore 4) false) 4 (strideAddr strip2 0 4) (fun i => .tile (4 * i)) strip2 ∧
      StoresAt (ActsOn 0 strip2) (formNeed (needStore 4) true) 4 (indexAddr strip2 12 4) (fun i => .tile (4 * i)) strip2 :=
  ⟨nofun, by decide +kernel, by decide +kernel, fun _ => rfl,
    storesAt 2 (fun _ h => h.2.1) (by decide +kernel) rfl (by decide +kernel),
    storesAt 2 (fun _ h => h.2.1) (by decide +kernel) rfl (by decide +kernel),
    storesAt 2 (fun _ h => h.2.1) (by decide +kernel) rfl (by decide +kernel)⟩

/-- Two bits of a plane. -/
def plane2 : State := machine (vector 4 2 (win 0) 7 0 [])
theorem witness_VectorStores_planes :
    VectorReady plane2 ∧ plane2.hart.plane = true ∧ Quiet plane2 ∧ pitchOk plane2 ∧ ringOkSrc plane2 63 1 = true ∧
      StoresAt (PlaneActs 0 plane2) (needStore 1) 1 (fun i => cap0 plane2 + word (bitOfPlane plane2 i / 8))
        (fun i => .tile (bitOfPlane plane2 i / 8)) plane2 :=
  ⟨ready (by decide +kernel) (by decide +kernel) (by decide +kernel) (by decide +kernel), by decide +kernel,
    quiet (by decide +kernel) (by decide +kernel) rfl rfl, by unfold pitchOk; decide +kernel, by decide +kernel,
    storesAt 2 (fun _ h => h.2.1) (by decide +kernel) rfl (by decide +kernel)⟩

/-- A register of 64 bits, so that its image has nine words. -/
def lane1 : State := machine { vector 4 2 (win 0) 0 0 [] with lanemod := 1, vnreg := 512 }
theorem witness_VectorStores_spill :
    Issuing lane1 ∧ Quiet lane1 ∧ ringOkSrc lane1 63 1 = true ∧ (∀ j, j < 8 → (Loc.tile (8 * j)) = .tile (0 + 8 * j)) ∧
      check lane1 (cap0 lane1) 64 { wr := true, align := 64 } = .ok (.tile 0) 0 false ∧ lane1.hart.vlmax = 64 ∧
      (∀ i, imageActs lane1 i → 8 ≤ i → ∀ u, StoredOver (imageActs lane1) 8 (fun j => .tile (8 * j)) lane1 u →
        ∃ mt, check u (cap0 lane1 + word (8 * i)) 8 (needStore 8) = .ok (.tile (8 * i)) mt false) :=
  ⟨issuing (by decide +kernel), quiet (by decide +kernel) (by decide +kernel) rfl rfl, by decide +kernel, fun j _ => by simp,
    by decide +kernel, by decide +kernel, fun i a h8 u hu => by
      have hi : i = 8 := by
        rcases a with a | ⟨_, a⟩
        · omega
        · have : lane1.hart.vlmax / 64 = 1 := by decide +kernel
          omega
      rw [hi]
      exact ⟨0, (check_window hu.frame (by decide +kernel) (by decide +kernel) (.inl rfl)).trans (by decide +kernel)⟩⟩

/-- Operands for four counters: two elements at one place, and at places apart. -/
theorem witness_VectorAtomics :
    (let s := machine (vector 0b00010 2 (win 0) 0 0 [])
     VectorReady s ∧ Quiet s ∧ vlN s ≤ s.hart.maxVl ∧ s.hart.vpois = [] ∧ s.hart.mpois = [] ∧ amoF ≠ [] ∧
       UpdatesAt (ActsOn 0 s) (needAtomic 4) 4 (indexAddr s 12 4) (fun _ => .tile 0) s ∧
       (∀ i j, ActsOn 0 s i → ActsOn 0 s j → (Loc.tile 0) = .tile 0 ∨ ∀ y, Covers (.tile 0) 4 y → ¬ Covers (.tile 0) 4 y) ∧
       AmoGroups s 63 32 12 false) :=
  ⟨ready (by decide +kernel) (by decide +kernel) (by decide +kernel) (by decide +kernel),
    quiet (by decide +kernel) (by decide +kernel) rfl rfl, by decide +kernel, rfl, rfl, nofun, updatesAt 2 (fun _ h => h.2.1) (by decide +kernel) (by decide +kernel),
    fun _ _ _ _ => .inl rfl, ⟨by decide +kernel, by decide +kernel, .inl (by decide +kernel), fun _ => .inl (by decide +kernel), fun _ => nofun⟩⟩

/-- Combined: no element is active where `vl` is 0, and one is at a place in ordinary memory where it is 1. -/
def combined : State :=
  { machine (vector 0b00010 1 0x20000 0 0 []) with
    tlb := [{ core := 0, l2 := false, asid := 0, vpage := 1, size := 17, leaf := 0x2000000F }] }

/-- A check on a page whose leaf is in the TLB, where no poison changes. -/
theorem check_combined {u : State} (hu : StoreFrame combined u) (p : u.linePois = combined.linePois) :
    check (freshPages u) 0x20000 4 (needAtomic 4) = .ok (.pa 0x20000000) 0 false := by
  have ht : (freshPages u).tlb = combined.tlb := by rw [hu.only]; rfl
  have hn : (freshPages u).hn = 0 := by rw [hu.only]; exact (rfl : combined.hn = 0)
  have hc : myCore (freshPages u) = 0 := by unfold myCore; rw [hn]; rfl
  have ha : (freshPages u).hart.asid = 0 := by rw [hu.only]; exact (rfl : combined.hart.asid = 0)
  have hs : (freshPages u).hart.sup = true := by rw [hu.only]; exact (by decide +kernel : combined.hart.sup = true)
  have hp : (freshPages u).hart.pmode = false := by rw [hu.only]; exact (by decide +kernel : combined.hart.pmode = false)
  have hl : (freshPages u).linePois = [] := p
  have hg : (freshPages u).hart.iss.pages = [] := rfl
  have hh : tlbHit (freshPages u) 0 0 0x20000 = some { core := 0, l2 := false, asid := 0, vpage := 1, size := 17, leaf := 0x2000000F } := by
    unfold tlbHit; rw [ht]; decide +kernel
  have hx : checkPage (freshPages u) 0x20000 4 (needAtomic 4) = .ok (.pa 0x20000000) 0 false := by
    unfold checkPage translateAs translateNow
    rw [hg, hc, ha, show wfld (0 : Word) 0 16 = 0 from by decide +kernel, hh]
    simp only [impure, hp, hs, linePoisoned, hl, Bool.false_and, Bool.false_eq_true, if_false, List.find?_nil]
    decide +kernel
  unfold check
  rw [hx, if_neg (by decide +kernel), if_neg (by decide +kernel), if_neg (by decide +kernel)]

theorem witness_VectorAtomics_combined :
    AmoGroups combined 63 32 12 true ∧
      (∀ i j, ActsOn 0 combined i → ActsOn 0 combined j → (Loc.pa 0x20000000) = .pa 0x20000000 → i = j) ∧
      (activeList combined 0).length ≤ 64 ∧
      UpdatesAt (ActsOn 0 combined) (needAtomic 4) 4 (indexAddr combined 12 4) (fun _ => .pa 0x20000000) combined :=
  ⟨⟨by decide +kernel, by decide +kernel, .inl (by decide +kernel), fun _ => .inl (by decide +kernel), fun _ => nofun⟩,
    fun i j a b _ => by have : i < 1 := a.2.1; have : j < 1 := b.2.1; omega, by decide +kernel, fun i hi u hu p _ => by
      have : i < 1 := hi.2.1
      obtain rfl : i = 0 := by omega
      rw [show indexAddr combined 12 4 0 = 0x20000 from by decide +kernel]
      exact ⟨0, check_combined hu.frame p⟩⟩

/-! Matrices, streams, collectives and fabric opcodes -/

/-- 12 rows and two columns of accumulators, VLMAX 4,096, an address in the window and a format word. -/
def rows12 (w : Word) : State :=
  machine { vector 0b00000 0 (win 0) 0 w [] with
    lanemod := 8, rows := 12
    iss := { group := true, act := { c0 := win 0, c2 := w, mshape := word (12 + 1 * 2 ^ 16) } } }

theorem rows12_shape (w : Word) : ShapeOk (rows12 w) :=
  ⟨(by decide : 0 < 12 ∧ 12 ≤ 48), (by decide +kernel : wfld (word (12 + 1 * 2 ^ 16)) 0 6 ≤ 12 ∧ wfld (word (12 + 1 * 2 ^ 16)) 0 6 % 12 = 0),
    (by decide +kernel : shapeCol0 (rows12 0).hart + shapeCols (rows12 0).hart ≤ 1024 ∧ 32 * shapeCols (rows12 0).hart ≤ vlmaxOf 8 64)⟩

theorem witness_MatrixMultiply :
    (let s := rows12 0x155
     Issuing s ∧ s.hart.vill = false ∧ ShapeOk s ∧ matrixFormat s.hart.vnreg (cap2 s) ∧ macSources s (cap2 s) 63 56 ∧
       256 * shapeRows s.hart ≤ s.hart.vlmax ∧ 128 * shapeRows s.hart ≤ s.hart.vlmax ∧
       8 * perContainer (cap2 s) * shapeRows s.hart ≤ s.hart.vlmax / 8) ∧
    (let s := rows12 (word (0x155 + 5 * 2 ^ 18 + 62 * 2 ^ 24))
     matrixFormat s.hart.vnreg (cap2 s) ∧ macSources s (cap2 s) 4 16) ∧ matrixFormat 64 0xC99 :=
  ⟨⟨issuing (by decide +kernel), by decide +kernel, rows12_shape _, by simp only [matrixFormat, fmtReserved, fmtRounds]; decide +kernel,
    by simp only [macSources]; decide +kernel, by decide +kernel, by decide +kernel, by decide +kernel⟩,
    ⟨by simp only [matrixFormat, fmtReserved, fmtRounds]; decide +kernel, by simp only [macSources]; decide +kernel⟩,
    by simp only [matrixFormat, fmtReserved, fmtRounds]; decide +kernel⟩

theorem witness_AccumulatorMoves :
    (let s := rows12 0
     Issuing s ∧ ShapeOk s ∧ Quiet s ∧
       LoadsAt (moveActs s 0) (needLoad 4) 4 (fun i => cap0 s + word (4 * i)) (fun i => .tile (4 * i)) s ∧
       StoresAt (moveActs s 0) (needStore 4) 4 (fun i => cap0 s + word (4 * i)) (fun i => .tile (4 * i)) s ∧
       ∀ i, isReg (.tile (4 * i)) = false) :=
  ⟨issuing (by decide +kernel), rows12_shape _, quiet (by decide +kernel) (by decide +kernel) rfl rfl,
    loadsAt 24 (fun _ h => Nat.lt_of_lt_of_eq h.1 (by decide +kernel)) (by decide +kernel),
    storesAt 24 (fun _ h => Nat.lt_of_lt_of_eq h.1 (by decide +kernel)) (by decide +kernel) rfl (by decide +kernel), fun _ => rfl⟩

/-- No attachment, with 12 rows of the quad free. -/
def detached : State :=
  { machine { vector 0 0 0 0 0 [] with iss := { group := true, act := { mshape := 13 } } } with quads := [(0, 36)] }
/-- A stop after five of its rows. -/
theorem witness_AccumulatorMoves_cut :
    (let s : State := { rows12 0 with hart := { (rows12 0).hart with cut := some 5 } }
     Issuing s ∧ ShapeOk s ∧ Quiet s ∧ s.hart.cut = some 5 ∧ 5 < shapeRows s.hart ∧
       LoadsAt (moveActs s 0) (needLoad 4) 4 (fun i => cap0 s + word (4 * i)) (fun i => .tile (4 * i)) s) ∧ (rows12 0).hart.cut = none :=
  ⟨⟨issuing (by decide +kernel), ⟨by decide +kernel, by decide +kernel, by decide +kernel⟩,
    quiet (by decide +kernel) (by decide +kernel) rfl rfl, rfl, by decide +kernel,
    loadsAt 24 (fun _ h => Nat.lt_of_lt_of_eq h.1 (by decide +kernel)) (by decide +kernel)⟩, rfl⟩

theorem witness_MatrixAttachment :
    Issuing detached ∧ MayAttach detached ∧ detached.hart.rows = 0 ∧ 0 < (rows12 0).hart.rows ∧ (rows12 0).hart.granted = false ∧
      matrixLeft (rows12 0).hart = false ∧ (∃ s : State, Issuing s ∧ s.hart.granted = true) :=
  ⟨issuing (by decide +kernel), ⟨⟨rfl, rfl, rfl⟩, by decide +kernel, by decide +kernel, by decide +kernel⟩, rfl, by decide +kernel, rfl,
    by decide +kernel, { detached with hart := { detached.hart with rows := 12, granted := true } }, issuing (by decide +kernel), rfl⟩

/-- A stream from the start of tile 0 to the start of tile 1 of the window: n elements of 32 bits. -/
def copying (n : BitVec 17) : State :=
  machine { vector 0b00010 n (win 0) (win 0x4000) 0 [] with sregs := [(1, win 0), (2, win 0x4000)] }
theorem copying_quiet (n : BitVec 17) : Quiet (copying n) := quiet rfl rfl rfl rfl
theorem copying_queue (n : BitVec 17) : QueueOk 0 (copying n) :=
  ⟨by decide, fun h => absurd rfl h, fun _ => ⟨rfl, nofun⟩, fun _ => rfl, rfl⟩

/-- `str.cp` between two tiles. -/
noncomputable def copyForm : StreamForm := { ins := .strCp, src := none, dst := none, apart := true }

theorem copying_moves : Moves (copying 2) 4 (fun i => .tile (4 * i)) (fun i => .tile (0x4000 + 4 * i)) where
  near := fun _ => ⟨rfl, rfl⟩
  read := fun i hi u hu => by
    have : i < 2 := Nat.lt_of_lt_of_eq hi.2 (by decide +kernel)
    have x : ∀ i, i < 2 → inWindow (cap0 (copying 2) + word (i * 4)) = true ∧
        check (copying 2) (cap0 (copying 2) + word (i * 4)) 4 (strSrc 4) = .ok (.tile (4 * i)) 0 false := by decide +kernel
    exact ⟨0, (check_window hu.frame (x i this).1 (by decide +kernel) (.inl rfl)).trans (x i this).2⟩
  clean := fun _ _ => rfl
  write := storesAt 2 (fun _ h => Nat.lt_of_lt_of_eq h.2 (by decide +kernel)) (by decide +kernel) rfl (by decide +kernel)
  regs := fun _ => ⟨rfl, rfl⟩
  apart := fun i j y hi hj h k => by
    have a : i < 2 := Nat.lt_of_lt_of_eq hi.2 (by decide +kernel)
    have b : j < 2 := Nat.lt_of_lt_of_eq hj.2 (by decide +kernel)
    cases y with
    | pa _ => exact h
    | tile o => exact absurd (show 0x4000 + 4 * i ≤ o from h.1) (by have := (show o < 4 * j + 4 from k.2); omega)

theorem witness_StreamsMove :
    copyForm ∈ streamForms ∧ Issuing (copying 2) ∧ (copying 2).hart.vill = false ∧ vtypeOk (copying 2).hart.vtype.toNat = true ∧
      Quiet (copying 2) ∧ QueueOk 0 (copying 2) ∧ 0 < vlN (copying 2) ∧ SidesOk copyForm false (copying 2) ∧ strUnit (copying 2) = 4 ∧
      Moves (copying 2) 4 (fun i => .tile (4 * i)) (fun i => .tile (0x4000 + 4 * i)) :=
  ⟨by simp [streamForms, copyForm], issuing (by decide +kernel), by decide +kernel, by decide +kernel, copying_quiet 2, copying_queue 2,
    by decide +kernel,
    ⟨⟨nofun, nofun, fun _ => ⟨by decide +kernel, nofun⟩⟩, ⟨nofun, nofun, fun _ => ⟨by decide +kernel, fun _ => by decide +kernel⟩⟩,
      fun _ => by decide +kernel, by decide +kernel⟩, by decide +kernel, copying_moves⟩

theorem witness_StreamsMove_empty :
    Issuing (copying 0) ∧ (copying 0).hart.vill = false ∧ Quiet (copying 0) ∧ QueueOk 0 (copying 0) ∧ vlN (copying 0) = 0 ∧
      (cap0 (copying 0)).toNat % strUnit (copying 0) = 0 ∧ (cap1 (copying 0)).toNat % strUnit (copying 0) = 0 :=
  ⟨issuing (by decide +kernel), by decide +kernel, copying_quiet 0, copying_queue 0, by decide +kernel, by decide +kernel,
    by decide +kernel⟩

/-- The source of spec/05_fabric_storage.md for 12 elements of 32 bits. -/
def zeroRuns : State :=
  { copying 12 with tiles := putTileRaw [] 0 0 (toBytes 0x0000000180010002 8 ++ toBytes 11 8 ++ toBytes 22 8) }
theorem witness_StreamsDecode :
    Issuing zeroRuns ∧ Quiet zeroRuns ∧ QueueOk 0 zeroRuns ∧ 0 < vlN zeroRuns ∧ SidesOk copyForm true zeroRuns ∧ copyForm.zrp = true ∧
      strUnit zeroRuns = 4 ∧ strDecl zeroRuns = 6 ∧ (zrpOf 6 (fun k => readLoc zeroRuns (.tile (8 * k)) 8) 14 {}).units = 3 ∧
      LoadsAt (fun k => k < 3) { rd := true, mtMax := 1, test := false } 8 (fun k => cap0 zeroRuns + word (8 * k))
        (fun k => .tile (8 * k)) zeroRuns ∧
      (∀ k, k < 3 → locPois zeroRuns (.tile (8 * k)) 8 = false ∧ isReg (.tile (8 * k)) = false ∧ farLoc (.tile (8 * k)) = false) ∧
      (∀ k, k < 3 → (cap0 zeroRuns + word (8 * k)).toNat % 131072 ≤ 131064) ∧ metPoison zeroRuns = false ∧ metError zeroRuns = false ∧
      StoresAt (unitActs zeroRuns) (strDst 4) 4 (fun i => cap1 zeroRuns + word (i * 4)) (fun i => .tile (0x4000 + 4 * i)) zeroRuns :=
  ⟨issuing (by decide +kernel), quiet rfl rfl rfl rfl, ⟨by decide, fun h => absurd rfl h, fun _ => ⟨rfl, nofun⟩, fun _ => rfl, rfl⟩, by decide +kernel,
    ⟨⟨nofun, nofun, fun _ => ⟨by decide +kernel, nofun⟩⟩, ⟨nofun, nofun, fun _ => ⟨by decide +kernel, fun _ => by decide +kernel⟩⟩,
      fun _ => by decide +kernel, by decide +kernel⟩, rfl, by decide +kernel, by decide +kernel, by decide +kernel,
    loadsAt 3 (fun _ h => h) (by decide +kernel), fun _ _ => ⟨rfl, rfl, rfl⟩, by decide +kernel, by decide +kernel, by decide +kernel,
    storesAt 12 (fun _ h => Nat.lt_of_lt_of_eq h.2 (by decide +kernel)) (by decide +kernel) rfl (by decide +kernel)⟩

/-- An exchange of 128 bytes: of a gang of one, and of one of two. -/
def row : State := copying 32
theorem witness_StreamExchange :
    vtypeOk row.hart.vtype.toNat = true ∧ Quiet row ∧ QueueOk 0 row ∧ row.hart.pmode = false ∧
      strBytes row = 128 ∧ myGang row = [mySeat row] ∧ coreOf (mySeat row) = myCore row ∧ strUnit row = 4 ∧ sideOk (cap0 row) 128 128 none false ∧
      sideOk (cap1 row) 128 128 none true ∧ overlaps (cap0 row).toNat 128 (cap1 row).toNat 128 = false ∧
      LoadsAt (fun i => i < 128 / 4) (strSrc 4) 4 (fun i => cap0 row + word (i * 4)) (fun i => .tile (4 * i)) row ∧
      LoadsAt (fun i => i < 128 / 4) (strDst 4) 4 (fun i => cap1 row + word (i * 4)) (fun i => .tile (0x4000 + 4 * i)) row :=
  ⟨by decide +kernel, copying_quiet 32, copying_queue 32, by decide +kernel, by decide +kernel, by decide +kernel, by decide +kernel,
    by decide +kernel, ⟨nofun, nofun, fun _ => ⟨by decide +kernel, nofun⟩⟩, ⟨nofun, nofun, fun _ => ⟨by decide +kernel, fun _ => by decide +kernel⟩⟩,
    by decide +kernel, loadsAt 32 (fun _ h => h) (by decide +kernel), loadsAt 32 (fun _ h => h) (by decide +kernel)⟩

/-- Its places, byte by byte. -/
theorem witness_StreamExchange_whole :
    (let p := freshPages row
     let sloc (o : Nat) : Loc := sidePlace (cap0 row) (pageFrames p (cap0 row) 128) o
     let dloc (o : Nat) : Loc := sidePlace (cap1 row) (pageFrames p (cap1 row) 128) o
     (∀ o, o < 128 → isReg (sloc o) = false ∧ isReg (dloc o) = false ∧ farLoc (sloc o) = false ∧ farLoc (dloc o) = false ∧
       locPois row (sloc o) 1 = false) ∧
     (∀ o p, o < 128 → p < 128 → dloc o ≠ sloc p ∧ (dloc o = dloc p → o = p))) := by
  have hs : ∀ o, o < 128 → sidePlace (cap0 row) (pageFrames (freshPages row) (cap0 row) 128) o = .tile o := by decide +kernel
  have hd : ∀ o, o < 128 → sidePlace (cap1 row) (pageFrames (freshPages row) (cap1 row) 128) o = .tile (0x4000 + o) := by decide +kernel
  refine ⟨fun o h => ?_, fun o p h k => ?_⟩
  · simp only [hs o h, hd o h]
    exact ⟨rfl, rfl, rfl, rfl, rfl⟩
  · simp only [hs p k, hd o h, hd p k, Loc.tile.injEq, ne_eq]
    omega

def row2 : State := { row with clusters := [(0, { gid := [(0, 1), (1, 1)] })] }
theorem witness_StreamExchange_waits :
    (∃ k ∈ myGang row2, k ≠ mySeat row2 ∧ xchEntry row2 k = none) ∧ (myGang row2).length = 2 ∧
      (xchParts row2 (mySeat row2)).all (fun x => !storesKeep row2 x.2.2) = true ∧
      (List.range (256 / 4)).all (fun i =>
        decide (check (freshPages row2) (cap0 row2 + word (i * 4)) 4 (strSrc 4) = .ok (.tile (4 * i)) 0 false) &&
          decide (check (freshPages row2) (cap1 row2 + word (i * 4)) 4 (strDst 4) = .ok (.tile (0x4000 + 4 * i)) 0 false)) = true := by
  decide +kernel

/-- The hart's stream on entry 15 has moved its data. -/
def moved15 : State :=
  { machine (vector 0b00010 1 15 0 0 []) with cores := [(0, { cq := [(15, { hart := 0, phase := 2, seq := 9, bar := true })] })] }
theorem witness_StreamWait :
    Issuing moved15 ∧ (let q := getCq moved15 (myCore moved15) (wfld (cap0 moved15) 0 4)
      q.hart = moved15.hn ∧ q.frame = none ∧ q.live = true ∧ q.phase = 2 ∧ (getCore moved15 (myCore moved15)).retired = false ∧
        q.bar = true ∧ olderOf moved15 (.hart moved15.hn) q.seq = [] ∧ convoysOf moved15 (.hart moved15.hn) q.seq = false ∧
        moved15.hart.storeBuf = [] ∧ (getCore moved15 (myCore moved15)).comb = []) ∧
      (getCq strip2 (myCore strip2) (wfld (cap0 strip2) 0 4)).live = false :=
  ⟨issuing (by decide +kernel), by decide +kernel, rfl⟩

/-- A descriptor at the start of the window; node 5 is reachable. -/
def described (buf own sfmt xf peer ntot node : Nat) : State :=
  { machine (vector 0b00010 1 (win 0) 0 0 []) with
    mgmt := { reach := [5] }
    tiles := putTileRaw [] 0 0 (toBytes (buf + own * 2 ^ 64 + 1 * 2 ^ 128 + sfmt * 2 ^ 160 + xf * 2 ^ 168 + 7 * 2 ^ 176
      + peer * 2 ^ 192 + ntot * 2 ^ 208 + node * 2 ^ 256) 64) }

theorem collReady (buf own sfmt xf peer ntot node : Nat) : CollReady (described buf own sfmt xf peer ntot node) where
  toIssuing := ⟨rfl, rfl, rfl, rfl, rfl, rfl, rfl, rfl, rfl⟩
  toQuiet := quiet rfl rfl rfl rfl
  vill := (by decide +kernel : Hart.vill { vtype := 2 } = false)
  impure := (by decide +kernel : Hart.pmode {} = false)
  streams' := rfl
  active := rfl
  ports := fun _ => rfl

/-- A send from tile 1, a receive into it, and the root of a reduction with its own data in tile 2; each is accepted. -/
def sending : State := described 0xFFFFFFFF84000 0 1 0 5 16 0
def receiving : State := described 0xFFFFFFFF84000 0 0 0 5 2 0
def reducing : State := described 0xFFFFFFFF84000 0xFFFFFFFF88000 1 130 0xFFF 2 0x1005
def descriptor (s : State) : CollDesc := descOf (accRead s (.tile 0) 64)

theorem witness_Collectives :
    CollReady sending ∧ CollReady receiving ∧ CollReady reducing ∧ collForms ≠ [] ∧
      (∀ x ∈ [(sending, CollRole.send), (receiving, .recv), (reducing, .red)],
        check (freshPages x.1) (cap0 x.1) 64 (needLoad 64) = .ok (.tile 0) 0 false ∧ collStatus x.1 x.2 (descriptor x.1) = 0 ∧
          freeCtx x.1 = some 0) ∧
      collStatus (described 0xFFFFFFFF84000 0 0 0 6 2 0) .recv (descriptor (described 0xFFFFFFFF84000 0 0 0 6 2 0)) = 4 :=
  ⟨collReady .., collReady .., collReady .., nofun, by decide +kernel, by decide +kernel⟩

theorem collPlaces {s : State} {role : CollRole} {w : Nat} {x : CollDesc} (n : Nat) (hn : slotCount role w x = n)
    (hs : ∀ a, sourceOf role x = some a → (List.range (256 * x.ntile)).all (fun i =>
      decide (check (freshPages s) (word a + word (srcBytes x.sfmt * i)) (srcBytes x.sfmt) { rd := true, test := false }
        = .ok (.tile (0x8000 + srcBytes x.sfmt * i)) 0 false)) = true)
    (hd : (List.range n).all (fun i =>
      decide (check (freshPages s) (word x.buf + word (128 * i)) 128 { wr := true } = .ok (.tile (0x4000 + 128 * i)) 0 false)) = true) :
    CollPlaces s role w x (fun i => .tile (0x8000 + srcBytes x.sfmt * i)) (fun i => .tile (0x4000 + 128 * i)) where
  source := fun i a ha hi => ⟨0, false, of_decide_eq_true (List.all_eq_true.1 (hs a ha) i (List.mem_range.2 hi))⟩
  slots := fun i hi => ⟨0, false, of_decide_eq_true (List.all_eq_true.1 hd i (List.mem_range.2 (hn ▸ hi)))⟩
  memory := nofun
  apart := fun i j y _ _ ne h k => by
    cases y with
    | pa _ => exact h
    | tile o =>
      have h1 : 0x4000 + 128 * i ≤ o := h.1
      have h2 : o < 0x4000 + 128 * i + 128 := h.2
      have k1 : 0x4000 + 128 * j ≤ o := k.1
      have k2 : o < 0x4000 + 128 * j + 128 := k.2
      omega

theorem witness_Collectives_places :
    CollPlaces receiving .recv 16 (descriptor receiving) (fun i => .tile (0x8000 + srcBytes (descriptor receiving).sfmt * i))
        (fun i => .tile (0x4000 + 128 * i)) ∧
      CollPlaces reducing .red 4 (descriptor reducing) (fun i => .tile (0x8000 + srcBytes (descriptor reducing).sfmt * i))
        (fun i => .tile (0x4000 + 128 * i)) ∧
      (∀ i, i < 256 → ∃ mt v, check sending (word (descriptor sending).buf + word (4 * i)) 4 { rd := true, test := false }
        = .ok (.tile (0x4000 + 4 * i)) mt v) ∧ slotCount .send 4 (descriptor sending) = 0 := by
  refine ⟨collPlaces 9 (by decide +kernel) ?_ (by decide +kernel), collPlaces 3 (by decide +kernel) ?_ (by decide +kernel), ?_,
    by decide +kernel⟩
  · intro a ha
    rw [show sourceOf .recv (descriptor receiving) = none from by decide +kernel] at ha
    cases ha
  · intro a ha
    rw [show sourceOf .red (descriptor reducing) = some 0xFFFFFFFF88000 from by decide +kernel] at ha
    cases ha
    decide +kernel
  · have h : (List.range 256).all (fun i => decide (check sending (word (descriptor sending).buf + word (4 * i)) 4
        { rd := true, test := false } = .ok (.tile (0x4000 + 4 * i)) 0 false)) = true := by decide +kernel
    exact fun i hi => ⟨0, false, of_decide_eq_true (List.all_eq_true.1 h i (List.mem_range.2 hi))⟩

/-- The CID 7 names no collective, a live receive, and one that has been cancelled. -/
def named (c : CollCtx) : State := { machine (vector 0b00010 1 7 0 0 []) with colls := [(31, c)] }
theorem witness_Collectives_named :
    (let s := named { live := true, role := .recv, cid := 7 }
     Issuing s ∧ s.hart.pmode = false ∧ namedColl s (fun c => c.role = .recv || c.isRoot) = some 31 ∧
       (getColl s 31).cancelled = false ∧ (getColl s 31).allOver = false) ∧
    (let s := named { live := true, role := .recv, cid := 7, cancelled := true }
     namedColl s (fun c => c.role = .recv || c.isRoot) = some 31 ∧ (getColl s 31).cancelled = true) ∧
    namedColl (named { live := true, role := .recv, cid := 8 }) (fun c => c.role = .recv || c.isRoot) = none :=
  ⟨⟨issuing (by decide +kernel), by decide +kernel, by decide +kernel, rfl, by decide +kernel⟩, by decide +kernel, by decide +kernel⟩

/-- Slot 15 is bound to the copying image; the length is 2; its run is over, or waits for this hart to go on with it. -/
def bound15 (owner : Option Nat) (r : FabRun) : State :=
  { machine (vector 0b00010 2 2 0 0 []) with
    cores := [(0, { slots := [(15, { valid := true, image := copyImage, owner := owner, run := r })] })] }
theorem witness_FabricOpcode :
    boundHere strip2 15 = false ∧
    (let s := bound15 none {}
     VectorReady s ∧ s.hart.plane = false ∧ s.hart.sew = 32 ∧ CopySlot 15 s ∧ s.hart.iss.re = false ∧ s.hart.pmode = false ∧
       s.hart.vpois = [] ∧ s.hart.mpois = [] ∧ fopLa s copyImage ≤ s.hart.maxVl ∧ GroupsOk s 63 32 [(62, 32)] ∧
       disjoint s 63 32 62 32 = true ∧ disjoint s 63 32 (ringSrc s 62) 32 = true ∧ (getSlot s 15).owner = none) ∧
    (let s := bound15 (some 0) (freshRun copyImage)
     (getSlot s 15).owner = some s.hn ∧ (getSlot s 15).run = freshRun copyImage ∧ s.hart.cut = none) :=
  ⟨by decide +kernel, ⟨ready (by decide +kernel) (by decide +kernel) (by decide +kernel) (by decide +kernel), by decide +kernel,
    by decide +kernel, ⟨by decide +kernel, rfl⟩, rfl, by decide +kernel, rfl, rfl, by decide +kernel,
    ⟨by decide +kernel, by decide +kernel, by decide +kernel, nofun⟩, by decide +kernel, by decide +kernel, rfl⟩, rfl, rfl, rfl⟩

/-- An image of the window's first bytes. -/
def imaged (img : List Word) : State :=
  { machine (vector 0b00010 1 (win 0) 0 0 []) with tiles := putTileRaw [] 0 0 (img.flatMap (fun w => toBytes w.toNat 8)) }
theorem witness_FabricControl :
    (let s := imaged copyImage
     let n := imgWords (word (accRead s (.tile (8 * 0)) 8))
     Issuing s ∧ Quiet s ∧ s.hart.pmode = false ∧ n = 15 ∧
       LoadsAt (fun k => k < max 1 n) (needLoad 8) 8 (fun k => cap0 s + word (8 * k)) (fun k => .tile (8 * k)) s ∧
       malformedAt (imageAt s (fun k => .tile (8 * k)) n) = none ∧
       overlapping s (imgBlocks (imageAt s (fun k => .tile (8 * k)) n)) = [] ∧ (getSlot s 15).valid = false) ∧
    (let s := imaged (copyImage.set 1 1)
     malformedAt (imageAt s (fun k => .tile (8 * k)) 15) = some 8) :=
  ⟨⟨issuing (by decide +kernel), quiet rfl rfl rfl rfl, by decide +kernel, by decide +kernel,
    loadsAt 15 (fun _ h => Nat.lt_of_lt_of_eq h (by decide +kernel)) (by decide +kernel), by decide +kernel, by decide +kernel,
    by decide +kernel⟩, by decide +kernel⟩

theorem witness_FabricControl_quiet : CoreQuiet (imaged copyImage) :=
  ⟨fun n _ => by unfold getHart; split <;> rfl, fun n _ _ => by unfold getHart; split <;> exact ⟨rfl, rfl⟩, fun _ => rfl⟩

theorem witness_FabricControl_ends :
    (let s := bound15 none {}
     boundHere s 15 = true ∧ arcsClear s 15) ∧ boundHere strip2 15 = false ∧ (getSlot strip2 15).valid = false ∧
      (let s : State := { bound15 none {} with hart := { (bound15 none {}).hart with asid := 1 } }
       boundHere s 15 = false ∧ s.hart.sup = true ∧ (getSlot s 15).valid = true) :=
  ⟨⟨by decide +kernel, by unfold arcsClear; decide +kernel⟩, by decide +kernel, by decide +kernel, by decide +kernel⟩

/-! Nodes, tiles and edges of a binding: an image of one block and one edge, with its routes and the tokens on them -/

/-- The tiles: compute 0, memory 0, memory 4, compute 4; the edge is 0. A route is kind, tile and port of its source, and of its end. -/
def wired (tiles : List Nat) (edge : Nat) (routes : List (Nat × Nat × Nat × Nat × Nat × Nat)) (run : FabRun) : Fab :=
  { st := { access with hart := { access.hart with tb := [(0, win 0), (1, 0x20000), (2, 0x40000)] }
                        tlb := uncached.tlb }
    run := run, was := false
    img := [word (2 ^ 40 + 2 ^ 24 + routes.length * 2 ^ 16), 0, 0, 0, 0, 0, 0, 0] ++ tiles.map word ++ [word edge]
      ++ routes.map (fun r => word (r.1 * 2 ^ 62 + r.2.1 * 2 ^ 57 + r.2.2.1 * 2 ^ 54 + r.2.2.2.1 * 2 ^ 52 + r.2.2.2.2.1 * 2 ^ 47
        + r.2.2.2.2.2 * 2 ^ 45)) }

theorem nodeReady {n op : Nat} {g : Fab} (h : g.fault = none ∧ g.more = false ∧ cOp (fabWord g.img 0 n) = op ∧ op ≠ 0 ∧
    Machine.unitOf g.img n = none ∧ arcPorts (fabWord g.img 0 n) ≠ []) : NodeReady n op g :=
  ⟨h.1, h.2.1, h.2.2.1, h.2.2.2.1, h.2.2.2.2.1, h.2.2.2.2.2⟩
theorem allData {n : Nat} {g : Fab} (e : (g.node n).ended = 0)
    (h : (arcPorts (fabWord g.img 0 n)).all (fun p => (g.head 0 n p).any (!·.hl)) = true) : AllData n g :=
  ⟨e, fun p hp => by
    have x := List.all_eq_true.1 h p hp
    cases hh : g.head 0 n p with
    | none => rw [hh] at x; cases x
    | some t => rw [hh] at x; exact ⟨t, rfl, by simpa using x⟩⟩

/-- Compute tile 0 has its three inputs from edge 0 and the memory tiles, and writes to memory tile 0. -/
def node0 (op fmt : Nat) (toks : List (Option Token)) (st : NodeState) : Fab :=
  wired [op * 2 ^ 58 + fmt * 2 ^ 54, 0, 0, 0] 0 [(2, 0, 0, 0, 0, 0), (1, 0, 0, 0, 0, 1), (1, 4, 0, 0, 0, 2), (0, 0, 0, 1, 0, 0)]
    { arcs := (List.range 4).map (fun i => (i, nth none toks i)), nodes := [(0, st)] }
def tok (x : Nat) : Option Token := some { pay := word x }
def last (x : Nat) : Option Token := some { pay := word (2 * 2 ^ 62 + x), hl := true }

theorem witness_FabricNodes_fire :
    (∀ op ∈ [0x01, 0x05, 0x18, 0x19, 0x1A, 0x1B, 0x1C, 0x1D, 0x20, 0x21, 0x22, 0x23], ∀ fmt ∈ [1, 12],
      NodeReady 0 op (node0 op fmt [tok 1, tok 2, tok 3] {}) ∧ AllData 0 (node0 op fmt [tok 1, tok 2, tok 3] {})) ∧
    (∃ x ∈ intNodes, x.1 = 0x05) ∧ (∃ x ∈ floatNodes, x.1 = 0x05) ∧ cFloat (fabWord (node0 5 12 [] {}).img 0 0) = false ∧
    cFloat (fabWord (node0 5 1 [] {}).img 0 0) = true ∧ (node0 5 12 [] {}).empty 0 0 0 = true ∧
    (node0 5 12 [none, none, none, tok 4] {}).empty 0 0 0 = false ∧
    (∀ p, p ≤ 1 → readsArc (fabWord (node0 0x22 12 [] {}).img 0 0) p = true) :=
  ⟨by
    intro op ho fmt hf
    simp only [List.mem_cons, List.not_mem_nil, or_false] at ho hf
    rcases ho with rfl | rfl | rfl | rfl | rfl | rfl | rfl | rfl | rfl | rfl | rfl | rfl <;> rcases hf with rfl | rfl <;>
      exact ⟨nodeReady (by decide +kernel), allData (by decide +kernel) (by decide +kernel)⟩,
    ⟨_, .tail _ (.tail _ (.tail _ (.head _))), rfl⟩, ⟨_, .tail _ (.tail _ (.tail _ (.head _))), rfl⟩, by decide +kernel, by decide +kernel,
    by decide +kernel, by decide +kernel, by decide +kernel⟩

/-- A headland at B, one that is strict and mismatched, data left over behind a headland at A, and every input over. -/
theorem witness_FabricNodes_headlands :
    (let g := node0 5 12 [tok 1, last 0, tok 3] {}
     NodeReady 0 5 g ∧ g.inject = true ∧ (arcPorts (fabWord g.img 0 0)).find? (fun q => (g.head 0 0 q).any (·.hl)) = some 1 ∧
       g.head 0 0 1 = last 0) ∧
    (let t : Word := word (2 * 2 ^ 62 + 2 ^ 57 + 2 ^ 59); wbit t 57 = true ∧ wbit t 59 = true) ∧
    (let g := node0 5 12 [none, tok 2, tok 3] { ended := 1 }
     let live := (arcPorts (fabWord g.img 0 0)).filter (fun q => !nbit (g.node 0).ended q)
     NodeReady 0 5 g ∧ live = [1, 2] ∧ (∀ q ∈ live, (g.head 0 0 q).any (·.hl) = false) ∧ (arcPorts (fabWord g.img 0 0)).length = 3 ∧
       live.find? (fun q => (g.head 0 0 q).isSome) = some 1) ∧
    (let g := node0 5 12 [] { ended := 7 }
     NodeReady 0 5 g ∧ (arcPorts (fabWord g.img 0 0)).filter (fun q => !nbit (g.node 0).ended q) = [] ∧
       (headPorts g.img 0).all (g.empty 0 0) = true) ∧
    (let g := node0 0x18 12 [] { ended := 1, begun := true }
     NodeReady 0 0x18 g ∧ (arcPorts (fabWord g.img 0 0)).filter (fun q => !nbit (g.node 0).ended q) = [] ∧ g.empty 0 0 0 = true) :=
  ⟨⟨nodeReady (by decide +kernel), by decide +kernel⟩, by decide +kernel, ⟨nodeReady (by decide +kernel), by decide +kernel⟩,
    ⟨nodeReady (by decide +kernel), by decide +kernel⟩, ⟨nodeReady (by decide +kernel), by decide +kernel⟩⟩

/-- Compute tile 0 multiplies what two fibre stores send it. -/
def crossing (a b : Nat) : Fab :=
  wired [4 * 2 ^ 58 + 12 * 2 ^ 54, 4 * 2 ^ 60, 4 * 2 ^ 60, 0] 0 [(1, 0, 0, 0, 0, 0), (1, 4, 0, 0, 0, 1)] { arcs := [(0, tok a), (1, tok b)] }
theorem witness_FabricNodes_unit :
    (let g := crossing 3 3
     g.fault = none ∧ g.more = false ∧ cOp (fabWord g.img 0 0) = 0x04 ∧ Machine.unitOf g.img 0 = some (0, 4) ∧ (g.node 0).fin = 0 ∧
       (g.node 0).ended = 0 ∧ g.head 0 0 0 = tok 3 ∧ g.head 0 0 1 = tok 3 ∧ mUnion (fabWord g.img 1 0) = false) ∧
    (let g := crossing 2 3; Machine.unitOf g.img 0 = some (0, 4) ∧ g.head 0 0 0 = tok 2 ∧ g.head 0 0 1 = tok 3) ∧
    (let g := crossing 4 3; Machine.unitOf g.img 0 = some (0, 4) ∧ g.head 0 0 0 = tok 4 ∧ g.head 0 0 1 = tok 3) := by decide +kernel

/-- Memory tile 0 takes a token from compute tile 0 and offers one to it. -/
def stored (w : Nat) (t : Option Token) (st : TileState) : Fab :=
  wired [0, w, 0, 0] 0 [(0, 0, 0, 1, 0, 0), (1, 0, 0, 0, 0, 0)] { arcs := [(0, t)], tiles := [(0, st)] }
theorem tileReady {n mode : Nat} {g : Fab} (h : mMode (fabWord g.img 1 n) = mode ∧ (g.tile n).ended = 0 ∧ g.spoiled n = false) :
    TileReady n mode g := ⟨h.1, h.2.1, h.2.2⟩

def fifo2 : Nat := 2 * 2 ^ 60 + 2 ^ 36
def buffers2 : Nat := 2 ^ 60 + 2 ^ 46
def lines2 : Nat := 3 * 2 ^ 60 + 2 ^ 32
def fibres2 : Nat := 4 * 2 ^ 60 + 2 ^ 45 + 2 ^ 31
def reorder2 : Nat := 5 * 2 ^ 60 + 2 ^ 36
def one (x tag : Nat) : TileEntry := { tag := tag, toks := [(word x, 0)], closed := true }

theorem witness_FabricNodes_take :
    (∀ t ∈ [{}, { entries := [one 1 0] }, { entries := [one 1 0, one 2 0] }], ∀ x ∈ [(2, fifo2), (1, buffers2)],
      let g := stored x.2 (tok 7) t
      TileReady 0 x.1 g ∧ g.head 1 0 0 = tok 7 ∧ (∀ e ∈ (g.tile 0).entries, e.closed = true)) ∧
    mEnt (word fifo2) = 1 ∧ mCap (word fifo2) = 2 ∧ mBufs (word buffers2) = 2 ∧ 1 < mBufWords (word buffers2) * 64 / mBytes (word buffers2) ∧
    (let g := stored lines2 (tok 7) {}
     TileReady 0 3 g ∧ mRowLen (word lines2) = 2 ∧ (g.tile 0).part.length = 0 ∧ mWin (word lines2) = 1 ∧ mRows (word lines2) = 1) ∧
    (let g := stored lines2 (tok 7) { part := [3] }; TileReady 0 3 g ∧ (g.tile 0).part.length + 1 = 2 ∧ (g.tile 0).rows.length = 0) ∧
    (let g := stored fibres2 (tok 7) { last := some 6 }
     TileReady 0 4 g ∧ mPosv (word fibres2) = true ∧ (g.tile 0).entries.length < mFibres (word fibres2) ∧ (7 % 2 ^ (8 * mCoord (word fibres2))) = 7) ∧
    TileReady 0 4 (stored fibres2 (tok 7) { last := some 7 }) ∧
    (let g := stored reorder2 (some { pay := 7, tag := 1 }) {}
     TileReady 0 5 g ∧ mEnt (word reorder2) = 1 ∧ tileNext (word reorder2) (g.tile 0) = 0 ∧ mCap (word reorder2) = 2) ∧
    (let g := stored reorder2 (some { pay := 7, tag := 1 }) { entries := [one 3 1] }
     TileReady 0 5 g ∧ ∀ e ∈ (g.tile 0).entries, e.closed = true ∧ e.tag ≠ tileNext (word reorder2) (g.tile 0)) :=
  ⟨by
    intro t ht x hx
    simp only [List.mem_cons, List.not_mem_nil, or_false] at ht hx
    rcases ht with rfl | rfl | rfl <;> rcases hx with rfl | rfl <;> exact ⟨tileReady (by decide +kernel), by decide +kernel⟩,
    by decide +kernel, by decide +kernel, by decide +kernel, by decide +kernel, ⟨tileReady (by decide +kernel), by decide +kernel⟩,
    ⟨tileReady (by decide +kernel), by decide +kernel⟩, ⟨tileReady (by decide +kernel), by decide +kernel⟩, tileReady (by decide +kernel),
    ⟨tileReady (by decide +kernel), by decide +kernel⟩, ⟨tileReady (by decide +kernel), by decide +kernel⟩⟩

theorem witness_FabricNodes_offer :
    (∀ x ∈ [(2, fifo2), (1, buffers2), (4, fibres2), (5, reorder2)],
      let g := stored x.2 none { entries := [one 1 0] }
      TileReady 0 x.1 g ∧ g.empty 1 0 0 = true ∧ (g.tile 0).entries = [one 1 0]) ∧
    (let g := stored lines2 none { out := [{ pay := 3 }] }; TileReady 0 3 g ∧ g.empty 1 0 0 = true ∧ (g.tile 0).out = [{ pay := 3 }]) :=
  ⟨by
    intro x hx
    simp only [List.mem_cons, List.not_mem_nil, or_false] at hx
    rcases hx with rfl | rfl | rfl | rfl <;> exact ⟨tileReady (by decide +kernel), by decide +kernel⟩,
    ⟨tileReady (by decide +kernel), by decide +kernel⟩⟩

/-- Edge 0 sends to compute tile 0, or receives from it, elements of 4 bytes at base b. -/
def edging (out : Bool) (b : Nat) (t : Option Token) (es : EdgeState) : Fab :=
  wired [0, 0, 0, 0] ((if out then 2 ^ 60 else 0) + 3 * 2 ^ 58 + 2 * 2 ^ 55 + b * 2 ^ 52)
    [if out then (0, 0, 0, 2, 0, 0) else (2, 0, 0, 0, 0, 0)] { arcs := [(0, t)], edges := [(0, es)] }
theorem edgeReady {e : Nat} {out : Bool} {g : Fab} (h : g.fault = none ∧ g.more = false ∧ g.was = false ∧ g.inject = true ∧
    eXf (fabWord g.img 2 e) = 0 ∧ ePort (fabWord g.img 2 e) = 3 ∧ eOut (fabWord g.img 2 e) = out ∧ (g.edge e).ended = false ∧
    (g.edge e).fifo = []) (q : Quiet g.st) : EdgeReady e out g :=
  ⟨h.1, h.2.1, h.2.2.1, h.2.2.2.1, h.2.2.2.2.1, h.2.2.2.2.2.1, h.2.2.2.2.2.2.1, h.2.2.2.2.2.2.2.1, h.2.2.2.2.2.2.2.2, q⟩

theorem witness_FabricNodes_edges :
    (let g := edging false 0 none { idx := 1, lim := 2 }
     EdgeReady 0 false g ∧ g.empty 2 0 0 = true ∧ eRow (fabWord g.img 2 0) = 64 ∧
       check g.st (win 0 + word 4) 4 { rd := true, mtMax := 1, align := 4 } = .ok (.tile 4) 0 false) ∧
    EdgeReady 0 false (edging false 0 none { idx := 2, lim := 2 }) ∧
    (let g := edging true 1 (tok 7) {}
     EdgeReady 0 true g ∧ g.head 2 0 0 = tok 7 ∧ inRegs 0x20000000 = false ∧
       check g.st 0x20000 4 { wr := true, mtMax := 1, align := 4 } = .ok (.pa 0x20000000) 1 false) ∧
    (let g := edging false 2 none { lim := 2 }
     EdgeReady 0 false g ∧ check g.st 0x40000 4 { rd := true, mtMax := 1, align := 4 } = .trap 13) :=
  ⟨⟨edgeReady (by decide +kernel) (quiet rfl rfl rfl rfl), by decide +kernel⟩, edgeReady (by decide +kernel) (quiet rfl rfl rfl rfl),
    ⟨edgeReady (by decide +kernel) (quiet rfl rfl rfl rfl), by decide +kernel⟩,
    ⟨edgeReady (by decide +kernel) (quiet rfl rfl rfl rfl), by decide +kernel⟩⟩

/-! The device's own steps -/

/-- A hart at a convoy of four `addi`, as it lies in a page that may be executed. -/
def fetching : State :=
  putMem 0x20000000 16 (0x10840400 * (1 + 2 ^ 32 + 2 ^ 64 + 2 ^ 96))
    { machine { scalar [] with pc := 0x20000, hstat := 0x8 } with
      tlb := [{ core := 0, l2 := false, asid := 0, vpage := 1, size := 17, leaf := 0x2000001F }] }
theorem witness_EventsOfHarts_decode :
    fetching.stop = none ∧ fetching.hart.status = .running ∧ fetching.hart.cv = {} ∧ attachHolds fetching.hart = false ∧
      check fetching fetching.hart.pc 16 { ex := true, window := false, align := 16 } = .ok (.pa 0x20000000) 0 false ∧
      Tab.get none (getCore fetching (myCore fetching)).icache (0x20000000 / 128) = none ∧
      Tab.get none fetching.hart.ahead (0x20000000 / 128) = none ∧
      (List.range 4).map (fun i => BitVec.ofNat 32 (getMem fetching (0x20000000 + 4 * i) 4)) = List.replicate 4 0x10840400 ∧
      decodeTrap fetching (List.replicate 4 0x10840400) 0 = none := by decide +kernel

/-- A convoy whose scalar slots have executed, and one in the VQ: its slot open, complete, and with a value to deliver. -/
def committing : State :=
  machine { scalar [] with cv := { live := true, slot := 4, acts := [{ slot := 3, w := 0xBC820038 }] } }
def heads (e : VqEntry) : State := machine { scalar [] with vq := [e] }
theorem witness_EventsOfHarts_convoys :
    (let h := committing.hart
     h.cv.live = true ∧ 4 ≤ h.cv.slot ∧ (splitFence h.cv.acts).2 = [] ∧ streamsOf h.cv.acts = 0 ∧
       stalls committing (roomFor 0 committing).2 h.cv.acts = false ∧ h.cv.after = .go ∧
       h.cv.acts.all (fun a => a.late.isEmpty) = true ∧ h.cv.acts.all isSetCtl = false ∧ h.ring = none ∧ h.vq = []) ∧
    (let e : VqEntry := { acts := [{ slot := 3, w := 0xBC820038 }] }
     takeReads (heads e) e = e ∧ headDone (heads e).hart e = false) ∧
    (let e : VqEntry := { acts := [{ slot := 3, w := 0xBC820038 }], cells := [(3, complete)] }
     takeReads (heads e) e = e ∧ headDone (heads e).hart e = true ∧ e.re = false ∧ (heads e).hart.iss.ringRead = false ∧
       e.results ++ (heads e).hart.iss.results ++ (heads e).hart.iss.whole.map (·.2) = []) ∧
    (let e : VqEntry := { acts := [{ slot := 0, w := 0xBC820038 }], cells := [(0, complete)], results := [.reg 31 5 1] }
     headDone (heads e).hart e = true ∧ e.results ++ (heads e).hart.iss.results ++ (heads e).hart.iss.whole.map (·.2) = [.reg 31 5 1]) := by
  decide +kernel

/-- A pending interrupt, masked and not. -/
def pending (st : Word) : State := machine { scalar [] with hstat := st, pend := [{ code := 1, tval := 9 }] }
theorem witness_EventsOfHarts_interrupt :
    (pending 0x1).hn < 1280 ∧ Acting (pending 0x1).hart ∧ takesIrq (pending 0x1).hart = false ∧
      takesIrq (pending 0x5).hart = true ∧ (pending 0x5).hart.pend = { code := 1, tval := 9 } :: [] ∧ TrapRoom (pending 0x5) :=
  ⟨by decide, ⟨by decide, by decide⟩, by decide +kernel, by decide +kernel, rfl, .inl rfl⟩

/-- The last hart waits. -/
def sleeping (r : WaitFor) : State := { machine (scalar []) with parked := [(1279, { status := .waiting r })] }
theorem witness_EventsOfHarts_wait :
    (1279 : Nat) < 1280 ∧ (getHart (sleeping .wait) 1279).status = .waiting .wait ∧ (sleeping .wait).hart.status ≠ .waiting .wait := by
  decide +kernel

/-- An arrival that waits: beside another member, and behind an exchange that the other has not issued. -/
def arriving (q : Tab CqEntry) : State :=
  { machine { scalar [] with pendArrivals := [5] } with
    clusters := [(0, { gid := [(0, 1), (1, 1)] })]
    cores := [(0, { cq := q })] }
theorem witness_EventsOfHarts_arrival :
    (let s := arriving []
     let u := performAllOf (.hart s.hn) (releaseState s)
     s.hart.pendArrivals ≠ [] ∧ u.stop = none ∧ displacedFrom u s.hn = [] ∧ (barrierOf u (.hart s.hn)).pendArrivals = [5] ∧
       owesAt u (.hart s.hn) 5 = false ∧ (barrierOf u (.hart s.hn)).arrived = false ∧
       ∃ j ∈ gangOf u (memberSeat u (.hart s.hn)), j ≠ memberSeat u (.hart s.hn) ∧
         (holderOf u (.hart s.hn) j).any (fun x => (barrierOf u x).arrived) = false) ∧
    (let s := arriving [(15, { phase := 1, xch := true })]
     let u := performAllOf (.hart s.hn) (releaseState s)
     s.hart.pendArrivals ≠ [] ∧ u.stop = none ∧ displacedFrom u s.hn = [] ∧ (barrierOf u (.hart s.hn)).pendArrivals = [5] ∧
       owesAt u (.hart s.hn) 5 = true) ∧
    (machine (scalar [])).hart.pendArrivals = [] ∧ displacedFrom (machine (scalar [])) 0 = [] := by decide +kernel

/-- The arrival of a displaced context, which is its own seat's. -/
theorem witness_EventsOfHarts_displaced :
    (let s : State := { machine (scalar []) with clusters := [(0,
       { gid := [(0, 1), (1, 1)], ctxn := 1, resumeList := [0]
         frames := [(0, { use := .listed, seat := some 0, barrier := some { pendArrivals := [5] } })] })] }
     let m := Member.frame 0 0
     let u := performAllOf m s
     displacedFrom s s.hn = [m] ∧ s.hart.pendArrivals = [] ∧ u.stop = none ∧ (barrierOf u m).pendArrivals = [5] ∧
       owesAt u m 5 = false ∧ (barrierOf u m).arrived = false) := by decide +kernel

theorem witness_EventsOfHarts_others :
    HartEvent (fun n => .tableWalk n 0) {} ∧ HartEvent .waitSpuriousEnd {} ∧ HartEvent .storeBufferDrain buffering.hart ∧
      Acting (getHart (sleeping .wait) 1279) ∧ ∃ u, exec (.waitSpuriousEnd 1279) (switchTo 1279 (sleeping .wait)) = .next u :=
  ⟨.inr (.inr (.inr ⟨0, rfl⟩)), .inr (.inr (.inl rfl)), .inr (.inl ⟨rfl, nofun⟩), ⟨by decide, by decide⟩, ⟨_, rfl⟩⟩

/-- The last bytes of HBM that exist, and the first that do not. -/
theorem witness_EventsOfMemory_write :
    populated State.reset (0x59682F0000 - 2) 2 = true ∧ populated State.reset (0x59682F0000 - 1) 2 = false := by decide +kernel

/-- Hart 1279 waits for a future: no slice has its request. -/
def requesting (pois full : Bool) (k : Nat) : State :=
  { sleeping .future with
    linePois := if pois then [(0x20000000 / 128, true)] else []
    full := if full then [(0x20000000 / 8, true)] else []
    deferred := List.replicate k { hart := 9, pa := 0x20000000, d := 0, b := 0 } }
theorem witness_EventsOfMemory_future :
    futureAt (requesting false false 255) 0x20000000 = true ∧ awaits (requesting false false 255) 1279 = true ∧
      awaits (requesting false false 0) 0 = false ∧ futureAt State.reset 0x59682F0000 = false ∧ futureAt State.reset 4 = false ∧
      linePoisoned (requesting true false 0) 0x20000000 8 = true ∧ awaits (requesting true false 0) 1279 = true ∧
      linePoisoned (requesting false true 0) 0x20000000 8 = false ∧ isFull (requesting false true 0) 0x20000000 = true ∧
      awaits (requesting false true 0) 1279 = true ∧ isFull (requesting false false 255) 0x20000000 = false ∧
      deferredAt (requesting false false 255) (homeOf 0x20000000) = 255 ∧
      awaits (requesting false false 256) 1279 = true ∧ deferredAt (requesting false false 256) (homeOf 0x20000000) = 256 := by
  decide +kernel

/-- A deferred request of a hart that still waits. -/
theorem witness_EventsOfMemory_answers :
    (let s : State := { sleeping .future with deferred := [{ hart := 1279, pa := 0x20000000, d := 1, b := 2 }] }
     (∃ d ∈ s.deferred, d.pa = 0x20000000 ∧ d.pa / 128 = 0x400000 ∧ (getHart s d.hart).status = .waiting .future) ∧
       isFull s 0x20000000 = false ∧ futureAt s 0x20000000 = true) := by decide +kernel

/-- A hit, a fault and a leaf. -/
theorem witness_EventsOfMemory_walk :
    fetching.hn < 1280 ∧ Acting fetching.hart ∧ (tlbHit fetching (myCore fetching) 0 0x20000).isSome = true ∧
      (walk State.reset 0 0x20000 = .fault cPageInvalid) ∧ Acting walkMem.hart ∧
      tlbHit walkMem (myCore walkMem) (wfld walkMem.hart.asid 0 16) 0x46028552345 = none ∧
      wfld (0x46028552345 : Word) 52 12 = 0 ∧ inWindow 0x46028552345 = false ∧
      walk walkMem walkMem.hart.ptbase 0x46028552345 = .leaf 0x123456000F 17 := by
  refine ⟨by decide, ⟨by decide, by decide⟩, ?_⟩
  refine ⟨by decide +kernel, by decide +kernel, ⟨by decide +kernel, by decide +kernel⟩, ?_⟩
  decide +kernel

/-- The last core's combining buffer; an exchange of a gang of one, ready to start and done; and one that waits for another. -/
def engines (q : CqEntry) : State :=
  { machine (scalar []) with cores := [(0, { cq := [(15, q)] }), (159, { comb := [{ pa := 0x20000000, op := 0, n := 8, val := 1 }] })] }
theorem witness_EventsOfMemory_engines :
    (getCore (engines {}) 159).comb ≠ [] ∧ (getCore (engines {}) 0).comb = [] ∧
      (∃ k ∈ gangOf (engines {}) 0, xchEntry (engines {}) k = none) ∧
      (let s := engines { phase := 1, xch := true }
       gangOf s 0 = [0] ∧ xchEntry s 0 = some 15 ∧ entryBlocked s (coreOf 0) 15 = false ∧ (getCq s 0 15).phase = 1 ∧
         (getCq s 0 15).xch = true) ∧
      (let s := engines { phase := 2 }
       let q := getCq s 0 15
       q.phase = 2 ∧ q.frame = none ∧ q.bar = false ∧ q.heads = [] ∧ (getHart s q.hart).pendArrivals = [] ∧
         (getCore s 0).retired = false) ∧
      (let s := engines { phase := 2, heads := [1] }
       (getCq s 0 15).heads ≠ [] ∧ (getHart s (getCq s 0 15).hart).pendArrivals = []) := by decide +kernel

/-- A stream or an exchange that waits for an earlier stream of its hart, and the same alone. -/
def behindStream (xch first : Bool) : State :=
  { machine (scalar []) with
    cores := [(0, { cq :=
      (if first then [(14, { phase := 1, seq := 1, src := win 0, dst := win 0x8000, bytes := 128 })] else [])
        ++ [(15, { phase := 1, xch := xch, seq := 3, src := win 0x8000, dst := win 0x4000, bytes := 4, vl := 1, ew := 32 })] })] }
theorem witness_EventsOfMemory_waiting :
    (getCq (behindStream false true) 0 15).xch = false ∧ entryBlocked (behindStream false true) 0 15 = true ∧
      entryBlocked (behindStream false false) 0 15 = false ∧ gangOf (behindStream true true) 0 = [0] ∧
      xchReady (behindStream true true) 0 = false := by decide +kernel

/-- A combining entry on a poisoned line; a stream behind a buffered store of its bytes, once alone and once behind another stream. -/
theorem witness_EventsOfMemory_kept :
    (let s : State := { engines {} with linePois := [(0x20000000 / 128, true)] }
     ∃ e es, (getCore s 159).comb = e :: es ∧ linePoisoned s e.pa e.n = true) ∧
    linePoisoned (engines {}) 0x20000000 8 = false ∧
    (∀ first ∈ [false, true],
      let a := behindStream false first
      let s : State := { a with hart := { a.hart with storeBuf := [{ loc := .tile 0x4000, n := 4, val := 1 }] } }
      let q := getCq s 0 15
      q.phase = 1 ∧ q.xch = false ∧ storesKeep s q = true ∧ (drainFor q.owner s).stop = none ∧
        entryBlocked (drainFor q.owner s) 0 15 = first) ∧
    (let s := engines { phase := 1, xch := true }; seatOf s (getCq s 0 15).hart = (getCq s 0 15).seat) :=
  ⟨⟨_, _, rfl, by decide +kernel⟩, by decide +kernel, by decide +kernel, by decide +kernel⟩

/-- A byte of a line that another device has written; a line with none. -/
theorem witness_EventsOfMemory_evict :
    (let s : State := { State.reset with far := [(0x8000000005, some 7)] }
     Tab.wf none s.far = true ∧ Tab.get none s.far 0x8000000005 = some 7 ∧ 0x8000000005 / 128 = 0x100000000 ∧
       Tab.get none s.far 0x8000000006 = none) := by decide +kernel

/-- A hart of the last core that negotiates: it has 4 lanes, or none yet. -/
def bidding (o : Tab Nat) : State :=
  { machine {} with
    parked := [(1279, { status := .running, neg := some { want := 1, stage := 2 } })]
    cores := [(159, { owners := o, marks := [(3, true)] })]
    clusters := [(9, { ctxn := 1 })] }
theorem witness_EventsOfContexts_lanes :
    negotiating State.reset 1279 = false ∧
    (let s := bidding [(3, 8)]
     (getHart s 1279).neg = some { want := 1, stage := 2 } ∧ 4 ≤ lanesOwned s 1279 ∧
       (ownedList s 1279).any (marked s (coreOf 1279)) = true ∧ freeFrame s (clusterOf 1279) = some 0 ∧
       canStop (getHart s 1279) = true) ∧
    (let s := bidding [(0, 1)]
     (getHart s 1279).neg = some { want := 1, stage := 2 } ∧ lanesOwned s 1279 < 4 ∧
       findFrom (groupFree s 1279) 0 16 = some 1 ∧
       (ownedList s 1279).any (marked s (coreOf 1279)) = false) := by decide +kernel

/-- The owner of a marked group, inside a convoy. -/
theorem witness_EventsOfContexts_stop :
    (let s : State := { bidding [(3, 8)] with parked := [(1279, { status := .running, cv := { live := true, slot := 1 } })] }
     (ownedList s 1279).any (marked s (coreOf 1279)) = true ∧ freeFrame s (clusterOf 1279) = some 0 ∧ Acting (getHart s 1279) ∧
       canStop (getHart s 1279) = false ∧ (getHart s 1279).rowsDue = none) := by
  refine ⟨by decide +kernel, by decide +kernel, ⟨by decide, by decide⟩, by decide +kernel, by decide +kernel⟩

/-- A frame of the last cluster is listed. -/
def listed : State :=
  { machine {} with clusters := [(9, { ctxn := 1, resumeList := [0], frames := [(0, { use := .listed, home := 159 })] })] }
theorem witness_EventsOfContexts_resume :
    (1279 : Nat) < 1280 ∧ isFree listed 1279 = true ∧ (getHart listed 1279).status = .noContext ∧ resumeOrder listed 9 = [0] ∧
      (getFrame listed 9 0).use = .listed ∧ (getFrame listed 9 0).taking = false ∧
      (getFrame listed 9 0).target.getD (getFrame listed 9 0).home = coreOf 1279 ∧ fld (frameWord listed 9 0 0) 23 17 = 0 ∧
      nbit (frameWord listed 9 0 0) 61 = false ∧ streamsWritten listed 9 0 = true ∧
      isFree (sleeping .wait) 1279 = false := by decide +kernel

/-- The last queue holds one record, and a hart of its cluster waits for it; a table maps one page. -/
def queued (r : QRec) : State :=
  { walkMem with
    parked := [(1279, { status := .waiting .task })]
    queues := [(639, { ctl := 0x8000000000000000, onchip := [r] })] }
theorem queued_only (r : QRec) : OnlyRecord 639 r (queued r) :=
  ⟨⟨rfl, rfl⟩, fun i h => by
    show (Tab.get {} [(639, _)] i : Queue).onchip = []
    simp only [Tab.get]
    rw [if_neg (Ne.symm h)]⟩
theorem witness_EventsOfContexts_dispatch :
    (getCluster (queued {}) 9).resumeList = [] ∧ OnlyRecord 639 {} (queued {}) ∧ wantsLookup (queued {}) {} = false ∧
      chooseHead (queued {}) 9 = some (639, {}, [1279]) := ⟨rfl, queued_only _, by decide +kernel, by decide +kernel⟩

/-- A hart that waits at `task.done` with its streams over. -/
def finishing : State :=
  { machine (scalar []) with
    hart := { status := .waiting .stream, bound := some { queue := 639, tid := 0 }
              cv := { live := true, words := [0, 0, 0, 0x7FE00002], slot := 3 } }
    tasks := [(taskKey 639 0, { members := [.hart 0] })] }
theorem witness_EventsOfContexts_completion :
    finishing.hn < 1280 ∧ finishing.hart.bound = some { queue := 639, tid := 0 } ∧ finishing.hart.cv.live = true ∧
      finishing.hart.status = .waiting .stream ∧ (getTask finishing 639 0).members = [.hart finishing.hn] ∧
      (let w := (nth 0 finishing.hart.cv.words finishing.hart.cv.slot).toNat
       let u := releaseState finishing
       isTaskDone w = true ∧ u.stop = none ∧ unperformed u = false ∧ (getTask u 639 0).owing = [] ∧ recField (getTask u 639 0).rc.bytes 104 8 = 0 ∧
         BitVec.ofNat 5 (fld w 21 5) = 31) ∧
      ∀ n, (getTask State.reset 639 0).members ≠ [.hart n] :=
  ⟨by decide, rfl, rfl, rfl, by decide +kernel, by decide +kernel, fun _ => nofun⟩

/-- A pure record at the head, whose `asid` is mapped to tenant 0 or to tenant 1; and an entry with its key. -/
def pure : QRec := { bytes := List.replicate 16 0 ++ [1, 0, 0, 0] ++ List.replicate 108 0 }
def looking (es : List ReuseEntry) (m : List Host.Cell) : State :=
  { queued pure with mem := m, reuse := { ctl := 0x8000000000000000, entries := es } }
noncomputable def known : ReuseEntry :=
  { tenant := 1, key := (reuseKey [0, 0, 0, 0] pure.bytes {} (looking [] [(0, 1)])).2, spans := [], value := 0, age := 0 }
theorem witness_EventsOfContexts_lookup :
    (639 : Nat) < 640 ∧ readyHead (looking [] []) 639 = some pure ∧ lookDue (looking [] []) 639 pure = true ∧ lookDue (looking [] [(0, 1)]) 639 pure = true ∧
      mapTenant (looking [] []) (getQueue (looking [] []) 639).qasid = some 0 ∧
      mapTenant (looking [] [(0, 1)]) (getQueue (looking [] [(0, 1)]) 639).qasid = some 1 ∧
      lookRanges (looking [] [(0, 1)]) 0 pure.bytes = some {} ∧ recField pure.bytes 104 8 = 0 ∧
      lookDue (looking [] []) 639 { pure with looked := true } = false ∧ readyHead State.reset 639 = none := by decide +kernel
theorem witness_EventsOfContexts_hit :
    findEntry (looking [known] [(0, 1)]) 1
        (reuseKey (getTenant (looking [known] [(0, 1)]) 1).salt pure.bytes {} (looking [known] [(0, 1)])).2 = some known ∧
      known.tenant = 1 ∧ known.spans = ({} : Look).outs ∧ (getQueue (looking [known] [(0, 1)]) 639).spilled = 0 := by
  refine ⟨?_, rfl, rfl, rfl⟩
  have k : ∀ s, (reuseKey [0, 0, 0, 0] pure.bytes {} s).2 = (reuseKey [0, 0, 0, 0] pure.bytes {} (looking [] [(0, 1)])).2 :=
    fun _ => by simp only [reuseKey, rangeDigest, show cutLeaves (ceilDiv (spanLen []) 4096) [] = [] from rfl, List.foldl_nil]
  rw [show (getTenant (looking [known] [(0, 1)]) 1).salt = [0, 0, 0, 0] from rfl, k,
    show (reuseKey [0, 0, 0, 0] pure.bytes {} (looking [] [(0, 1)])).2 = known.key from by unfold known; rfl]
  show [known].find? (fun x => decide (x.tenant = 1) && decide (x.key = known.key)) = some known
  simp [show known.tenant = 1 from rfl]

/-- The last channel is bound to the last queue; its token names the third record of the mapped page. -/
def launching (q : Queue) (m : List Host.Cell) : State :=
  { walkMem with
    mem := (walkMem.mem ++ m)
    queues := [(639, { q with ptb := 0x400000 })]
    ingress := [(255, { ctl := word (2 ^ 63 + 2 ^ 62 + 639 * 2 ^ 48), tokens := [(9, 2)], rbase := 0x46028540000 })] }
theorem witness_EventsOfContexts_launch :
    (let s := launching enabled []
     let ch := getIn s 255
     let q := getQueue s ch.queue
     ch.tokens = (9, 2) :: [] ∧ ch.isBound = true ∧ ch.lfault = false ∧ ch.queue = 639 ∧
       checkCtl s q.ptb (ch.rbase + word (128 * (2 : BitVec 32).toNat)) 128 false { rd := true, mtMax := 1, window := false, align := 128 }
         = .ok (.pa 0x1234560100) 0 false ∧
       q.en = true ∧ malformed (getBytes s 0x1234560100 128) = false ∧ q.spf = false ∧ q.onchip.length < 32 ∧ q.spilled = 0) ∧
    (let s := launching enabled [(0x123456010E, 0x40)]
     (getQueue s 639).en = true ∧ malformed (getBytes s 0x1234560100 128) = true) := by decide +kernel

/-- The last queue has one record in its ring, and room for one on chip. -/
theorem witness_EventsOfContexts_refill :
    (let s := launching { enabled with ring := 0x46028540000, spilled := 1, onchip := List.replicate 31 {} } []
     let q := getQueue s 639
     q.spf = false ∧ q.spilled = 1 ∧ q.onchip.length < 32 ∧
       checkCtl s q.ptb (ringVa q q.head) 128 true { rd := true, mtMax := 1, window := false, align := 128 }
         = .ok (.pa 0x1234560000) 0 false) := by decide +kernel

/-- The last hart waits in `mattach`; 12 rows of its quad are free. -/
def attaching : State := { sleeping .attach with quads := [(39, 36)] }
theorem witness_EventsOfContexts_attach :
    attachQueue attaching 39 = [1279] ∧ (getHart attaching 1279).rowsDue = none ∧ 12 ≤ rowsFree attaching 39 ∧
      attachQueue attaching 0 = [] := by decide +kernel

/-- The invocation in slot 15 has stopped: with more to do, done, or with its group full. -/
def stoppedAt (r : FabRun) : State :=
  { bound15 (some 0) { r with live := true } with hart := { (bound15 none {}).hart with fopStop := [15] } }
theorem stoppedAt_part (r : FabRun) : StoppedPart (stoppedAt r) 15 := ⟨⟨nofun, nofun⟩, (by decide : 0 < 1280), by with_unfolding_all rfl, by with_unfolding_all rfl, rfl⟩
theorem witness_EventsOfContexts_invocation :
    (∀ r, StoppedPart (stoppedAt r) 15) ∧ (stoppedRun (stoppedAt (freshRun copyImage)) 15).complete = false ∧
      (stoppedRun (stoppedAt { freshRun copyImage with vdDone := true }) 15).complete = true ∧
      (let s := stoppedAt { freshRun copyImage with out := 64 }
       hasVd (stoppedRun s 15).img = true ∧ s.hart.maxVl ≤ (stoppedRun s 15).run.out) ∧
      (let g := stoppedRun (stoppedAt (freshRun copyImage)) 15
       15 < 16 ∧ edgesWhere g.img (fun w => ePort w = 0) ≠ []) ∧
      (let sl := Tab.get {} (getCore (bound15 none { live := true }) 0).slots 15
       sl.valid = true ∧ sl.run.live = true ∧ sl.owner = none ∧ sl.run.arcs = []) :=
  ⟨stoppedAt_part, by decide +kernel, by decide +kernel, by decide +kernel, by decide +kernel, by decide +kernel⟩

/-- A run of a hart that no stop holds, and one that no hart owns. -/
theorem witness_EventsOfContexts_slots :
    (let s := bound15 (some 0) { live := true }
     (getSlot s 15).owner = some 0 ∧ (getHart s 0).fopStop.contains 15 = false) ∧
    (let s := bound15 none { live := true }
     let g := drained 15 (inSlot (getSlot s 15) (switchTo (8 * 0) s))
     (getSlot s 15).valid = true ∧ (getSlot s 15).run.live = true ∧ (getSlot s 15).owner = none ∧ g.st.stop = none ∧ g.st.hn = 0) := by
  decide +kernel

/-- The invocation in slot 15 goes on with the `fop` of its convoy, and finds the first word of its stream poisoned. -/
def faulting : State :=
  { stoppedAt { freshRun copyImage with edges := [(0, { lim := 2 })] } with
    hart := { (stoppedAt {}).hart with
      vpois := [(62 * 1024, true)]
      vq := [{ pc := 0, words := [], acts := [{ slot := 2, w := 0xDBFFF800, c0 := 2 }], re := true }] } }
theorem witness_EventsOfContexts_fopFault :
    (match fopHead faulting 15 with
      | some (e, a, young) =>
        let u := fopIssued e a young faulting; let g := fopOnward 15 a u
        e.space.isNone && !fopRefused 15 a u && g.fault = some (cPoison, markOf 0 62) && g.st.hn = faulting.hn
          && g.st.stop.isNone && g.st.hart.shadow.isEmpty
      | none => false) = true ∧ StoppedPart faulting 15 ∧ word cPoison ≠ word cPurity ∧
      fopHead (stoppedAt (freshRun copyImage)) 15 = none :=
  ⟨by decide +kernel, ⟨⟨nofun, nofun⟩, (by decide : 0 < 1280), by with_unfolding_all rfl, by with_unfolding_all rfl, rfl⟩,
    by decide, by decide +kernel⟩

/-- The last context of die 1 holds this collective. -/
def engaged (c : CollCtx) : State := { machine {} with colls := [(63, { c with live := true, cid := 7 })] }
theorem engaged_ports (c : CollCtx)
    (h : ((getColl (engaged c) 63).outs.filter (fun n => !(getColl (engaged c) 63).outDone.contains n)).length ≤ 1024) :
    canSendOuts (engaged c) (getColl (engaged c) 63) = true := by
  unfold canSendOuts canSend
  rw [List.all_eq_true]
  intro n _
  show (true && true && (true && decide (0 + (List.filter _ _).length ≤ 1024))) = true
  rw [Nat.zero_add, decide_eq_true (Nat.le_trans (List.length_filter_le ..) h)]
  rfl
def sender : CollCtx := { role := .send, peer := 5, exps := 1, own := [{ mants := [1] }] }
def middle : CollCtx :=
  { role := .red, peer := 5, children := [6], exps := 1, inputs := [(0, { digits := [(0, some 1)] })] }
theorem witness_EventsOfLinks_contexts :
    (1 * 32 + 31 = 63) ∧ CanSend 63 .send (engaged sender) ∧ CanSend 63 .red (engaged middle) ∧
      (let c := getColl (engaged { sender with stop := true }) 63
       c.outDone = [] ∧ c.stop = true) ∧
      (let c := getColl (engaged { sender with ntile := 0 }) 63
       c.outDone = [] ∧ c.nextRound = none) ∧
      (let c := getColl (engaged sender) 63
       c.outDone = [] ∧ c.stop = false ∧ c.nextRound = some (0, 0, 0) ∧ c.winEnd 0 ≤ c.exps) ∧
      (let c := getColl (engaged middle) 63
       c.outDone = [] ∧ c.stop = false ∧ c.peer ≠ 0xFFF ∧ c.slots = [] ∧ c.dirty = [] ∧ c.nextRound = some (0, 0, 0) ∧
         c.winEnd 0 ≤ c.exps ∧ digitsOf c 0 0 = some [1]) ∧ (getColl State.reset 63).live = false :=
  ⟨rfl, ⟨rfl, rfl, engaged_ports _ (by decide +kernel)⟩, ⟨rfl, rfl, engaged_ports _ (by decide +kernel)⟩, ⟨rfl, rfl⟩, ⟨rfl, by decide +kernel⟩,
    ⟨rfl, rfl, by decide +kernel, by decide +kernel⟩,
    ⟨rfl, rfl, by decide +kernel, rfl, rfl, by decide +kernel, by decide +kernel, by decide +kernel⟩, rfl⟩

/-- A flit of node 5 for node 0 and collective 7, as it sends it; and one whose CRC does not hold. -/
def flitOf5 (b : FlitBody) : Flit := stampFlit {} (makeFlit { machine {} with mgmt := { node := 5 } } { b with cid := 7 })
def broken (b : FlitBody) : Flit := { flitOf5 b with crc := 0 }
def downPort (q : Port) : State := { machine {} with ports := [(15, q)] }
theorem flitOf5_arrives : ∀ ty ∈ [1, 2, 3, 4, 5], ∀ c ∈ [sender, middle],
    Arrives 15 (flitOf5 { type := ty }) (engaged c) := by
  have h : (∀ ty ∈ [1, 2, 3, 4, 5], ∀ c ∈ [sender, middle], portUp (engaged c) 15 = true ∧
      flitGood (engaged c) 15 (flitOf5 { type := ty }) = true ∧ (flitOf5 { type := ty }).dst = (engaged c).mgmt.node) := by decide +kernel
  exact fun ty a c b => ⟨(h ty a c b).1, (h ty a c b).2.1, (h ty a c b).2.2⟩
theorem witness_EventsOfLinks_flits :
    (∀ e ∈ flitEvents, (flitOf5 { type := 0 }).type ≠ e.2) ∧ portUp (downPort { down := true }) 15 = false ∧
      portUp State.reset 16 = false ∧
      (∀ ty ∈ [1, 2, 3, 4, 5], (broken { type := ty }).type = BitVec.ofNat 8 ty ∧ portUp State.reset 15 = true ∧
        flitGood State.reset 15 (broken { type := ty }) = false) ∧
      (∀ ty ∈ [1, 2, 3, 4], (flitOf5 { type := ty }).type = BitVec.ofNat 8 ty ∧ portUp State.reset 15 = true ∧
        flitGood State.reset 15 (flitOf5 { type := ty }) = true ∧ (flitOf5 { type := ty }).dst = State.reset.mgmt.node ∧
        flitColl State.reset (flitOf5 { type := ty }) = none) ∧
      (let full : State := downPort { held := List.replicate 64 (flitOf5 {type := 1}) }
       portUp full 15 = true ∧ flitGood full 15 (flitOf5 { type := 1 }) = true ∧ isRoundFlit (flitOf5 { type := 1 }) = true ∧
         isRoundFlit (flitOf5 { type := 3 }) = false ∧ 64 ≤ ((getPort full 15).held.filter isRoundFlit).length) := by
  refine ⟨?_, ?_⟩
  · simp only [flitEvents, List.mem_cons, List.not_mem_nil, or_false]
    rintro e (rfl | rfl | rfl | rfl | rfl) <;> decide +kernel
  · decide +kernel

/-- A child's rounds, exponents and end at a reducer; an end at a receiver; a cancel at a sender. -/
def parent : CollCtx := { role := .red, peer := 0xFFF, children := [5], g := 4 }
def round4 : FlitBody := { type := 1, round := 3, nblk := 5 }
theorem witness_EventsOfLinks_delivery :
    (let s := engaged parent
     portUp s 15 = true ∧
      (∀ b ∈ [round4, { type := 2 }, { type := 3 }], flitGood s 15 (flitOf5 b) = true ∧ (flitOf5 b).dst = s.mgmt.node ∧
        flitColl s (flitOf5 b) = some 63) ∧
      (let c := getColl s 63; let f := flitOf5 round4
       f.type = 1 ∧ c.role = .red ∧ f.nblk.toNat = c.g + 1 ∧ c.g ≤ 4 ∧ f.round.toNat < c.w ∧ f.tile.toNat < c.ntile) ∧
      (let f := flitOf5 { type := 2 }
       f.type = 2 ∧ 1 ≤ f.nblk.toNat ∧ f.tile.toNat < (getColl s 63).ntile)) ∧
    (let s := engaged { role := .recv, peer := 5 }
     portUp s 15 = true ∧ flitGood s 15 (flitOf5 { type := 3 }) = true ∧ (flitOf5 { type := 3 }).dst = s.mgmt.node ∧
       flitColl s (flitOf5 { type := 3 }) = some 63 ∧ (getColl s 63).role = .recv) ∧
    (let s := engaged sender
     portUp s 15 = true ∧ flitGood s 15 (flitOf5 { type := 4 }) = true ∧ (flitOf5 { type := 4 }).dst = s.mgmt.node ∧
       flitColl s (flitOf5 { type := 4 }) = some 63 ∧ (getColl s 63).role = .send) := by decide +kernel

/-- A replay request for a flit that waits; the replays at their limit; a port that retrains, and a collective through it. -/
theorem witness_EventsOfLinks_ports :
    (let s := downPort { seq := 1, replay := [flitOf5 { type := 1 }] }
     let f := flitOf5 { type := 5, payload := 0 }
     portUp s 15 = true ∧ f.type = 5 ∧ flitGood s 15 f = true ∧
       ∃ g ∈ (ackTo f.ack (getPort s 15)).replay, g.seq.toNat = ofBytes (f.payload.take 4)) ∧
    (portUp (downPort { replays := 16 }) 15 = true ∧ 16 ≤ (getPort (downPort { replays := 16 }) 15).replays) ∧
    (portUp (downPort { asks := 16 }) 15 = true ∧ 16 ≤ (getPort (downPort { asks := 16 }) 15).asks) ∧
    ((getPort (downPort { replays := 15, asks := 15 }) 15).replays < 16 ∧ (getPort (downPort { replays := 15, asks := 15 }) 15).asks < 16) ∧
    (({} : Port).room 1 = true ∧ ({ replay := List.replicate 1024 (flitOf5 { type := 1 }) } : Port).room 1 = false) ∧
    ((getPort State.reset 15).retraining = false ∧ (getPort (downPort { retraining := true }) 15).retraining = true) := by
  decide +kernel
theorem witness_EventsOfLinks_down :
    (let p := portTo 5
     let s : State := { engaged sender with ports := [(p, { retraining := true })] }
     (getPort s p).retraining = true ∧
       ∃ k c, (k, c) ∈ s.colls ∧ c.live = true ∧ ∃ n ∈ c.ins ++ c.outs, portTo n = p) := by
  refine ⟨?_, 63, { sender with live := true, cid := 7 }, .head _, rfl, 5, .head _, rfl⟩
  show (Tab.get {} [(portTo 5, _)] (portTo 5) : Port).retraining = true
  simp only [Tab.get, if_true]

/-- The last channel of each kind, as it stands. -/
def channel (c : Channel) : State := { machine {} with ingress := [(255, c)], egress := [(255, c)] }
def open255 : Channel := { ctl := 0x8000000000000000 }
theorem witness_EventsOfRegisters_channels :
    raiseRefused (channel open255) (getIn (channel open255) 255) = false ∧
      raiseRefused (channel { open255 with prod := 64 }) (getIn (channel { open255 with prod := 64 }) 255) = true ∧
      (getOut (channel open255) 255).tokens = [] ∧
      (getOut (channel { open255 with tokens := [(9, 5)] }) 255).tokens = (9, 5) :: [] ∧
      (getIn (channel open255) 255).lfault = false ∧ (getIn (channel { open255 with lfault := true }) 255).lfault = true ∧
      (getIn (channel { open255 with lfault := true }) 255).tokens = [] := by decide +kernel

/-- The last hart's gang can change; it is busy; its gang of 16 is full. -/
def joining (g : Tab Nat) (h : Hart) : State := { machine {} with parked := [(1279, h)], clusters := [(9, { gid := g })] }
theorem witness_EventsOfRegisters_gangs :
    (let fits (s : State) : Prop :=
       let u := modCluster 9 (fun c => { c with gid := Tab.set 0 c.gid 127 (wfld 5 0 5 + 1) }) s
       (gangOf s 1279).length ≤ 16 ∧ (gangOf u 1279).length ≤ 16 ∧ (∀ m ∈ gangOf s 1279 ++ gangOf u 1279, gangBusy s m = false) ∧
         (getCore s (coreOf 1279)).retired = false
     fits (joining ((List.range 15).map (fun k => (k + 96, 6))) {}) ∧ ¬ fits (joining [] { arrived := true }) ∧
       ¬ fits (joining ((List.range 16).map (fun k => (k + 96, 6))) {})) := by decide +kernel

theorem witness_EventsOfRegisters_queues :
    (let s : State := { machine {} with queues := [(639, { spf := true })] }
     (getQueue s 639).spf = true ∧ (getQueue s 639).reserve = none ∧ (getQueue s 639).spilled = 0) ∧
      (getQueue State.reset 639).spf = false := by decide +kernel

/-- The last cluster with its last frame in use so; a header of 64 registers and a VLMAX of 65,536 saved at 2,048. -/
def frames (u : FrameUse) (m : List Host.Cell) : State :=
  { machine {} with mem := m, clusters := [(9, { ctxn := 255, frames := if u = .free then [] else [(254, { use := u })] })] }
def header (w0 w1 : Nat) : List Host.Cell := (putMem (frameAddr (frames .free []) 9 254) 16 (w0 + w1 * 2 ^ 64) (frames .free [])).mem
theorem witness_EventsOfRegisters_commands :
    (10 ≤ 10 ∧ wfld (0x0100000000000000 : Word) 56 4 ≠ 2 ∧ wbit (getCluster (frames .held []) 9).cmd 63 = false) ∧
    (getFrame (frames .held []) 9 254).use ≠ .listed ∧ (getFrame (frames .listed []) 9 254).use = .listed ∧
    (getFrame (frames .listed []) 9 254).use ≠ .held ∧ (getFrame (frames .held []) 9 254).use = .held ∧
    resumeStatus (frames .held []) 9 254 159 = 2 ∧
    resumeStatus (frames .held (header (64 * 2 ^ 47 + 65536 * 2 ^ 23) 2048)) 9 254 159 = 3 ∧
    resumeStatus (frames .held (header (64 * 2 ^ 47 + 65536 * 2 ^ 23 + 12 * 2 ^ 54) 65536)) 9 254 159 = 4 ∧
    resumeStatus (frames .held (header (64 * 2 ^ 47 + 65536 * 2 ^ 23) 65536)) 9 254 159 = 0 ∧
    ((getFrame (frames .free []) 9 254).use = .free ∧ 254 < frameCount (frames .free []) 9 ∧
      nbit (frameWord (frames .free []) 9 254 32) 63 = false) ∧ frameCount (frames .free []) 9 ≤ 255 := by decide +kernel

/-- DISPLACE of the last hart: no free frame; one; not before its queues are empty; not now. -/
def leaving (n : Word) (h : Hart) : State := { machine {} with parked := [(1279, h)], clusters := [(9, { ctxn := n })] }
def displaceWord : Word := word (2 ^ 56 + 1279 * 2 ^ 8)
theorem witness_EventsOfRegisters_displace :
    (let w := cmdKept displaceWord
     wfld displaceWord 56 4 = 1 ∧ wfld w 8 11 = 1279 ∧ clusterOf 1279 = 9 ∧ wbit w 55 = false) ∧
    wfld (cmdKept (word (2 ^ 56 + 1280 * 2 ^ 8))) 8 11 = 1280 ∧
    (let s := leaving 0 { status := .running }
     (getHart s 1279).status ≠ .noContext ∧ idleTaker (getHart s 1279) = false ∧ frameFor s 1279 = none) ∧
    (let s := leaving 1 { status := .running }
     frameFor s 1279 = some 0 ∧ canStop (getHart s 1279) = true ∧ quiesced (getHart s 1279) = true) ∧
    (let s := leaving 1 { status := .running, answer := some (0, 0) }
     frameFor s 1279 = some 0 ∧ canStop (getHart s 1279) = false) ∧
    (let s := leaving 1 { status := .running, vq := [{}] }
     frameFor s 1279 = some 0 ∧ canStop (getHart s 1279) = true ∧ wbit (cmdKept (displaceWord ||| word (2 ^ 55))) 55 = true ∧
       quiesced (getHart s 1279) = false) ∧
    idleTaker (getHart (leaving 1 { status := .waiting .task }) 1279) = true ∧
    canStop { status := .waiting .stream, cv := { live := true, slot := 1 } } = false ∧
    (getHart (leaving 1 {}) 1279).status = .noContext := by decide +kernel

theorem witness_EventsOfRegisters_words :
    inRegs 0x59682F0000 = false ∧ 0x3FF0001000004 % 8 ≠ 0 ∧ clusterWords ≠ [] ∧ wbit (1 : Word) 0 = true ∧ wbit (2 : Word) 0 = false :=
  ⟨by decide +kernel, by decide, nofun, by decide +kernel, by decide +kernel⟩

/-- A message with the next number, and one without it. -/
def message (n : BitVec 32) : MsgHead := { seq := n, ack := 0, tag := 5 }
theorem witness_EventsOfManagement_messages :
    (message 0).seq = State.reset.mgmt.expect ∧ notUp State.reset = false ∧
      notUp { State.reset with mgmt := { steps := 1 } } = true ∧ (message 1).seq ≠ State.reset.mgmt.expect ∧
      MessageEvent (message 1) (.reset (message 1)) ∧ State.reset.mgmt.rings = none ∧
      ({ State.reset with mgmt := { rings := some (0, 0) } } : State).mgmt.rings ≠ none ∧
      (State.reset.mgmt.held = false ∧ 1279 ∈ [0, 1279] ∧ (getHart State.reset 1279).status = .noContext ∧
        (getCore State.reset (coreOf 1279)).retired = false) :=
  ⟨rfl, rfl, rfl, by decide, .inr (.inr (.inr (.inr (.inr (.inr (.inr (.inr (.inl rfl)))))))), rfl, by decide, by decide +kernel⟩

/-- The NGI of spec/26_compatibility.md at the end of HBM; the same with a malformed word, and with an operation that no
feature word has. -/
def filterNgi (w1 : Nat) : List Byte :=
  [0x0100040400002000, 0, 0, 0, 0, 0, 0, 0, w1, 0x7F, 0x8700000000000000, 0x7F, 0x0100000000000000, 0x800000000000007F,
    0x1900000000000000, 0x800000000000007F, 0x0400000000000000, 0x0400800000000000, 0x0000C00000000000,
    0x0201800000000000].flatMap (fun w => toBytes w 8)
def graph (w1 : Nat) : State := { machine {} with mem := putBytesRaw [] (0x59682F0000 - 192) (filterNgi w1) }
theorem witness_EventsOfManagement_graph :
    (0x59682F0000 - 192) % 64 = 0 ∧ (0x59682F0000 - 191) % 64 ≠ 0 ∧
      (let g := wordsOf (getBytes (graph 0x5300040000000032) (0x59682F0000 - 192) 160)
       populated (graph 0x5300040000000032) (0x59682F0000 - 192) 160 = true ∧ ngiMalformedAt g 160 = none ∧
         ∀ n, n < ngiNodes g → lacks g n = false) ∧
      ngiMalformedAt (wordsOf (getBytes (graph 0x5300040100000032) (0x59682F0000 - 192) 160)) 160 = some 64 ∧
      (let g := wordsOf (getBytes (graph 0x7F00040000000032) (0x59682F0000 - 192) 160)
       ngiMalformedAt g 160 = none ∧ ∃ n, n < ngiNodes g ∧ lacks g n = true) ∧
      populated (graph 0) 0x59682F0000 160 = false := by decide +kernel

/-- The image of the same graph (R300, R431), and what R430 says of it: its nodes on c0, c4, e0 and e1, and no other way round. -/
def filterImage : List Word :=
  [0x0100030001042000, 0, 0, 0, 0, 0, 0, 0, 0x5300040000000032, 0, 0, 0x8700000000000000, 0x0100000000000000,
    0x1900000000000000, 0x8000000000000000, 0x8002040000000000, 0x0002400000000000, 0x0820800000000000]
theorem test_placement :
    (let g := wordsOf (filterNgi 0x5300040000000032)
     goodPlacement g filterImage [0, 4, 0, 1] 1 = true ∧ goodPlacement g filterImage [4, 0, 0, 1] 1 = false ∧
       goodPlacement g filterImage [0, 4, 0, 1] 2 = false) := by decide +kernel

/-- A reply that the host has not acknowledged, with room for it in the ring. -/
def unacked : State :=
  { State.reset with hext := 0x8000, mgmt := { rings := some (0, 0x4000), sent := [{ seq := 5, type := 9, tag := 0, payload := [] }] } }
theorem witness_EventsOfManagement_resync :
    (message 0).seq = unacked.mgmt.expect ∧ notUp unacked = false ∧ (accepted (message 0) unacked).mgmt.sent = unacked.mgmt.sent ∧
      populated unacked (hostBase + 0x4000 + 64 * 5) 64 = true := by decide +kernel

/-- Without CXL memory no slot is a granary's: the placer is asked, and it finds an image or none. -/
theorem witness_EventsOfManagement_placement (w m : Nat) (key : List Byte) :
    granarySlot (graph w) key = none ∧ (granarySlot (graph w) key).bind (fun a => granaryHit (graph w) a key) = none ∧
      (placed (filterNgi w) m = none ∨ ∃ img, placed (filterNgi w) m = some img) ∧
      (graph w).mgmt.rings = none ∧ populated (graph w) 0 0x1000 = true := by
  have h : granarySlot (graph w) key = none := by
    unfold granarySlot
    split
    · rfl
    · have p (a : Nat) : 0x100000000000 ≤ a → populated (graph w) a 4096 = false := fun ha => by
        unfold populated
        rw [if_neg (by omega)]
        simp [graph, machine, State.reset, Tab.get]
      dsimp only
      rw [p]
      · simp
      · unfold cxlBase
        omega
  refine ⟨h, by rw [h]; rfl, ?_, rfl, by simp [populated, hbmEnd]⟩
  cases hp : placed (filterNgi w) m with
  | none => exact .inl rfl
  | some i => exact .inr ⟨i, rfl⟩

/-- The last hart runs, holds nothing, and is halted. -/
def debugged (h : Hart) : State := { machine {} with parked := [(1279, h)] }
theorem witness_EventsOfManagement_debug :
    (let h := getHart (debugged { status := .running }) 1279
     h.status ≠ .noContext ∧ h.status ≠ .halted ∧ h.shadow = []) ∧ (getHart (debugged {}) 1279).status = .noContext ∧
      (getHart (debugged { status := .halted }) 1279).status = .halted := by decide +kernel

theorem witness_EventsOfManagement_others :
    (State.reset.mgmt.rings = none ∧ State.reset.mgmt.dumpRel = false) ∧
      (let s : State := { State.reset with mgmt := { clockStep := 12, events := [(2, 9)] } }
       12 ≤ s.mgmt.clockStep ∧ Tab.get 0 s.mgmt.events 2 ≠ 0) ∧ State.reset.mgmt.clockStep < 12 ∧
      Tab.get 0 State.reset.mgmt.events 2 = 0 ∧
      (ownerOf State.reset 159 (63 / 4) = 0 ∧ (getCluster State.reset (159 / 16)).resumeList = [] ∧
        4 ≤ activeLanes 65535 (setBit (getCore State.reset 159).lanefal 63 true).toNat) ∧
      ∀ n, 8 * 159 ≤ n → n < 8 * 159 + 8 → (getHart State.reset n).status = .noContext :=
  ⟨by decide +kernel, by decide +kernel, by decide +kernel, by decide +kernel, by decide +kernel, fun n a b => by
    have h : (List.range 8).all (fun k => decide ((getHart State.reset (1272 + k)).status = .noContext)) = true := by decide +kernel
    have := of_decide_eq_true (List.all_eq_true.1 h (n - 1272) (List.mem_range.2 (by omega)))
    rwa [show 1272 + (n - 1272) = n by omega] at this⟩

/-! The step, the encodings and the invariant -/

theorem steps {s : State} (h : (s.stop.isNone && s.inputs.isEmpty && !s.mgmt.stopped && !s.mgmt.held && decide (s.hart.status ≠ .noContext)
    && decide (s.hart.status ≠ .halted) && !displacing s s.hn && !s.hart.haltReq && s.hart.stopFor.isNone
    && !regsLeft s.hart.storeBuf) = true) : Steps s := by
  simp only [Bool.and_eq_true, Bool.not_eq_true', Option.isNone_iff_eq_none, List.isEmpty_iff, decide_eq_true_eq] at h
  obtain ⟨⟨⟨⟨⟨⟨⟨⟨⟨a, b⟩, c⟩, k⟩, d⟩, e⟩, f⟩, g⟩, i⟩, j⟩ := h
  exact ⟨a, b, c, k, ⟨d, e⟩, f, g, i, j⟩

/-- The outcome is a next state. -/
theorem nextOf {x : Host.Outcome State Fault Refusal} (h : (match x with | .next _ => true | _ => false) = true) : ∃ t, x = .next t := by
  cases x with
  | next t => exact ⟨t, rfl⟩
  | _ => cases h

/-- A convoy in hand, at its last slot. -/
def holding (w : BitVec 32) : State := machine { scalar [] with cv := { live := true, slot := 3, words := [0, 0, 0, w] } }
theorem witness_StepRunsTheInstruction :
    ({ State.reset with stop := some (.noSuchAddress 0) } : State).stop = some (.noSuchAddress 0) ∧
      (let s : State := { State.reset with inputs := [.event .patrolScrub, .turn 1279] }
       s.stop = none ∧ s.inputs = .event .patrolScrub :: [.turn 1279] ∧ s.mgmt.held = false ∧ isMgmt .coldStart = true ∧
         isMgmt .patrolScrub = false) ∧
      (Steps (holding 0x10840400) ∧ (holding 0x10840400).hart.mq = [] ∧ (holding 0x10840400).hart.vq = [] ∧
        (holding 0x10840400).hart.cv.live = true) ∧
      (Steps fetching ∧ idleHart fetching.hart = true ∧ takesIrq fetching.hart = false ∧
        ∃ t, exec .convoyDecode fetching = .next t) ∧
      (Steps (heads {}) ∧ (heads {}).hart.mq = [] ∧ (heads {}).hart.vq = {} :: [] ∧ takesIrq (heads {}).hart = false) ∧
      ((holding 0x10840400).hart.cv.slot < 4 ∧ nth 0 (holding 0x10840400).hart.cv.words 3 = 0x10840400 ∧
        Sys2Proof.decode 0x10840400 = .ok (.addi 4 4 0x0400) ∧ isScalarWord (0x10840400 : BitVec 32).toNat = true) ∧
      (nth 0 (holding 0xBC820038).hart.cv.words 3 = 0xBC820038 ∧ Sys2Proof.decode 0xBC820038 = .ok (.vld 8 4 0 7) ∧
        isScalarWord (0xBC820038 : BitVec 32).toNat = false ∧ isSetCtl { slot := 3, w := 0xBC820038 } = false ∧
        touchesPending (holding 0xBC820038) 0xBC820038 = false ∧
        touchesPending { holding 0x10840400 with
          hart := { (holding 0x10840400).hart with vq := [{ acts := [{ slot := 0, w := 0xACE50004 }] }] } } 0x102E0000 = true) :=
  ⟨rfl, ⟨rfl, rfl, rfl, by decide, by decide⟩, ⟨steps (by decide +kernel), rfl, rfl, rfl⟩,
    ⟨steps (by decide +kernel), by decide +kernel, by decide +kernel, nextOf (by decide +kernel)⟩,
    ⟨steps (by decide +kernel), rfl, rfl, by decide +kernel⟩, by decide +kernel, by decide +kernel⟩

theorem witness_StepRunsTheInstruction_inputs :
    (let s : State := { State.reset with mgmt := { held := true } }
     idleEvent s .patrolScrub = true ∧ idleEvent s .coldStart = false ∧ notUp s = false ∧ toMgmt (.cut 0) = false ∧
       toMgmt (.delivery 1279) = true) ∧
    (let s : State := { State.reset with mgmt := { stopped := true } }
     idleEvent s .convoyIssue = true ∧ idleEvent s .patrolScrub = false) ∧ idleEvent State.reset .convoyIssue = false ∧
    (holding 0x10840400).hart.rowsDue = none ∧ (heads {}).hart.rowsDue = none := by decide +kernel

theorem witness_EncodingRoundTrip :
    (Instr.wf (.addi 31 31 0xFFFF) = true ∧ encode (.addi 31 31 0xFFFF) = some 0x13FFFFFF) ∧
      Sys2Proof.decode 0x13FFFFFF = .ok (.addi 31 31 0xFFFF) := by decide +kernel

theorem witness_NoLostAccess : ∃ t, step State.reset = .next t := nextOf (by decide +kernel)

/-- Memory that lists a byte, in its form. -/
theorem witness_MemoryKeepsItsForm :
    Memory.wf fetching.mem ∧ fetching.mem ≠ [] ∧ ∃ t, step fetching = .next t :=
  ⟨by decide +kernel, by decide +kernel, nextOf (by decide +kernel)⟩

end Sys2Proof.Tests
end

section
/-! The state after reset (R34, R85, R104, R108, R114, R117, R119, R443), hart by hart. All harts of the reset device hold the
same: only the registers that give a hart's number tell them apart. -/

namespace Sys2Proof.Proofs

open Sys2Proof.Machine Sys2Proof.Claims

/-! Lists and loops of the model -/

theorem range_eq_range' (lo n : Nat) : range lo n = List.range' lo n := by
  induction n generalizing lo with
  | zero => rfl
  | succ n ih => simp [range, ih, List.range'_succ]

/-- The one number of a stretch that p accepts. -/
theorem filter_range_singleton {lo m n : Nat} {p : Nat → Bool} (h : lo ≤ n ∧ n < lo + m)
    (hp : ∀ k, lo ≤ k → k < lo + m → (p k = true ↔ k = n)) : (range lo m).filter p = [n] := by
  rw [range_eq_range']
  have hmem : n ∈ List.range' lo m := List.mem_range'_1.mpr h
  have hcongr : (List.range' lo m).filter p = (List.range' lo m).filter (· == n) := by
    refine List.filter_congr fun k hk => ?_
    obtain ⟨h1, h2⟩ := List.mem_range'_1.mp hk
    rw [Bool.eq_iff_iff, hp k h1 h2, beq_iff_eq]
  rw [hcongr, List.filter_beq, List.count_eq_one_of_mem List.nodup_range' hmem, List.replicate_one]

/-- A loop whose rounds leave v alone ends at v. -/
theorem loop_fixed {σ : Type} {f : Nat → σ → σ} {v : σ} (h : ∀ i, f i v = v) (i n : Nat) : loop f i n v = v := by
  induction n generalizing i with
  | zero => rfl
  | succ n ih => rw [loop, h, ih]

theorem popcount_zero (n : Nat) : popcount 0 n = 0 := by
  induction n with
  | zero => rfl
  | succ n ih => simp [popcount, ih]

/-! The reset device with hart n as the current one -/

/-- The state after reset, seen from hart n. -/
def resetAt (n : Nat) : State := { State.reset with hn := n }

theorem switchTo_reset (n : Nat) : switchTo n State.reset = resetAt n := by
  by_cases h : n = State.reset.hn
  · subst h
    rfl
  · have hswap : Tab.set ({} : Hart) (Tab.set {} State.reset.parked n {}) State.reset.hn State.reset.hart = [] := by
      simp [Tab.set, State.reset, Tab.erase]
    rw [switchTo, if_neg h, hswap]
    rfl

@[simp] theorem resetAt_hart (n : Nat) : (resetAt n).hart = {} := rfl
@[simp] theorem resetAt_time (n : Nat) : (resetAt n).time = 0 := rfl
@[simp] theorem getCore_resetAt (n c : Nat) : getCore (resetAt n) c = {} := rfl
@[simp] theorem tremOf_resetAt (n : Nat) : tremOf (resetAt n) = 0 := rfl
@[simp] theorem demotedBit_resetAt (n : Nat) : demotedBit (resetAt n) = false := rfl

theorem getS_resetAt (n : Nat) (r : BitVec 5) : getS (resetAt n) r = 0 := ite_self _

/-- R365: no lane group has an owner after reset. -/
theorem groupsOf_resetAt (n k : Nat) : groupsOf (resetAt n) k = 0 := by
  unfold groupsOf
  refine loop_fixed (fun g => ?_) 0 16
  exact if_neg (Nat.succ_ne_zero (k % 8)).symm

/-- R361: after reset every hart is a gang of its own. -/
theorem gangOf_resetAt (n k : Nat) : gangOf (resetAt n) k = [k] := by
  have hgid (j : Nat) : gidOf (resetAt n) j = j % 32 := rfl
  refine filter_range_singleton (by omega) fun j h1 h2 => ?_
  rw [hgid, hgid, decide_eq_true_eq]
  omega

theorem rankOf_resetAt (n k : Nat) : rankOf (resetAt n) k = 0 := by
  simp [rankOf, gangOf_resetAt]

@[simp] theorem vgrant_resetAt (n : Nat) : vgrant (resetAt n) = 0 := by
  simp [vgrant, groupsOf_resetAt, popcount_zero, word]

@[simp] theorem gphase_resetAt (n : Nat) : gphase (resetAt n) = 0 := by
  simp [gphase, myGang, gangOf_resetAt, rankOf_resetAt, word, b2n]

/-- Every control register but `idpart` and `hartid` reads alike on all harts of the reset device. -/
theorem ctlValue_resetAt (n : Nat) {r : Nat} (hpart : r ≠ 0x0F1) (hid : r ≠ 0x0F2) :
    ctlValue (resetAt n) r = ctlValue (resetAt 0) r := by
  simp [ctlValue, hpart, hid]

theorem resetRegs_not_hart_number : ∀ x ∈ resetRegs, x.1 ≠ 0x0F1 ∧ x.1 ≠ 0x0F2 := by decide

theorem ctlValue_resetRegs : ∀ x ∈ resetRegs, ctlValue (resetAt 0) x.1 = x.2 := by decide +kernel

/-- Settles O58: one lemma says what switching to a hart of the reset device gives, `resetAt`; its control registers are those of
hart 0, where the Reset columns are evaluated, and what no table lists reads as its default. -/
theorem resetState : Obligations.ResetState := by
  unfold Obligations.ResetState
  refine ⟨fun n _ => ?hart, fun a _ => ⟨rfl, rfl⟩, fun k => ⟨rfl, rfl⟩, fun c => rfl, fun q => ⟨rfl, rfl, ?queueOff⟩⟩
  case hart =>
    rw [switchTo_reset]
    refine ⟨rfl, rfl, getS_resetAt n, fun x hx => ?_, fun v => ⟨rfl, rfl⟩, rfl, rfl, rfl, rfl⟩
    obtain ⟨hpart, hid⟩ := resetRegs_not_hart_number x hx
    rw [ctlValue_resetAt n hpart hid, ctlValue_resetRegs x hx]
  case queueOff =>
    change wbit 0 63 = false
    decide

end Sys2Proof.Proofs
end

section
/-! Scalar arithmetic (R164, R167 to R169). What the arithmetic slots do is said once, for two registers and for one; what each
operation gives is an equation between the model's word operation and the number that the spec states. -/

namespace Sys2Proof.Proofs

open Sys2Proof.Machine Sys2Proof.Claims Sys2Proof.Laws

/-! Register words as integers and as numbers -/

@[simp] theorem wordI_toInt (x : Word) : wordI x.toInt = x := BitVec.ofInt_toInt
@[simp] theorem word_toNat (x : Word) : word x.toNat = x := BitVec.eq_of_toNat_eq (by simp [word])
theorem wordI_natCast (n : Nat) : wordI n = word n := BitVec.ofInt_natCast 64 n
theorem wordI_add (i j : Int) : wordI (i + j) = wordI i + wordI j := BitVec.ofInt_add i j
theorem wordI_mul (i j : Int) : wordI (i * j) = wordI i * wordI j := BitVec.ofInt_mul i j
theorem wordI_sub (i j : Int) : wordI (i - j) = wordI i - wordI j := by
  rw [BitVec.sub_eq_add_neg, Int.sub_eq_add_neg, wordI_add]
  exact congrArg _ BitVec.ofInt_neg
theorem add_eq_wordI (x y : Word) : x + y = wordI (x.toInt + y.toInt) := by rw [wordI_add, wordI_toInt, wordI_toInt]
theorem sub_eq_wordI (x y : Word) : x - y = wordI (x.toInt - y.toInt) := by rw [wordI_sub, wordI_toInt, wordI_toInt]
theorem mul_eq_wordI (x y : Word) : x * y = wordI (x.toInt * y.toInt) := by rw [wordI_mul, wordI_toInt, wordI_toInt]

/-! Immediates (R147) -/

theorem simm_eq_wordI {n : Nat} (i : BitVec n) : simm i = wordI i.toInt := rfl
theorem toInt_simm {n : Nat} (i : BitVec n) (h : n ≤ 64) : (simm i).toInt = i.toInt := BitVec.toInt_signExtend_of_le h
theorem zimm_eq_word {n : Nat} (i : BitVec n) : zimm i = word i.toNat := (BitVec.ofNat_toNat 64 i).symm

/-! Shifts, comparisons and the signed remainder (R167, R168) -/

theorem shiftLeft_eq_word (x : Word) (k : Nat) : x <<< k = word (x.toNat * 2 ^ k) := by
  rw [← Nat.shiftLeft_eq]
  rfl

theorem shiftRight_eq_word (x : Word) (k : Nat) : x >>> k = word (x.toNat / 2 ^ k) := by
  rw [← Nat.shiftRight_eq_div_pow, ← BitVec.toNat_ushiftRight, word_toNat]

theorem sshiftRight_eq_wordI (x : Word) (k : Nat) : x.sshiftRight k = wordI (x.toInt / 2 ^ k) := by
  rw [BitVec.sshiftRight_eq, Int.shiftRight_eq_div_pow, wordI]
  norm_cast

theorem wordI_shiftLeft (i : Int) (k : Nat) : wordI i <<< k = wordI (i * 2 ^ k) := by
  have htwo : wordI (2 ^ k) = BitVec.twoPow 64 k := by
    rw [BitVec.twoPow_eq, shiftLeft_eq_word, ← wordI_natCast]
    simp
  rw [BitVec.shiftLeft_eq_mul_twoPow, wordI_mul, htwo]

theorem ite_slt_eq_min (x y : Word) : (if x.slt y then x else y) = wordI (min x.toInt y.toInt) := by
  simp [BitVec.slt_eq_decide, min_def_lt, apply_ite wordI]

theorem ite_slt_eq_max (x y : Word) : (if x.slt y then y else x) = wordI (max x.toInt y.toInt) := by
  simp [BitVec.slt_eq_decide, max_def_lt, apply_ite wordI]

theorem ite_ult_eq_min (x y : Word) : (if x.ult y then x else y) = word (min x.toNat y.toNat) := by
  simp [BitVec.ult_eq_decide, min_def_lt, apply_ite word]

theorem ite_ult_eq_max (x y : Word) : (if x.ult y then y else x) = word (max x.toNat y.toNat) := by
  simp [BitVec.ult_eq_decide, max_def_lt, apply_ite word]

theorem boolWord_slt (x y : Word) : boolWord (x.slt y) = if x.toInt < y.toInt then 1 else 0 := by
  simp [BitVec.slt_eq_decide, boolWord]

theorem boolWord_ult (x y : Word) : boolWord (x.ult y) = if x.toNat < y.toNat then 1 else 0 := by
  simp [BitVec.ult_eq_decide, boolWord]

theorem remS_eq (x y : Word) : remS x y = if y = 0 then x else wordI (x.toInt - y.toInt * x.toInt.tdiv y.toInt) := by
  rw [remS, Int.tmod_def]

/-! The convoy's address (R163, R169) -/

theorem and_allOnes_shiftLeft {w : Nat} (x : BitVec w) (k : Nat) : x &&& BitVec.allOnes w <<< k = x >>> k <<< k := by
  ext i hi
  by_cases h : i < k
  · simp [h]
  · simp [h, hi, Nat.add_sub_cancel' (not_lt.1 h)]

theorem and_neg_sixteen (x : Word) : x &&& 0xFFFFFFFFFFFFFFF0 = word (x.toNat / 16 * 16) := by
  rw [show (0xFFFFFFFFFFFFFFF0 : Word) = BitVec.allOnes 64 <<< 4 from rfl, and_allOnes_shiftLeft, shiftLeft_eq_word,
    BitVec.toNat_ushiftRight, Nat.shiftRight_eq_div_pow]
  rfl

/-- R163: `target` is 16 times the signed offset from the convoy in hand. -/
theorem target_eq {n : Nat} (pc : Word) (o : BitVec n) :
    target pc o = wordI ((pc.toNat / 16 * 16 : Nat) + 16 * o.toInt) := by
  rw [target, and_neg_sixteen, wordI_add, wordI_natCast, wordI_mul, BitVec.mul_comm]
  rfl

/-! Counting and reversing bits (R167) -/

theorem bitLen_le_iff (x n : Nat) : bitLen x ≤ n ↔ x < 2 ^ n := by
  unfold bitLen log2
  split
  · next h => simp [h]
  · next h => exact Nat.log2_lt h

theorem leadingZeros_succ (x n : Nat) : leadingZeros x (n + 1) = if x.testBit n then 0 else leadingZeros x n + 1 := by
  have hlow := Nat.mod_lt x (Nat.two_pow_pos n)
  rw [leadingZeros, leadingZeros, Nat.mod_pow_succ, Nat.testBit_eq_decide_div_mod_eq]
  rcases Nat.mod_two_eq_zero_or_one (x / 2 ^ n) with hbit | hbit
  · have hlen := (bitLen_le_iff (x % 2 ^ n) n).2 hlow
    simp [hbit, Nat.sub_add_comm hlen]
  · have hlen := mt (bitLen_le_iff (x % 2 ^ n + 2 ^ n) n).1 (by omega)
    simp [hbit]
    omega

theorem leadingZeros_eq (x n : Nat) :
    leadingZeros x n = ((List.range n).takeWhile (fun i => !x.testBit (n - 1 - i))).length := by
  induction n with
  | zero => simp [leadingZeros]
  | succ n ih =>
    rw [leadingZeros_succ, List.range_succ_eq_map, List.takeWhile_cons, ih]
    cases h : x.testBit n <;> simp [h, List.takeWhile_map, Function.comp_def, Nat.sub_sub, Nat.add_comm 1]

theorem trailingZeros_eq (x n : Nat) :
    trailingZeros x n = ((List.range n).takeWhile (fun i => !x.testBit i)).length := by
  induction n generalizing x with
  | zero => rfl
  | succ n ih =>
    rw [trailingZeros, List.range_succ_eq_map, List.takeWhile_cons, ih]
    rcases Nat.mod_two_eq_zero_or_one x with h | h <;>
      simp [h, List.takeWhile_map, Function.comp_def, Nat.testBit_succ, Nat.add_comm]

theorem popcount_eq (x n : Nat) : popcount x n = ((List.range n).filter x.testBit).length := by
  induction n with
  | zero => rfl
  | succ n ih =>
    have hbit : ([n].filter x.testBit).length = x / 2 ^ n % 2 := by
      rcases Nat.mod_two_eq_zero_or_one (x / 2 ^ n) with h | h <;> simp [Nat.testBit_eq_decide_div_mod_eq, h]
    rw [popcount, ih, List.range_succ, List.filter_append, List.length_append, hbit]

theorem ofBytes_append_singleton (l : List Byte) (b : Byte) :
    ofBytes (l ++ [b]) = ofBytes l + b.toNat * 2 ^ (8 * l.length) := by
  induction l with
  | nil => simp [ofBytes]
  | cons a l ih =>
    rw [List.cons_append, ofBytes, ih, ofBytes, List.length_cons, Nat.mul_succ, Nat.pow_add]
    ring

theorem byteSwap_eq (x n : Nat) :
    byteSwap x n = ((List.range n).map (fun i => x / 2 ^ (8 * i) % 256 * 2 ^ (8 * (n - 1 - i)))).sum := by
  induction n generalizing x with
  | zero => rfl
  | succ n ih =>
    have hterm (i : Nat) : x / 256 / 2 ^ (8 * i) % 256 * 2 ^ (8 * (n - 1 - i)) =
        x / 2 ^ (8 * (i + 1)) % 256 * 2 ^ (8 * (n - (i + 1))) := by
      rw [Nat.div_div_eq_div_mul, Nat.mul_succ, Nat.pow_add, Nat.mul_comm (2 ^ (8 * i)), ← Nat.sub_add_eq, Nat.add_comm 1]
    rw [byteSwap, toBytes, List.reverse_cons, ofBytes_append_singleton, List.length_reverse, toBytes_length, ← byteSwap, ih,
      List.range_succ_eq_map, List.map_cons, List.sum_cons, List.map_map, Nat.add_comm]
    simp [hterm, Function.comp_def]

/-! The slots of one and of two source registers (R164, R167) -/

/-- The instruction c sets sd to f of its two registers. -/
def Computes2 (c : BitVec 5 → BitVec 5 → BitVec 5 → Instr) (f : Word → Word → Word) : Prop :=
  ∀ d a b s, exec (c d a b) s = done (alu2 f d a b s)

/-- The instruction c sets sd to f of its one register. -/
def Computes1 (c : BitVec 5 → BitVec 5 → Instr) (f : Word → Word) : Prop :=
  ∀ d a s, exec (c d a) s = done (alu1 f d a s)

theorem Computes2.of_eq {c : BitVec 5 → BitVec 5 → BitVec 5 → Instr} {f g : Word → Word → Word} (h : Computes2 c f)
    (hfg : ∀ x y, f x y = g x y) : Computes2 c g := by
  obtain rfl : f = g := funext₂ hfg
  exact h

theorem Computes1.of_eq {c : BitVec 5 → BitVec 5 → Instr} {f g : Word → Word} (h : Computes1 c f)
    (hfg : ∀ x, f x = g x) : Computes1 c g := by
  obtain rfl : f = g := funext hfg
  exact h

theorem done_setS (d : BitVec 5) (v : Word) {s : State} (hs : s.stop = none) : done (setS d v s) = .next (setS d v s) :=
  done_next ((setS_stop d v s).trans hs)

theorem Computes2.exec_eq {c : BitVec 5 → BitVec 5 → BitVec 5 → Instr} {f : Word → Word → Word} (h : Computes2 c f)
    {d a b : BitVec 5} {s : State} (hs : s.stop = none) (hc : Clean s [a, b]) :
    exec (c d a b) s = .next (setS d (f (getS s a) (getS s b)) s) := by
  rw [h, alu2, reads_clean hc, done_setS _ _ hs]

theorem Computes1.exec_eq {c : BitVec 5 → BitVec 5 → Instr} {f : Word → Word} (h : Computes1 c f)
    {d a : BitVec 5} {s : State} (hs : s.stop = none) (hc : Clean s [a]) :
    exec (c d a) s = .next (setS d (f (getS s a)) s) := by
  rw [h, alu1, reads_clean hc, done_setS _ _ hs]

/-- Row by row in the order of `regOps`: `rfl` says which word operation the slot applies (alone where the table states that very
operation), and a lemma of above that it is the number of the table. -/
theorem regOps_compute : ∀ x ∈ regOps, Computes2 x.1 x.2 := by
  simp only [regOps, List.forall_mem_cons]
  exact ⟨
    .of_eq (fun _ _ _ _ => rfl) add_eq_wordI,
    .of_eq (fun _ _ _ _ => rfl) sub_eq_wordI,
    fun _ _ _ _ => rfl,
    fun _ _ _ _ => rfl,
    fun _ _ _ _ => rfl,
    .of_eq (fun _ _ _ _ => rfl) fun x y => shiftLeft_eq_word x (sh6 y),
    .of_eq (fun _ _ _ _ => rfl) fun x y => shiftRight_eq_word x (sh6 y),
    .of_eq (fun _ _ _ _ => rfl) fun x y => sshiftRight_eq_wordI x (sh6 y),
    .of_eq (fun _ _ _ _ => rfl) ite_slt_eq_min,
    .of_eq (fun _ _ _ _ => rfl) ite_slt_eq_max,
    .of_eq (fun _ _ _ _ => rfl) ite_ult_eq_min,
    .of_eq (fun _ _ _ _ => rfl) ite_ult_eq_max,
    .of_eq (fun _ _ _ _ => rfl) boolWord_slt,
    .of_eq (fun _ _ _ _ => rfl) boolWord_ult,
    .of_eq (fun _ _ _ _ => rfl) mul_eq_wordI,
    fun _ _ _ _ => rfl,
    fun _ _ _ _ => rfl,
    fun _ _ _ _ => rfl,
    fun _ _ _ _ => rfl,
    .of_eq (fun _ _ _ _ => rfl) remS_eq,
    fun _ _ _ _ => rfl,
    List.forall_mem_nil _⟩

theorem bitOps_compute : ∀ x ∈ bitOps, Computes1 x.1 x.2 := by
  simp only [bitOps, List.forall_mem_cons]
  exact ⟨
    .of_eq (fun _ _ _ => rfl) fun x => congrArg word (leadingZeros_eq x.toNat 64),
    .of_eq (fun _ _ _ => rfl) fun x => congrArg word (trailingZeros_eq x.toNat 64),
    .of_eq (fun _ _ _ => rfl) fun x => congrArg word (popcount_eq x.toNat 64),
    .of_eq (fun _ _ _ => rfl) fun x => congrArg word (byteSwap_eq x.toNat 8),
    List.forall_mem_nil _⟩

theorem immOps_compute : ∀ x ∈ immOps, ∀ i, Computes1 (fun d a => x.1 d a i) (fun u => x.2 u i) := by
  simp only [immOps, List.forall_mem_cons]
  exact ⟨
    fun i => .of_eq (fun _ _ _ => rfl) fun x => (by rw [add_eq_wordI, toInt_simm i (by decide)]),
    fun i => .of_eq (fun _ _ _ => rfl) fun x => congrArg (x &&& ·) (zimm_eq_word i),
    fun i => .of_eq (fun _ _ _ => rfl) fun x => congrArg (x ||| ·) (zimm_eq_word i),
    fun i => .of_eq (fun _ _ _ => rfl) fun x => congrArg (x ^^^ ·) (zimm_eq_word i),
    fun i => .of_eq (fun _ _ _ => rfl) fun x => (by rw [boolWord_slt, toInt_simm i (by decide)]),
    fun i => .of_eq (fun _ _ _ => rfl) fun x => boolWord_ult x (simm i),
    List.forall_mem_nil _⟩

theorem shiftOps_compute : ∀ x ∈ shiftOps, ∀ h, Computes1 (fun d a => x.1 d a h) (fun u => x.2 u h) := by
  simp only [shiftOps, List.forall_mem_cons]
  exact ⟨
    fun h => .of_eq (fun _ _ _ => rfl) fun x => shiftLeft_eq_word x h.toNat,
    fun h => .of_eq (fun _ _ _ => rfl) fun x => shiftRight_eq_word x h.toNat,
    fun h => .of_eq (fun _ _ _ => rfl) fun x => sshiftRight_eq_wordI x h.toNat,
    List.forall_mem_nil _⟩

theorem exec_sel (d a b : BitVec 5) {s : State} (hs : s.stop = none) (hc : Clean s [d, a, b]) :
    exec (.sel d a b) s = .next (setS d (if getS s d = 0 then getS s b else getS s a) s) := by
  change done (reads [d, a, b] _ s) = _
  rw [reads_clean hc, done_setS _ _ hs, ite_not]

/-! The borderline results of division: one lemma per row of R168's table -/

theorem division_by_zero (x : Word) :
    divS x 0 = wordI (-1) ∧ divU x 0 = 0xFFFFFFFFFFFFFFFF ∧ remS x 0 = x ∧ remU x 0 = x := ⟨rfl, rfl, rfl, rfl⟩

theorem division_overflow :
    divS (wordI (-2 ^ 63)) (wordI (-1)) = wordI (-2 ^ 63) ∧ remS (wordI (-2 ^ 63)) (wordI (-1)) = 0 := by decide

theorem division_seven_by_neg_two :
    divS 7 (wordI (-2)) = wordI (-3) ∧ divU 7 (wordI (-2)) = 0 ∧ remS 7 (wordI (-2)) = 1 ∧ remU 7 (wordI (-2)) = 7 := by decide

theorem division_neg_seven_by_two :
    divS (wordI (-7)) 2 = wordI (-3) ∧ divU (wordI (-7)) 2 = 0x7FFFFFFFFFFFFFFC ∧
      remS (wordI (-7)) 2 = wordI (-1) ∧ remU (wordI (-7)) 2 = 1 := by decide

theorem exec_division (d a b : BitVec 5) {s : State} (hs : s.stop = none) (hc : Clean s [a, b]) :
    exec (.div d a b) s = .next (setS d (divS (getS s a) (getS s b)) s) ∧
    exec (.divn d a b) s = .next (setS d (divU (getS s a) (getS s b)) s) ∧
    exec (.rem d a b) s = .next (setS d (remS (getS s a) (getS s b)) s) ∧
    exec (.remn d a b) s = .next (setS d (remU (getS s a) (getS s b)) s) :=
  ⟨Computes2.exec_eq (fun _ _ _ _ => rfl) hs hc, Computes2.exec_eq (fun _ _ _ _ => rfl) hs hc,
    Computes2.exec_eq (fun _ _ _ _ => rfl) hs hc, Computes2.exec_eq (fun _ _ _ _ => rfl) hs hc⟩

/-! The codes of major 0x02 (R146, R168) -/

theorem toNat_append_eq_add {m n : Nat} (x : BitVec m) (y : BitVec n) : (x ++ y).toNat = x.toNat * 2 ^ n + y.toNat := by
  rw [BitVec.toNat_append, ← Nat.shiftLeft_add_eq_or_of_lt y.isLt, Nat.shiftLeft_eq]

/-- Format SR (R146): major, sd, sa, sb and fn. -/
def srWord (m : BitVec 6) (d a b : BitVec 5) (fn : BitVec 11) : BitVec 32 := m ++ d ++ a ++ b ++ fn

theorem srWord_toNat (m : BitVec 6) (d a b : BitVec 5) (fn : BitVec 11) :
    (srWord m d a b fn).toNat =
      (((m.toNat * 2 ^ 5 + d.toNat) * 2 ^ 5 + a.toNat) * 2 ^ 5 + b.toNat) * 2 ^ 11 + fn.toNat := by
  simp only [srWord, toNat_append_eq_add]

theorem srWord_fields (m : BitVec 6) (d a b : BitVec 5) (fn : BitVec 11) :
    bits (srWord m d a b fn) 26 6 = m.toNat ∧ opnd (srWord m d a b fn) 21 5 = d ∧ opnd (srWord m d a b fn) 16 5 = a ∧
      opnd (srWord m d a b fn) 11 5 = b ∧ bits (srWord m d a b fn) 0 11 = fn.toNat := by
  have hm := m.isLt
  have hd := d.isLt
  have ha := a.isLt
  have hb := b.isLt
  have hfn := fn.isLt
  simp only [bits, opnd, ← BitVec.toNat_inj, srWord_toNat, BitVec.toNat_ofNat]
  omega

theorem decodeFields_major02 {w : BitVec 32} (h : bits w 26 6 = 2) : decodeFields w = decodeMajor02 w := by
  simp only [decodeFields, h]

theorem decodeMajor02_reserved {w : BitVec 32} (h : 7 ≤ bits w 0 11) : decodeMajor02 w = .error .reservedCode := by
  unfold decodeMajor02
  split
  case h_8 => rfl
  all_goals omega

theorem decodeMajor02_mulOps : ∀ x ∈ mulOps.zipIdx, ∀ w, bits w 0 11 = x.2 →
    decodeMajor02 w = .ok (x.1 (opnd w 21 5) (opnd w 16 5) (opnd w 11 5)) := by
  simp +contextual [mulOps, decodeMajor02]

theorem mulOps_wf : ∀ c ∈ mulOps, ∀ d a b, (c d a b).wf = true := by
  simp only [mulOps, List.forall_mem_cons]
  exact ⟨fun _ _ _ => rfl, fun _ _ _ => rfl, fun _ _ _ => rfl, fun _ _ _ => rfl, fun _ _ _ => rfl, fun _ _ _ => rfl,
    fun _ _ _ => rfl, List.forall_mem_nil _⟩

theorem decode_mulOps : ∀ x ∈ mulOps.zipIdx, ∀ d a b,
    Sys2Proof.decode (srWord 2 d a b (BitVec.ofNat 11 x.2)) = .ok (x.1 d a b) := by
  intro x hx d a b
  have hlt : x.2 < 7 := List.snd_lt_of_mem_zipIdx hx
  have hwf := mulOps_wf x.1 (List.fst_mem_of_mem_zipIdx hx)
  obtain ⟨hm, hd, ha, hb, hfn⟩ := srWord_fields 2 d a b (BitVec.ofNat 11 x.2)
  have hfn' := hfn.trans (Nat.mod_eq_of_lt (by omega : x.2 < 2 ^ 11))
  rw [decode, decodeFields_major02 hm, decodeMajor02_mulOps x hx _ hfn', hd, ha, hb]
  exact if_pos (hwf d a b)

theorem decode_major02_reserved {w : BitVec 32} (hm : w.toNat / 2 ^ 26 = 2) (hfn : 7 ≤ w.toNat % 2 ^ 11) :
    Sys2Proof.decode w = .error .reservedCode := by
  have hm' : bits w 26 6 = 2 := congrArg (· % 2 ^ 6) hm
  have hfn' : 7 ≤ bits w 0 11 := by rwa [bits, Nat.pow_zero, Nat.div_one]
  rw [decode, decodeFields_major02 hm', decodeMajor02_reserved hfn']

/-- Settles O1: each table's rows are meanings of slots that read clean registers and write sd; the borderline results are the rows
of R168's table, and the codes of major 0x02 come from its decoder's fields. -/
theorem scalarArithmetic : Obligations.ScalarArithmetic := by
  unfold Obligations.ScalarArithmetic
  refine ⟨fun x hx d a b s hs hc => (regOps_compute x hx).exec_eq hs hc, fun d a b s hs hc => exec_sel d a b hs hc,
    fun x hx d a s hs hc => (bitOps_compute x hx).exec_eq hs hc,
    fun x hx d a i s hs hc => (immOps_compute x hx i).exec_eq hs hc,
    fun x hx d a h s hs hc => (shiftOps_compute x hx h).exec_eq hs hc, fun d i s hs => ?ldhi, fun d o s hs => ?adrc,
    fun d a b s hs hc => ?division, fun x hx d a b => decode_mulOps x hx d a b,
    fun w i hm hfn => by rw [decode_major02_reserved hm hfn]; exact nofun⟩
  case ldhi => rw [← wordI_shiftLeft, ← simm_eq_wordI, ← done_setS _ _ hs]; rfl
  case adrc => rw [← target_eq, ← done_setS _ _ hs]; rfl
  case division =>
    have h := exec_division d a b hs hc
    refine ⟨fun hb => ?_, fun ha hb => ?_, fun ha hb => ?_, fun ha hb => ?_⟩
    · simpa only [hb, division_by_zero] using h
    · simp only [ha, hb, division_overflow] at h
      obtain ⟨hdiv, -, hrem, -⟩ := h
      exact ⟨hdiv, hrem⟩
    · simpa only [ha, hb, division_seven_by_neg_two] using h
    · simpa only [ha, hb, division_neg_seven_by_two] using h

end Sys2Proof.Proofs
end

section
/-! Bit planes (R259 to R264). A slot writes cells of a file of registers, the planes of an element or an element of a group, that
lie apart. What one write does to the cells is said once; a loop of such writes carries it to the slot's end. -/

namespace Sys2Proof.Proofs

open Sys2Proof.Machine Sys2Proof.Claims Sys2Proof.Laws

/-- What holds at the start of a loop and what each of its rounds keeps holds at its end. -/
theorem loop_invariant {σ : Type} {P : Nat → σ → Prop} {f : Nat → σ → σ} {lo n : Nat} {s : σ} (hlo : P lo s)
    (hstep : ∀ i t, lo ≤ i → i < lo + n → P i t → P (i + 1) (f i t)) : P (lo + n) (loop f lo n s) := by
  induction n generalizing lo s with
  | zero => exact hlo
  | succ n ih =>
    rw [loop, show lo + (n + 1) = lo + 1 + n by omega]
    exact ih (hstep lo s (Nat.le_refl _) (by omega) hlo) fun i t h1 h2 => hstep i t (by omega) (by omega)

/-! What a vector slot may have changed so far -/

theorem vecOnly_refl (s : State) : VecOnly s s := rfl

section
variable {s t : State} (h : VecOnly s t)
include h

theorem vecOnly_setElem (v i w x : Nat) (p : Bool) : VecOnly s (setElem v i w x p t) := by
  unfold VecOnly at h ⊢
  rw [(LoopOnly.rfl' t).setElem v i w x p, h]

theorem vecOnly_vlmax : t.hart.vlmax = s.hart.vlmax := by rw [h]; rfl
theorem vecOnly_ringSrc (v : Nat) : ringSrc t v = ringSrc s v := by rw [h]; rfl
theorem vecOnly_governs (m i : Nat) : governs t m i = governs s m i := by rw [h]; rfl
theorem elem_of_getV {v i w : Nat} (hv : getV t (v + i * w / s.hart.vlmax) = getV s (v + i * w / s.hart.vlmax)) :
    elem t v i w = elem s v i w := by
  unfold elem elemOf
  unfold getV at hv
  rw [vecOnly_vlmax h, hv]
end

theorem vecOnly_of_pre {s t : State} (h : Pre s t) : VecOnly s t := by
  unfold VecOnly
  rw [h.only]

theorem issuing_setElem {t : State} (h : Issuing t) (v i w x : Nat) (p : Bool) : Issuing (setElem v i w x p t) := by
  rw [(LoopOnly.rfl' t).setElem v i w x p]
  exact ⟨h.able, h.group, h.early, h.wait, h.halted, h.mq, h.bound, h.fault, h.sighted⟩

/-! Cells that lie apart -/

/-- No two of these cells, element j of the group l registers up, hold a bit in common. -/
def Apart (L w : Nat) (cell : Nat → Nat → Prop) : Prop :=
  ∀ j l j' l', cell j l → cell j' l' → l + j * w / L = l' + j' * w / L → j * w % L = j' * w % L → j = j' ∧ l = l'

/-- The cells of n planes (R262). -/
def planeCell (L n j l : Nat) : Prop := j < L ∧ l < n
/-- The cells of one group. -/
def groupCell (_ l : Nat) : Prop := l = 0

theorem planeCell_apart (L n : Nat) : Apart L 1 (planeCell L n) := by
  rintro j l j' l' ⟨hj, -⟩ ⟨hj', -⟩ hreg hpos
  rw [Nat.mul_one, Nat.mul_one] at hreg hpos
  rw [Nat.div_eq_of_lt hj, Nat.div_eq_of_lt hj'] at hreg
  rw [Nat.mod_eq_of_lt hj, Nat.mod_eq_of_lt hj'] at hpos
  exact ⟨hpos, hreg⟩

theorem groupCell_apart {L w : Nat} (hw : 0 < w) : Apart L w groupCell := by
  rintro j l j' l' rfl rfl hreg hpos
  refine ⟨by_contra fun hne => ?_, rfl⟩
  rcases elem_ne (L := L) hw hne with h | h <;> omega

/-- From s to t the cells of d for which `done` holds have been written with val, and nothing else has. -/
structure WroteCells (d w : Nat) (cell : Nat → Nat → Prop) (val : Nat → Nat → Nat) (s : State) (done : Nat → Nat → Prop)
    (t : State) : Prop where
  frame : VecOnly s t
  issuing : Issuing t
  within : ∀ j l, done j l → cell j l
  active : ∀ j l, done j l → elem t (d + l) j w = val j l % 2 ^ w
  kept : ∀ j l, cell j l → ¬ done j l → elem t (d + l) j w = elem s (d + l) j w
  others : ∀ r, (∀ j l, done j l → r ≠ d + l + j * w / s.hart.vlmax) → getV t r = getV s r

theorem WroteCells.none {d w : Nat} {cell : Nat → Nat → Prop} {val : Nat → Nat → Nat} {s t : State} (h : Pre s t) :
    WroteCells d w cell val s (fun _ _ => False) t :=
  ⟨vecOnly_of_pre h, h.issuing, fun _ _ => False.elim, fun _ _ => False.elim, fun j l _ _ => h.elem (d + l) j w,
    fun r _ => h.getV r⟩

section
variable {d w : Nat} {cell done : Nat → Nat → Prop} {val : Nat → Nat → Nat} {s t : State}
  (h : WroteCells d w cell val s done t)
include h

theorem WroteCells.congr {done' : Nat → Nat → Prop} (hd : ∀ j l, done' j l ↔ done j l) :
    WroteCells d w cell val s done' t := by
  rwa [show done' = done from funext₂ fun j l => propext (hd j l)]

/-- A cell more is written. -/
theorem WroteCells.setElem (hw : w ∣ s.hart.vlmax) (hL : 0 < s.hart.vlmax) (hm : s.hart.vlmax ≤ 65536)
    (ha : Apart s.hart.vlmax w cell) {i k : Nat} (hc : cell i k) (p : Bool) :
    WroteCells d w cell val s (fun j l => done j l ∨ (j = i ∧ l = k)) (Machine.setElem (d + k) i w (val i k) p t) := by
  have hframe := vecOnly_setElem h.frame (d + k) i w (val i k) p
  have hvl := vecOnly_vlmax h.frame
  have hsame : elem (Machine.setElem (d + k) i w (val i k) p t) (d + k) i w = val i k % 2 ^ w := by
    rw [elem, setElem_vregs, vecOnly_vlmax hframe, hvl]
    exact elemOf_setElemOf_same _ _ _ _ _ _ hw hL hm
  have hother : ∀ j l, cell j l → ¬ (j = i ∧ l = k) →
      elem (Machine.setElem (d + k) i w (val i k) p t) (d + l) j w = elem t (d + l) j w := by
    intro j l hcell hne
    rw [elem, setElem_vregs, vecOnly_vlmax hframe, elem, hvl]
    refine elemOf_setElemOf_other _ _ _ _ _ _ _ _ hw hL hm (not_and_or.1 fun ⟨hreg, hpos⟩ => ?_)
    obtain ⟨h1, h2⟩ := ha i k j l hc hcell (by omega) hpos
    exact hne ⟨h1.symm, h2.symm⟩
  refine ⟨hframe, issuing_setElem h.issuing _ _ _ _ _, ?within, ?active, ?kept, ?others⟩
  case within =>
    rintro j l (hd | ⟨rfl, rfl⟩)
    · exact h.within j l hd
    · exact hc
  case active =>
    intro j l hd
    by_cases heq : j = i ∧ l = k
    · obtain ⟨rfl, rfl⟩ := heq
      exact hsame
    · have hold := hd.resolve_right heq
      rw [hother j l (h.within j l hold) heq, h.active j l hold]
  case kept =>
    intro j l hcell hd
    obtain ⟨hold, hne⟩ := not_or.1 hd
    rw [hother j l hcell hne, h.kept j l hcell hold]
  case others =>
    intro r hr
    have hreg := hr i k (.inr ⟨rfl, rfl⟩)
    rw [← h.others r fun j l hd => hr j l (.inl hd), getV, setElem_vregs, hvl, get_setElemOf_other _ _ _ _ _ _ _ hreg]
    rfl

/-- A source element reads as at the start where no register of its own has been written. -/
theorem WroteCells.elem_source {v i w' : Nat} (hs : ∀ j l, done j l → v + i * w' / s.hart.vlmax ≠ d + l + j * w / s.hart.vlmax) :
    elem t v i w' = elem s v i w' := elem_of_getV h.frame (h.others _ hs)

/-- The slot ends. -/
theorem WroteCells.finish : WroteCells d w cell val s done (finishSlot .elem t) := by
  obtain ⟨hframe, hiss, hwithin, hactive, hkept, hothers⟩ := h
  rw [finishSlot_elem hiss]
  refine ⟨?_, ⟨hiss.able, hiss.group, hiss.early, hiss.wait, hiss.halted, hiss.mq, hiss.bound, hiss.fault, hiss.sighted⟩,
    hwithin, hactive, hkept, hothers⟩
  unfold VecOnly at hframe ⊢
  unfold updH
  dsimp only
  generalize vlN t = n
  conv_lhs => rw [hframe]
end

theorem WroteCells.toWrotePlanes {d n : Nat} {here : Nat → Prop} {x : Nat → Nat → Nat} {val : Nat → Int} {s t : State}
    (h : WroteCells d 1 (planeCell s.hart.vlmax n) x s (fun j l => here j ∧ l < n) t) (h0 : t.hart.vstart = 0)
    (hx : ∀ i k, k < n → x i k % 2 = (val i / 2 ^ k % 2).toNat) : WrotePlanes d n here val s t := by
  refine ⟨h.frame, h.issuing, h0, fun i k hi hk => ?_, fun i k hi hL hk => ?_, fun r hr => ?_⟩
  · rw [h.active i k ⟨hi, hk⟩, ← hx i k hk, pow_one]
  · exact h.kept i k ⟨hL, hk⟩ fun hd => hi hd.1
  · refine h.others r fun j l hd => ?_
    obtain ⟨hj, hl⟩ := h.within j l hd
    rw [Nat.mul_one, Nat.div_eq_of_lt hj]
    omega

theorem WroteCells.toWroteAt {d w : Nat} {here : Nat → Prop} {val : Nat → Nat} {s t : State}
    (h : WroteCells d w groupCell (fun i _ => val i) s (fun j l => here j ∧ l < 1) t) (h0 : t.hart.vstart = 0) :
    WroteAt d w here val s t := by
  refine ⟨h.frame, h.issuing, h0, fun i hi _ => ?_, fun i hi => ?_, fun r hr => ?_⟩
  · exact h.active i 0 ⟨hi, Nat.one_pos⟩
  · exact h.kept i 0 rfl fun hd => hi hd.1
  · refine h.others r fun j l hd => ?_
    obtain rfl := h.within j l hd
    exact hr j hd.1

/-! A slot over elements of the plane width -/

section
variable {m i : Nat} {s : State}
theorem planeActs_lt_vl (h : PlaneActs m s i) : i < vlN s := h.2.1
theorem planeActs_governs (h : PlaneActs m s i) : governs s m (i / 8) = true := h.2.2
theorem planeActs_lt_vlmax (h : PlaneReady s) (hi : PlaneActs m s i) : i < s.hart.vlmax :=
  Nat.lt_of_lt_of_le (planeActs_lt_vl hi) h.length
end

/-- The cells that a slot of n cells to an element has written when it reaches element i. -/
def cellsBelow (m : Nat) (s : State) (n i j l : Nat) : Prop := PlaneActs m s j ∧ j < i ∧ l < n

section
variable {m d w n : Nat} {cell : Nat → Nat → Prop} {val : Nat → Nat → Nat} {s : State}
  (hw : w ∣ s.hart.vlmax) (hL : 0 < s.hart.vlmax) (hm : s.hart.vlmax ≤ 65536) (ha : Apart s.hart.vlmax w cell)
include hw hL hm ha

/-- The cells of an element are written one after another. -/
theorem WroteCells.row {done : Nat → Nat → Prop} {t : State} (h : WroteCells d w cell val s done t) {i : Nat}
    (hc : ∀ k < n, cell i k) (p : Bool) :
    WroteCells d w cell val s (fun j l => done j l ∨ (j = i ∧ l < n))
      (loop (fun k t => Machine.setElem (d + k) i w (val i k) p t) 0 n t) := by
  have hall := loop_invariant (lo := 0) (n := n) (f := fun k t => Machine.setElem (d + k) i w (val i k) p t)
    (P := fun k t => WroteCells d w cell val s (fun j l => done j l ∨ (j = i ∧ l < k)) t)
    (h.congr fun j l => by simp)
    fun k t _ hk ht => (ht.setElem hw hL hm ha (hc k (by omega)) p).congr fun j l => by
      rw [Nat.lt_succ_iff_lt_or_eq, and_or_left, or_assoc]
  rwa [Nat.zero_add] at hall

/-- What a run over the active elements writes, each round of which writes the cells of its element. -/
theorem planeRun_wrote {body : Nat → State → State} {u : State} (hp : Pre s u) (hc : ∀ i k, i < vlN s → k < n → cell i k)
    (hbody : ∀ i t, PlaneActs m s i → WroteCells d w cell val s (cellsBelow m s n i) t →
      ∃ p, body i t = loop (fun k t => Machine.setElem (d + k) i w (val i k) p t) 0 n t) :
    WroteCells d w cell val s (fun j l => PlaneActs m s j ∧ l < n) (planeRun m body u) := by
  have hlim : limit u (vlN u) = vlN s := by rw [limit, hp.issuing.bound, hp.vl]; rfl
  rw [planeRun, hlim, hp.firstElem]
  refine (loop_invariant (P := fun i t => WroteCells d w cell val s (cellsBelow m s n i) t) ?start ?step).congr fun j l => ?final
  case start =>
    refine (WroteCells.none hp).congr fun j l => ?_
    simp only [cellsBelow, PlaneActs, iff_false]
    omega
  case step =>
    intro i t hlo hi ht
    have hvl : i < vlN s := by omega
    rw [vecOnly_governs ht.frame]
    split
    case isTrue hg =>
      have hacts : PlaneActs m s i := ⟨hlo, hvl, hg⟩
      obtain ⟨p, hp⟩ := hbody i t hacts ht
      rw [hp]
      refine (ht.row hw hL hm ha (hc i · hvl) p).congr fun j l => ?_
      simp only [cellsBelow, Nat.lt_succ_iff_lt_or_eq]
      constructor
      · rintro ⟨hj, hlt | rfl, hl⟩
        · exact .inl ⟨hj, hlt, hl⟩
        · exact .inr ⟨rfl, hl⟩
      · rintro (⟨hj, hlt, hl⟩ | ⟨rfl, hl⟩)
        · exact ⟨hj, .inl hlt, hl⟩
        · exact ⟨hacts, .inr rfl, hl⟩
    case isFalse hg =>
      refine ht.congr fun j l => ?_
      have hne (hj : PlaneActs m s j) : j ≠ i := fun hji => hg (hji ▸ planeActs_governs hj)
      simp only [cellsBelow]
      exact and_congr_right fun hj => and_congr_left fun _ => by have := hne hj; omega
  case final =>
    simp only [cellsBelow, PlaneActs]
    exact ⟨fun ⟨hj, hl⟩ => ⟨hj, by omega, hl⟩, fun ⟨hj, _, hl⟩ => ⟨hj, hl⟩⟩
end

theorem pre_notePlanes {s t : State} (h : Pre s t) (d n : Nat) : Pre s (notePlanes d n t) :=
  loop_invariant (P := fun _ t => Pre s t) h fun _ _ _ _ ht => ht.trans (pre_note ht.issuing _ _ _ _)

/-- A bit-plane slot from its checks to its end. -/
theorem planeSlot_wrote {b : BitVec 5} {bad : State → Bool} {dest : State → List (Nat × Nat)} {act : State → State}
    {body : Nat → State → State} {m d w n : Nat} {cell : Nat → Nat → Prop} {val : Nat → Nat → Nat} {s u : State}
    (h : PlaneReady s) (hbad : bad s = false)
    (hdest : ∀ x ∈ dest s, ∀ e ∈ s.hart.iss.dests, overlaps x.1 x.2 e.1 e.2 = false)
    (hact : act (slotStart (dest s) s) = planeRun m body u) (hu : Pre s u)
    (hw : w ∣ 64) (ha : Apart s.hart.vlmax w cell) (hc : ∀ i k, i < vlN s → k < n → cell i k)
    (hbody : ∀ i t, PlaneActs m s i → WroteCells d w cell val s (cellsBelow m s n i) t →
      ∃ p, body i t = loop (fun k t => setElem (d + k) i w (val i k) p t) 0 n t) :
    ∃ t, done (planeSlot b bad dest act s) = .next t ∧
      WroteCells d w cell val s (fun j l => PlaneActs m s j ∧ l < n) t ∧ t.hart.vstart = 0 := by
  obtain ⟨h64, hm⟩ := vlmax_pow h.lanes
  have hL : 0 < s.hart.vlmax := Nat.lt_of_lt_of_le (by decide) h.lanes
  have hrun := planeRun_wrote (hw.trans h64) hL hm ha hu hc hbody
  have hslot : planeSlot b bad dest act s = finishSlot .elem (planeRun m body u) := by
    have hchk : firstTrap [badVtype s, badOperand (bad s) s] = none := by
      simp [firstTrap, badVtype, badOperand, h.vill, hbad]
    rw [planeSlot, vslot, h.group, if_pos rfl, runSlot_ok h.toIssuing hchk hdest, hact]
  refine ⟨_, ?_, hrun.finish, ?_⟩
  · rw [hslot]
    exact done_next hrun.finish.issuing.able
  · rw [finishSlot_elem hrun.issuing]
    rfl

/-! Planes as a destination -/

theorem ne_of_not_overlaps {a n b k x y : Nat} (h : overlaps a n b k = false) (hx : x < n) (hy : y < k) : a + x ≠ b + y := by
  rw [overlaps, decide_eq_false_iff_not] at h
  omega

/-- Planes that lie apart from the destination, or are the destination, read at element i as they did at the start (R264). -/
theorem elem_plane_unwritten {m d n v n' : Nat} {val : Nat → Nat → Nat} {s t : State} {i k : Nat}
    (hw : WroteCells d 1 (planeCell s.hart.vlmax n) val s (cellsBelow m s n i) t) (hi : i < s.hart.vlmax)
    (ho : overlaps d n v n' = false ∨ (d = v ∧ n = n')) (hk : k < n') : elem t (v + k) i 1 = elem s (v + k) i 1 := by
  rcases ho with ho | ⟨rfl, rfl⟩
  · refine hw.elem_source fun j l hd => ?_
    obtain ⟨hj, hl⟩ := hw.within j l hd
    rw [Nat.mul_one, Nat.mul_one, Nat.div_eq_of_lt hi, Nat.div_eq_of_lt hj]
    exact (ne_of_not_overlaps ho hl hk).symm
  · exact hw.kept i k ⟨hi, hk⟩ fun ⟨_, hlt, _⟩ => Nat.lt_irrefl i hlt

/-- The number that planes hold at an element (R262), where they read as at the start. -/
theorem planeValue_eq {s t : State} {v n i : Nat} (sg : Bool) (h : ∀ k < n, elem t (v + k) i 1 = elem s (v + k) i 1) :
    planeValue t v n i sg = planesOf s v n i sg := by
  have hsum : loop (fun k acc => acc + elem t (v + k) i 1 * 2 ^ k) 0 n 0 =
      ((List.range n).map (fun k => elem s (v + k) i 1 * 2 ^ k)).sum := by
    have hall := loop_invariant (lo := 0) (n := n) (s := 0) (f := fun k acc => acc + elem t (v + k) i 1 * 2 ^ k)
      (P := fun k acc => acc = ((List.range k).map (fun k => elem s (v + k) i 1 * 2 ^ k)).sum) rfl
      fun k acc _ hk hacc => by simp [List.range_succ, hacc, h k (by omega)]
    rwa [Nat.zero_add] at hall
  rw [planeValue, planesOf, hsum]

/-- The source planes read at element i as at the start, by their own number and through the ring. -/
structure PlaneReads (s t : State) (srcs : List (Nat × Nat)) (i : Nat) : Prop where
  plain : ∀ x ∈ srcs, ∀ sg, planeValue t x.1 x.2 i sg = planesOf s x.1 x.2 i sg
  ring : ∀ x ∈ srcs, ∀ sg, planeValue t (ringSrc t x.1) x.2 i sg = planesOf s (ringSrc s x.1) x.2 i sg

theorem planeReads_of_wrote {m d n : Nat} {val : Nat → Nat → Nat} {srcs : List (Nat × Nat)} {s t : State} {i : Nat}
    (hw : WroteCells d 1 (planeCell s.hart.vlmax n) val s (cellsBelow m s n i) t) (hi : i < s.hart.vlmax)
    (hok : PlanesOk s d n srcs) : PlaneReads s t srcs i := by
  refine ⟨fun x hx sg => ?_, fun x hx sg => ?_⟩ <;> obtain ⟨hplain, hring⟩ := hok.apart x hx
  · exact planeValue_eq sg fun k hk => elem_plane_unwritten hw hi hplain hk
  · rw [vecOnly_ringSrc hw.frame]
    exact planeValue_eq sg fun k hk => elem_plane_unwritten hw hi hring hk

theorem planeBad_eq_false {s : State} {d n : Nat} {srcs : List (Nat × Nat)} (h : PlaneReady s) (hd : descriptorOk (cap1 s))
    (hok : PlanesOk s d n srcs) : planeBad s d n srcs = false := by
  obtain ⟨h34, h14⟩ := hd
  obtain ⟨hreg, hring⟩ := hok.dst
  have hsrcs : srcs.any (fun v => !planesOk s v.1 v.2 || planesClash d n v.1 v.2) = false := by
    rw [List.any_eq_false]
    intro x hx
    obtain ⟨hlt, hr⟩ := hok.src x hx
    rcases (hok.apart x hx).1 with ho | ⟨rfl, rfl⟩ <;> simp [planesOk, planesClash, *]
  simp [planeBad, h.plane, h34, h14, hring, hsrcs, hreg]

/-- A bit-plane slot that writes x i to the n planes from d at each active element i. -/
theorem planeSlot_planes {b : BitVec 5} {bad : State → Bool} {dest : State → List (Nat × Nat)} {act : State → State}
    {body : Nat → State → State} {m d n : Nat} {srcs : List (Nat × Nat)} {vs : List Nat} {x : Nat → Nat} {val : Nat → Int}
    {s : State} (h : PlaneReady s) (hok : PlanesOk s d n srcs) (hbad : bad s = false) (hdest : dest s = [(d, n)])
    (hact : act (slotStart (dest s) s) = planeRun m body (notePlanes d n (ringNote vs (slotStart (dest s) s))))
    (hbody : ∀ i t, PlaneActs m s i →
      WroteCells d 1 (planeCell s.hart.vlmax n) (fun i k => fld (x i) k 1) s (cellsBelow m s n i) t →
      ∃ p, body i t = setPlanes d n i (x i) p t)
    (hx : ∀ i k, k < n → x i / 2 ^ k % 2 = (val i / 2 ^ k % 2).toNat) :
    ∃ t, done (planeSlot b bad dest act s) = .next t ∧ WrotePlanes d n (PlaneActs m s) val s t := by
  have hpre := pre_slotStart h.toIssuing (dest s)
  have hfresh : ∀ y ∈ dest s, ∀ e ∈ s.hart.iss.dests, overlaps y.1 y.2 e.1 e.2 = false := by
    rw [hdest, List.forall_mem_singleton]
    exact hok.fresh
  obtain ⟨t, ht, hwrote, h0⟩ := planeSlot_wrote (b := b) h hbad hfresh hact
    (pre_notePlanes (hpre.trans (pre_ring hpre.issuing vs)) d n) (Nat.one_dvd 64) (planeCell_apart s.hart.vlmax n)
    (fun i k hi hk => ⟨Nat.lt_of_lt_of_le hi h.length, hk⟩) hbody
  exact ⟨t, ht, hwrote.toWrotePlanes h0 fun i k hk => by rw [fld, pow_one, Nat.mod_mod]; exact hx i k hk⟩

/-! The fit of R262 -/

theorem toNat_bit {v : Int} (h : 0 ≤ v) (k : Nat) : v.toNat / 2 ^ k % 2 = (v / 2 ^ k % 2).toNat := by
  obtain ⟨n, rfl⟩ := Int.eq_ofNat_of_zero_le h
  norm_cast

theorem wrap_bit (v : Int) {n k : Nat} (h : k < n) : wrap v n / 2 ^ k % 2 = (v / 2 ^ k % 2).toNat := by
  obtain ⟨j, rfl⟩ := Nat.exists_eq_add_of_lt h
  have hsplit : v = v % 2 ^ (k + j + 1) + 2 ^ k * (2 * (2 ^ j * (v / 2 ^ (k + j + 1)))) := by
    conv_lhs => rw [← Int.emod_add_mul_ediv v (2 ^ (k + j + 1))]
    ring
  have hbit : v / 2 ^ k % 2 = v % 2 ^ (k + j + 1) / 2 ^ k % 2 := by
    conv_lhs => rw [hsplit]
    rw [Int.add_mul_ediv_left _ _ (by positivity), Int.add_mul_emod_self_left]
  rw [wrap, toNat_bit (Int.emod_nonneg v (by positivity)), hbit]

theorem planeFit_bit (w : Word) (v : Int) {k : Nat} (h : k < bpNd w) :
    planeFit w v / 2 ^ k % 2 = (planeSat w v / 2 ^ k % 2).toNat := by
  unfold planeFit planeSat clampTo
  cases bpSat w
  case false => exact wrap_bit v h
  case true =>
    cases bpSgd w
    case false => exact toNat_bit (le_max_left _ _) k
    case true => exact wrap_bit _ h

/-! The instructions with planes as their destination -/

/-- Bit j of a number is its j-th digit. -/
theorem testBit_sum_digits {f : Nat → Nat} (hf : ∀ k, f k < 2) {n j : Nat} (hj : j < n) :
    ((List.range n).map (fun k => f k * 2 ^ k)).sum.testBit j = decide (f j = 1) := by
  have hlt : ∀ n, ((List.range n).map (fun k => f k * 2 ^ k)).sum < 2 ^ n := by
    intro n
    induction n with
    | zero => simp
    | succ n ih =>
      have hd := Nat.mul_le_mul_right (2 ^ n) (Nat.le_of_lt_succ (hf n))
      simp only [List.range_succ, List.map_append, List.sum_append, List.map_cons, List.map_nil, List.sum_singleton, Nat.pow_succ]
      omega
  induction n with
  | zero => omega
  | succ n ih =>
    simp only [List.range_succ, List.map_append, List.sum_append, List.map_cons, List.map_nil, List.sum_singleton]
    rw [Nat.add_comm, Nat.mul_comm, Nat.testBit_two_pow_mul_add _ (hlt n)]
    split
    case isTrue h => exact ih h
    case isFalse h =>
      obtain rfl : j = n := by omega
      have := hf j
      interval_cases f j <;> simp

theorem elem_one_lt (s : State) (v i : Nat) : elem s v i 1 < 2 := Nat.mod_lt _ (by decide)

/-- Counting the bits of the number that planes hold counts the planes that hold a 1 (R262). -/
theorem popcount_planesOf (s : State) (v n i : Nat) :
    popcount (planesOf s v n i false).toNat n = ((List.range n).filter (fun k => elem s (v + k) i 1 = 1)).length := by
  rw [popcount_eq]
  congr 1
  refine List.filter_congr fun k hk => ?_
  exact testBit_sum_digits (fun k => elem_one_lt s (v + k) i) (List.mem_range.1 hk)

theorem ccInt_eq_ccHolds (cc : Nat) (c : Int) : ccInt cc c = ccHolds cc c := by
  unfold ccInt ccHolds
  split <;> simp_all [bne, beq_eq_decide]

/-- An instruction of the shape that `vbadd`, `vbmac`, `vbpopc` and `vbshl` share writes its fitted result. -/
theorem planeOp_wrote {d : BitVec 6} {b : BitVec 5} {m : BitVec 3} {s : State} {src : Word → List (Nat × Nat)}
    {v : Word → State → Nat → Int} {val : Nat → Int} (h : PlaneReady s) (hd : descriptorOk (cap1 s))
    (hok : PlanesOk s d.toNat (bpNd (cap1 s)) (src (cap1 s)))
    (hv : ∀ i t, PlaneReads s t (src (cap1 s)) i → v (cap1 s) t i = val i) :
    ∃ t, done (planeOp d b m src v s) = .next t ∧
      WrotePlanes d.toNat (bpNd (cap1 s)) (PlaneActs m.toNat s) (fun i => planeSat (cap1 s) (val i)) s t := by
  have hcap := (pre_slotStart h.toIssuing [(d.toNat, bpNd (cap1 s))]).cap1
  refine planeSlot_planes (x := fun i => planeFit (cap1 s) (val i)) h hok (planeBad_eq_false h hd hok) rfl (by rw [hcap])
    (fun i t hi ht => ?_) fun i k hk => planeFit_bit _ _ hk
  have hreads := planeReads_of_wrote ht (planeActs_lt_vlmax h hi) hok
  exact ⟨_, by rw [hv i t hreads]⟩

theorem bpA_eq {s t : State} {srcs : List (Nat × Nat)} {i : Nat} (h : PlaneReads s t srcs i) {w : Word} {a : BitVec 6}
    (hx : (a.toNat, bpNa w) ∈ srcs) : bpA w a t i = planeA s w a.toNat i := h.ring _ hx _

theorem bpB_eq {s t : State} {srcs : List (Nat × Nat)} {i : Nat} (h : PlaneReads s t srcs i) {w : Word}
    (hx : (bpVb w, bpNb w) ∈ srcs) : bpB w t i = planeB s w i := h.ring _ hx _

theorem vbcmp_wrote {d a : BitVec 6} {b : BitVec 5} {m : BitVec 3} {s : State} (h : PlaneReady s) (hd : descriptorOk (cap1 s))
    (hcc : bpCc (cap1 s) ≤ 5) (hok : PlanesOk s d.toNat 1 [(a.toNat, bpNa (cap1 s)), (bpVb (cap1 s), bpNb (cap1 s))]) :
    ∃ t, exec (.vbcmp d a b m) s = .next t ∧ WrotePlanes d.toNat 1 (PlaneActs m.toNat s) (fun i =>
      if ccHolds (bpCc (cap1 s)) (planeA s (cap1 s) a.toNat i - planeB s (cap1 s) i) then 1 else 0) s t := by
  have hcap := (pre_slotStart h.toIssuing [(d.toNat, 1)]).cap1
  have hbit (c : Bool) : fld (b2n c) 0 1 = b2n c := by cases c <;> rfl
  refine planeSlot_planes (vs := [a.toNat, bpVb (cap1 s)])
    (x := fun i => b2n (ccHolds (bpCc (cap1 s)) (planeA s (cap1 s) a.toNat i - planeB s (cap1 s) i)))
    h hok (by simp [planeBad_eq_false h hd hok, hcc]) rfl (by rw [hcap]) (fun i t hi ht => ?body) fun i k hk => ?bit
  case body =>
    have hr := planeReads_of_wrote ht (planeActs_lt_vlmax h hi) hok
    exact ⟨_, by rw [bpA_eq hr (by simp), bpB_eq hr (by simp), ccInt_eq_ccHolds, setPlanes, loop, loop, hbit]; rfl⟩
  case bit =>
    obtain rfl := Nat.lt_one_iff.1 hk
    rw [b2n]
    split <;> rfl

theorem planeOps_wrote : ∀ x ∈ planeOps, ∀ (d a : BitVec 6) (b : BitVec 5) (m : BitVec 3) (s : State), PlaneReady s →
    descriptorOk (cap1 s) → x.ok (cap1 s) → PlanesOk s d.toNat (x.nd (cap1 s)) (x.srcs (cap1 s) d.toNat a.toNat) →
    ∃ t, exec (x.ins d a b m) s = .next t ∧
      WrotePlanes d.toNat (x.nd (cap1 s)) (PlaneActs m.toNat s) (x.val s (cap1 s) d.toNat a.toNat) s t := by
  simp only [planeOps, List.forall_mem_cons]
  refine ⟨?vbadd, ?vbmac, ?vbcmp, ?vbpopc, ?vbshl, List.forall_mem_nil _⟩ <;> intro d a b m s h hd hcc hok
  case vbadd =>
    exact planeOp_wrote h hd hok fun i t hr => by rw [bpA_eq hr (by simp), bpB_eq hr (by simp)]
  case vbmac =>
    exact planeOp_wrote h hd hok fun i t hr => by
      rw [bpA_eq hr (by simp), bpB_eq hr (by simp), hr.plain (d.toNat, bpNd (cap1 s)) (by simp)]
  case vbpopc =>
    exact planeOp_wrote h hd hok fun i t hr => by
      rw [hr.ring (a.toNat, bpNa (cap1 s)) (by simp), popcount_planesOf]
  case vbshl =>
    exact planeOp_wrote h hd hok fun i t hr => by rw [bpA_eq hr (by simp)]
  case vbcmp => exact vbcmp_wrote h hd hcc hok

/-! Transposes between an element group and planes (R261, R262) -/

theorem bpEwb_dvd (w : Word) : bpEwb w ∣ 64 :=
  Nat.mul_dvd_mul_left 8 (pow_dvd_pow 2 (Nat.le_of_lt_succ (Nat.mod_lt _ (by decide)) : wfld w 32 2 ≤ 3))

theorem bpEwb_pos (w : Word) : 0 < bpEwb w := Nat.mul_pos (by decide) (Nat.two_pow_pos _)

/-- The elements of the group lie in its eight registers. -/
theorem group_reg_lt {s : State} {w i : Nat} (hw : 0 < w) (hi : i < vlN s) (hL : vlN s * w ≤ 8 * s.hart.vlmax) :
    i * w / s.hart.vlmax < 8 :=
  Nat.div_lt_of_lt_mul (by have := Nat.mul_lt_mul_of_pos_right hi hw; omega)

/-- A bit-plane slot that writes x i to element i of the group d. -/
theorem planeSlot_group {b : BitVec 5} {bad : State → Bool} {dest : State → List (Nat × Nat)} {act : State → State}
    {body : Nat → State → State} {m d w : Nat} {vs : List Nat} {x : Nat → Nat} {s : State} (h : PlaneReady s) (hbad : bad s = false)
    (hdest : ∀ y ∈ dest s, ∀ e ∈ s.hart.iss.dests, overlaps y.1 y.2 e.1 e.2 = false) (hw : w ∣ 64) (h0 : 0 < w)
    (hact : act (slotStart (dest s) s) = planeRun m body (noteUndo d w 1 1 (ringNote vs (slotStart (dest s) s))))
    (hbody : ∀ i t, PlaneActs m s i → WroteCells d w groupCell (fun i _ => x i) s (cellsBelow m s 1 i) t →
      ∃ p, body i t = setElem d i w (x i) p t) :
    ∃ t, done (planeSlot b bad dest act s) = .next t ∧ WroteAt d w (PlaneActs m s) x s t := by
  have hpre := pre_slotStart h.toIssuing (dest s)
  have hnote := hpre.trans (pre_ring hpre.issuing vs)
  obtain ⟨t, ht, hwrote, hstart⟩ := planeSlot_wrote (b := b) h hbad hdest hact
    (hnote.trans (pre_note hnote.issuing d w 1 1)) hw (groupCell_apart h0) (fun i k _ hk => Nat.lt_one_iff.1 hk) hbody
  exact ⟨t, ht, hwrote.toWroteAt hstart⟩

theorem groupBad_eq_false {s : State} {v n : Nat} (h8 : v % 8 = 0) (hreg : v + 8 ≤ s.hart.vnreg)
    (hL : vlN s * bpEwb (cap1 s) ≤ 8 * s.hart.vlmax) (hn : n ≤ bpEwb (cap1 s)) : groupBad s v n = false := by
  simp [groupBad, h8, hreg, hL, hn]

theorem vbtr_wrote {d a : BitVec 6} {b : BitVec 5} {m : BitVec 3} {s : State} (h : PlaneReady s) (hd : descriptorOk (cap1 s))
    (hok : PlanesOk s d.toNat (bpNd (cap1 s)) []) (hgroup : groupBad s a.toNat (bpNd (cap1 s)) = false)
    (hL : vlN s * bpEwb (cap1 s) ≤ 8 * s.hart.vlmax) (hring : ringOkSrc s a.toNat 8 = true)
    (hplain : overlaps d.toNat (bpNd (cap1 s)) a.toNat 8 = false)
    (hapart : overlaps d.toNat (bpNd (cap1 s)) (ringSrc s a.toNat) 8 = false) :
    ∃ t, exec (.vbtr d a b m) s = .next t ∧
      WrotePlanes d.toNat (bpNd (cap1 s)) (PlaneActs m.toNat s) (fun i => srcElem s a.toNat i (bpEwb (cap1 s))) s t := by
  have hcap := (pre_slotStart h.toIssuing [(d.toNat, bpNd (cap1 s))]).cap1
  refine planeSlot_planes (vs := [a.toNat]) (x := fun i => srcElem s a.toNat i (bpEwb (cap1 s))) h hok
    (by simp [planeBad_eq_false h hd hok, hgroup, hring, hplain]) rfl (by rw [hcap]) (fun i t hi ht => ?_)
    fun i k hk => by norm_cast
  have hsrc : srcElem t a.toNat i (bpEwb (cap1 s)) = srcElem s a.toNat i (bpEwb (cap1 s)) := by
    rw [srcElem, vecOnly_ringSrc ht.frame]
    refine ht.elem_source fun j l hdone => ?_
    obtain ⟨hj, hl⟩ := ht.within j l hdone
    have hreg := group_reg_lt (bpEwb_pos (cap1 s)) (planeActs_lt_vl hi) hL
    rw [Nat.mul_one, Nat.div_eq_of_lt hj]
    exact (ne_of_not_overlaps hapart hl hreg).symm
  exact ⟨_, by rw [hsrc]⟩

theorem vbtri_wrote {d a : BitVec 6} {b : BitVec 5} {m : BitVec 3} {s : State} (h : PlaneReady s) (hd : descriptorOk (cap1 s))
    (hsrc : planesOk s a.toNat (bpNa (cap1 s)) = true) (hgroup : groupBad s d.toNat (bpNa (cap1 s)) = false)
    (hL : vlN s * bpEwb (cap1 s) ≤ 8 * s.hart.vlmax) (hring : inRing s d.toNat 8 = false)
    (hplain : overlaps d.toNat 8 a.toNat (bpNa (cap1 s)) = false)
    (hapart : overlaps d.toNat 8 (ringSrc s a.toNat) (bpNa (cap1 s)) = false)
    (hfresh : ∀ e ∈ s.hart.iss.dests, overlaps d.toNat 8 e.1 e.2 = false) :
    ∃ t, exec (.vbtri d a b m) s = .next t ∧ WroteAt d.toNat (bpEwb (cap1 s)) (PlaneActs m.toNat s)
      (fun i => wrap (planeA s (cap1 s) a.toNat i) (bpEwb (cap1 s))) s t := by
  have hpre := pre_slotStart h.toIssuing [(d.toNat, 8)]
  obtain ⟨h34, h14⟩ := hd
  have hewb := bpEwb_pos (cap1 s)
  have hread (i : Nat) (t : State) (hi : PlaneActs m.toNat s i)
      (ht : WroteCells d.toNat (bpEwb (cap1 s)) groupCell (fun i _ => wrap (planeA s (cap1 s) a.toNat i) (bpEwb (cap1 s))) s
        (cellsBelow m.toNat s 1 i) t) : bpA (cap1 s) a t i = planeA s (cap1 s) a.toNat i := by
    rw [bpA, vecOnly_ringSrc ht.frame]
    refine planeValue_eq _ fun k hk => ht.elem_source fun j l hdone => ?_
    obtain rfl := ht.within j l hdone
    have hreg := group_reg_lt hewb (planeActs_lt_vl hdone.1) hL
    rw [Nat.mul_one, Nat.div_eq_of_lt (planeActs_lt_vlmax h hi)]
    exact (ne_of_not_overlaps hapart hreg hk).symm
  exact planeSlot_group h (by simp [h.plane, h34, h14, hsrc, hgroup, hring, hplain]) (by rwa [List.forall_mem_singleton])
    (bpEwb_dvd (cap1 s)) hewb (vs := [a.toNat]) (by rw [hpre.cap1]) fun i t hi ht => ⟨_, by rw [hread i t hi ht]⟩

/-- Settles O32: every bit-plane slot is a run over elements that writes cells lying apart, so the sources of an element
still read as at the start when its turn comes. -/
theorem bitPlanes : Obligations.BitPlanes := by
  unfold Obligations.BitPlanes
  refine ⟨planeOps_wrote, fun d a b m s h hd => ⟨?vbtr, ?vbtri⟩⟩
  case vbtr =>
    rintro ⟨hok, h8, hreg, hL, hn, hring, hplain, hapart⟩
    exact vbtr_wrote h hd hok (groupBad_eq_false h8 hreg hL hn) hL hring hplain hapart
  case vbtri =>
    rintro ⟨hlt, hsrc, h8, hreg, hL, hn, hring, hplain, hapart, hfresh⟩
    exact vbtri_wrote h hd (by simp [planesOk, hlt, hsrc]) (groupBad_eq_false h8 hreg hL hn) hL hring hplain hapart hfresh

end Sys2Proof.Proofs
end
